-- ==== Sys2Proof/Word.lean ====
section
/-! DEFINITION. The words of the device (R7): bytes, 64-bit words and 128-bit instruction words, the numbers
that name its parts (R20), and the plainest arithmetic on them. -/

namespace Sys2Proof

/-- R7: a byte is 8 bits. -/
abbrev Byte := BitVec 8
/-- R7: a word is 64 bits. -/
abbrev Word := BitVec 64
/-- R7: an instruction word is 128 bits. -/
abbrev IWord := BitVec 128
/-- A 256-bit ciphertext descriptor (R49). -/
abbrev Desc := BitVec 256

/-- R20: the 128 polynomial arrays. -/
abbrev Pa := Fin 128
/-- R24: the eight hardware threads of a PA. -/
abbrev Thr := Fin 8
/-- R20: the four hub dies. -/
abbrev Hub := Fin 4
/-- R20: the twenty-four HBM stacks. -/
abbrev Stack := Fin 24
/-- The two Ethernet ports: 0 is port A, 1 is port B (R307). -/
abbrev EPort := Fin 2
/-- The eight Bridge ports (R336). -/
abbrev BPort := Fin 8

/-- Field `[lo+len-1 : lo]` of a word. -/
def field {n : Nat} (w : BitVec n) (lo len : Nat) : BitVec len := w.extractLsb' lo len

/-- Bit `i` of a word. -/
def bit {n : Nat} (w : BitVec n) (i : Nat) : Bool := w.getLsbD i

/-- A Boolean as one bit of weight `2^i`. -/
def bitAt (n i : Nat) (b : Bool) : BitVec n := if b then BitVec.ofNat n (2 ^ i) else 0

end Sys2Proof
end

