-- ==== Sys2Proof/Syntax.lean ====
section
/-! DEFINITION. The commands of the device: one constructor of `Instr` for each row of spec/opcode_table.json.
A row that is a Wonis instruction carries the thread that issues it and the 128-bit instruction word (R114);
a row that is an event, a message, a packet or a pin carries what the spec lets it say. -/

namespace Sys2Proof

/-- Why an already issued instruction is aborted (R67, R134): an uncorrectable word of a memory, or of a tile register or an
accumulator (R176), a cancel, a window lost at its owner (R350), or a loss of clock lock (R32). -/
inductive Abort where
  | ecc | cells | cancel | window | lossOfLock
  deriving DecidableEq, Repr

/-- The arbiters of R299: output `o` of router `r`, or hub stop `s`. -/
inductive Arb where
  | router (r : Fin 128) (o : Fin 5)
  | stop (s : Fin 32)
  deriving DecidableEq, Repr

/-- What a discarded packet carried (R304). -/
inductive LostPacket where
  /-- the request or response of the `n`-th instruction in flight of a PA -/
  | access (p : Pa) (n : Nat)
  /-- a channel message on its way to a receiver -/
  | message (c : Fin 1024) (p : Pa)
  /-- a combining-queue contribution on its way to the home -/
  | contribution (j : Fin 64) (n : Nat)
  /-- the request or response of a unit of a Bow -/
  | unit (p : Pa) (n : Nat)
  /-- a packet that no other state of the model stands for -/
  | other
  deriving DecidableEq, Repr

/-- Who asks for an access at a home (R254, R256, R260). -/
inductive Requester where
  | threads (p : Pa)
  | bow (p : Pa)
  | host (port : EPort)
  | bridge (n : BPort)
  | soundpost
  | cxl (i : Fin 2)
  deriving DecidableEq, Repr

/-- The stream classes of R257. -/
inductive StreamClass where
  | scratch | key | ciphertext | plaintext
  deriving DecidableEq, Repr

/-- The atomics of Table 4.12. -/
inductive AtomicOp where
  | add | swap | cas (expected : Word) | maxu
  deriving DecidableEq, Repr

/-- An access performed at a home. -/
inductive Access where
  | read (len : Nat)
  | write (data : List Byte)
  | atomic (op : AtomicOp) (operand : Word)
  deriving DecidableEq, Repr

/-- What a read of cache words finds (R259): words corrected, and the address of one that is uncorrectable. -/
structure CacheWords where
  corrected : Nat
  bad : Option (BitVec 48)
  deriving DecidableEq, Repr

/-- What the routers on a packet's way find of its flit words (R304): how many they correct, and the payload words, by
number, that are uncorrectable. -/
structure FlitEcc where
  corrected : Nat := 0
  bad : List Nat := []
  deriving DecidableEq, Repr

/-- What an HBM burst read finds (R267). -/
inductive BurstResult where
  /-- the burst is good; the stack reports this many corrections of its own -/
  | good (corrections : Nat)
  /-- the CRC failed once and the retry passed -/
  | retryPassed
  /-- the CRC failed twice -/
  | retryFailed
  /-- the stack reports the burst uncorrectable -/
  | stackUncorrectable
  deriving DecidableEq, Repr

/-- An Ethernet frame as far as R307 to R309 look at it. -/
structure Frame where
  port : EPort
  /-- the frame carries valid MACsec protection -/
  macsecOk : Bool
  /-- the VLAN identifier of its one 802.1Q tag, if it has one -/
  vlan : Option (BitVec 12)
  /-- 0: IPv4 (or ARP); 1: IPv6 -/
  v6 : Bool
  /-- the frame is an IP fragment -/
  fragment : Bool
  /-- the target address asked for, or the destination of an echo; IPv4 uses the low 32 bits -/
  target : BitVec 128
  srcMac : BitVec 48
  srcIp : BitVec 128
  deriving DecidableEq, Repr

/-- A GHT datagram: its frame, the UDP port that it names, and whether `ver` and `rsvd` of its outer header are right
(Table 11.2). -/
structure Datagram extends Frame where
  udp : BitVec 16
  outerOk : Bool
  deriving DecidableEq, Repr

/-- A protected GHT datagram's outer header and the inner header of its message (Tables 11.2 and 11.4), with
what the port's cryptography and the framing find: whether the tag verifies, and whether the inner header's flags, the
body's length and its reserved bytes are as Table 11.5 lays them out. Beside it stands what the request meets when it
starts: that its Peg access reaches the Peg in one hub cycle with one of the other port (R329), and the bits that hardware
sets in the cycle of each of its register writes (R15). -/
structure GHdr extends Datagram where
  sid : BitVec 32
  seq : Nat
  authOk : Bool
  bodyOk : Bool
  fence : Bool
  reqId : BitVec 32
  tie : Bool := false
  ties : List Word := []
  deriving DecidableEq, Repr

/-- The owner codes of a Peg cell (R326 and Table 11.11): 1 port A, 2 port B, 3 Soundpost. -/
inductive PegOwner where
  | port (e : EPort)
  | soundpost
  deriving DecidableEq, Repr

/-- How Bridge training ends (R341). -/
inductive TrainResult where
  | failed | x4 | x8
  deriving DecidableEq, Repr

/-- A Bridge flit (Table 12.3): its trailer fields and its payload. -/
structure Flit where
  crc : BitVec 32
  seq : BitVec 12
  ack : BitVec 12
  ackV : Bool
  nak : Bool
  vc : BitVec 2
  ftype : BitVec 4
  side : Word
  payload : List Byte
  deriving DecidableEq, Repr

/-- A Bridge packet header (Table 12.5) with its data. -/
structure Packet where
  dst : BitVec 8
  src : BitVec 8
  ttl : BitVec 8
  tag : BitVec 32
  addr : Word
  len : BitVec 32
  status : BitVec 32
  arg : Word
  data : List Byte
  deriving DecidableEq, Repr

/-- One 16-byte entry of an RHDR packet (R354). -/
structure RoundEntry where
  lgn : BitVec 3
  limbs : BitVec 6
  level : BitVec 6
  scheme : BitVec 3
  form : Bool
  tag : BitVec 48
  scale : BitVec 12
  noise : BitVec 16
  count : Nat
  unreliable : Bool
  deriving DecidableEq, Repr

/-- A reduction round header (R354): the context, the round, the device count the sender holds, its entries
and the modulus table fingerprint. -/
structure RoundHeader where
  ctx : Fin 4
  round : BitVec 32
  treeB : Bool
  entries : List RoundEntry
  fingerprint : BitVec 32
  deriving DecidableEq, Repr

/-- A reduction data block with its side fields and attached checksum (R339, R354, R356). -/
structure RoundBlock where
  ctx : Fin 4
  attempt : BitVec 3
  treeB : Bool
  index : BitVec 32
  words : List Word
  checksum : Word
  deriving DecidableEq, Repr

/-- Sources of corrected-error summaries (R416). -/
inductive CounterSrc where
  | pa (p : Pa)
  | cache (h : Hub)
  | hbm (n : Stack)
  | hbmRetry (n : Stack)
  | fretboard
  deriving DecidableEq, Repr

/-- What the signature checks of one image find (R381): whether sig_ed and sig_mldsa verify. -/
structure SigFacts where
  edOk : Bool
  dsaOk : Bool
  deriving DecidableEq, Repr

/-- One image as boot finds it in the store (R374, R381): its verification status (Table 13.7), its image
digest and the version fields that registers report. -/
structure ImageFact where
  status : BitVec 8
  digest : List Byte
  root : Fin 2
  verMajor : BitVec 8
  verMinor : BitVec 8
  verPatch : BitVec 16
  svn : BitVec 16
  deriving DecidableEq, Repr

/-- What one boot finds (R371, R375, R376, R392, R413): the eight images as the factory stored them (slot A's four, then slot
B's), the outcomes of the eight's signature checks, the Drone's self-test, the PUF check, the words of Tailpiece that fail, the PAs that fail their start-up
checks. -/
structure BootFacts where
  images : Vector ImageFact 8
  sigs : Vector SigFacts 8
  droneOk : Bool
  pufOk : Bool
  standbyOk : Bool
  badWords : List (Fin 8192)
  paFails : List Pa
  deriving DecidableEq, Repr

/-- The operands of a Drone job (Table 13.15), with the number of ML-DSA signing iterations its randomness
gives (R385). -/
structure DroneJob where
  slot : Fin 16
  prio : BitVec 2
  inOff : BitVec 16
  inLen : BitVec 16
  outOff : BitVec 16
  auxOff : BitVec 16
  haddr : BitVec 48
  units : BitVec 16
  outLen : BitVec 16
  fromRom : Bool
  iterations : Nat
  /-- a word of the operand buffer that the job reads proves uncorrectable (R387) -/
  badWord : Bool
  deriving DecidableEq, Repr

/-- What wakes the device (R425), beside the GHT request itself. -/
inductive WakeReason where
  | request | bridgePacket | tolerance | phyCal | service
  deriving DecidableEq, Repr

/-- The commands: one constructor for each row of spec/opcode_table.json, in the table's order. -/
inductive Instr where
  /-- NOP (R124). The all-zero instruction word issues and has no effect. -/
  | nop (p : Pa) (t : Thr) (w : IWord)
  /-- B (R124). A conditional branch compares two scalars and, if the condition holds, sets pc to the target. -/
  | branch (p : Pa) (t : Thr) (w : IWord)
  /-- JAL (R124). Writes pc + 1 to a scalar and jumps to an immediate target. -/
  | jal (p : Pa) (t : Thr) (w : IWord)
  /-- JR (R124). Writes pc + 1 to a scalar and jumps to the target held in a scalar register. -/
  | jr (p : Pa) (t : Thr) (w : IWord)
  /-- LOOP (R126). Latches a count and either pushes a hardware loop or, for a count of zero, skips the body. -/
  | loop (p : Pa) (t : Thr) (w : IWord)
  /-- TEND (R112). The thread stops issuing and its Bow run-ahead is cancelled. -/
  | tend (p : Pa) (t : Thr) (w : IWord)
  /-- THREAD_END (R112). A thread that issued TEND enters the ended state once its issued instructions and requested Bow units complete. -/
  | threadEnd (p : Pa) (t : Thr)
  /-- TSTART (R112). Starts an idle or ended thread of the same PA at a given pc. -/
  | tstart (p : Pa) (t : Thr) (w : IWord)
  /-- YIELD (R124). The sequencer moves issue to the next ready thread, if one exists. -/
  | yield (p : Pa) (t : Thr) (w : IWord)
  /-- ERET (R137). Returns the thread from handler state to run state at epc. -/
  | eret (p : Pa) (t : Thr) (w : IWord)
  /-- ERETN (R137). Returns the thread to run state at the instruction after epc, as if that instruction had completed without effect. -/
  | eretn (p : Pa) (t : Thr) (w : IWord)
  /-- SRD (R125). Reads a special value, such as a thread number, cycle counter, exception register or capability word, into a scalar. -/
  | srd (p : Pa) (t : Thr) (w : IWord)
  /-- ADD (R116). Scalar wrapping addition. -/
  | add (p : Pa) (t : Thr) (w : IWord)
  /-- SUB (R116). Scalar wrapping subtraction. -/
  | sub (p : Pa) (t : Thr) (w : IWord)
  /-- AND (R116). Scalar bitwise AND. -/
  | andS (p : Pa) (t : Thr) (w : IWord)
  /-- OR (R116). Scalar bitwise OR. -/
  | orS (p : Pa) (t : Thr) (w : IWord)
  /-- XOR (R116). Scalar bitwise XOR. -/
  | xorS (p : Pa) (t : Thr) (w : IWord)
  /-- SHL (R116). Scalar left shift. -/
  | shl (p : Pa) (t : Thr) (w : IWord)
  /-- SHR (R116). Scalar logical right shift. -/
  | shr (p : Pa) (t : Thr) (w : IWord)
  /-- SRA (R116). Scalar arithmetic right shift. -/
  | sra (p : Pa) (t : Thr) (w : IWord)
  /-- SLT (R116). Signed set-less-than. -/
  | slt (p : Pa) (t : Thr) (w : IWord)
  /-- SLTU (R116). Unsigned set-less-than. -/
  | sltu (p : Pa) (t : Thr) (w : IWord)
  /-- MIN (R116). Signed minimum. -/
  | minS (p : Pa) (t : Thr) (w : IWord)
  /-- MAX (R116). Signed maximum. -/
  | maxS (p : Pa) (t : Thr) (w : IWord)
  /-- MINU (R116). Unsigned minimum. -/
  | minu (p : Pa) (t : Thr) (w : IWord)
  /-- MAXU (R116). Unsigned maximum. -/
  | maxu (p : Pa) (t : Thr) (w : IWord)
  /-- MUL (R116). Low 64 bits of a scalar product. -/
  | mul (p : Pa) (t : Thr) (w : IWord)
  /-- MULHU (R116). High 64 bits of an unsigned scalar product. -/
  | mulhu (p : Pa) (t : Thr) (w : IWord)
  /-- MULH (R116). High 64 bits of a signed scalar product. -/
  | mulh (p : Pa) (t : Thr) (w : IWord)
  /-- DIVU (R117). Unsigned divide on the PA's shared divider, with the stated divide-by-zero results. -/
  | divu (p : Pa) (t : Thr) (w : IWord)
  /-- REMU (R117). Unsigned remainder on the shared divider. -/
  | remu (p : Pa) (t : Thr) (w : IWord)
  /-- DIV (R117). Signed divide, truncating toward zero. -/
  | divS (p : Pa) (t : Thr) (w : IWord)
  /-- REM (R117). Signed remainder, taking the sign of x. -/
  | rem (p : Pa) (t : Thr) (w : IWord)
  /-- AADD (R116). Address register addition. -/
  | aadd (p : Pa) (t : Thr) (w : IWord)
  /-- AMOV (R116). Moves a scalar into an address register. -/
  | amov (p : Pa) (t : Thr) (w : IWord)
  /-- AGET (R116). Moves an address register into a scalar. -/
  | aget (p : Pa) (t : Thr) (w : IWord)
  /-- LD (R118). Scalar load of 1, 2, 4 or 8 bytes, or a thread read of a control register. -/
  | ld (p : Pa) (t : Thr) (w : IWord)
  /-- ST (R118). Scalar store of 1, 2, 4 or 8 bytes, or a thread write of a control register. -/
  | st (p : Pa) (t : Thr) (w : IWord)
  /-- CLD (R123). Loads a 32-byte descriptor into a c register without checking it. -/
  | cld (p : Pa) (t : Thr) (w : IWord)
  /-- CST (R123). Stores a checked descriptor register to memory. -/
  | cst (p : Pa) (t : Thr) (w : IWord)
  /-- AMOADD (R120). Atomic fetch-and-add performed at the word's home. -/
  | amoadd (p : Pa) (t : Thr) (w : IWord)
  /-- AMOSWAP (R120). Atomic swap performed at the word's home. -/
  | amoswap (p : Pa) (t : Thr) (w : IWord)
  /-- AMOCAS (R120). Atomic compare-and-swap performed at the word's home. -/
  | amocas (p : Pa) (t : Thr) (w : IWord)
  /-- AMOMAXU (R120). Atomic unsigned maximum performed at the word's home. -/
  | amomaxu (p : Pa) (t : Thr) (w : IWord)
  /-- CMOV (R123). Copies a checked descriptor register. -/
  | cmov (p : Pa) (t : Thr) (w : IWord)
  /-- CGET (R122). Extracts one field of a descriptor into a scalar. -/
  | cget (p : Pa) (t : Thr) (w : IWord)
  /-- CBASE (R123). Replaces a descriptor's base after checking the new footprint. -/
  | cbase (p : Pa) (t : Thr) (w : IWord)
  /-- KLD (R181). Copies a key directory entry's header fields into a key handle. -/
  | kld (p : Pa) (t : Thr) (w : IWord)
  /-- KMOV (R122). Copies a key handle. -/
  | kmov (p : Pa) (t : Thr) (w : IWord)
  /-- QSEL (R286). Loads a handle to a channel or combining queue. -/
  | qsel (p : Pa) (t : Thr) (w : IWord)
  /-- QMOV (R122). Copies a queue handle. -/
  | qmov (p : Pa) (t : Thr) (w : IWord)
  /-- MSET (R122). Sets a lane mask from a scalar. -/
  | mset (p : Pa) (t : Thr) (w : IWord)
  /-- MGET (R122). Reads a lane mask into a scalar. -/
  | mget (p : Pa) (t : Thr) (w : IWord)
  /-- FENCE (R130). Waits until the SPM, MEM, SRC or UNIT conditions hold for the thread's earlier instructions. -/
  | fence (p : Pa) (t : Thr) (w : IWord)
  /-- BARPA (R131). Arrives at a PA-local thread-mask barrier; the last arrival releases every waiter on that mask. -/
  | barpa (p : Pa) (t : Thr) (w : IWord)
  /-- BARPKG (R132). Arrives at a package barrier once the conditions of FENCE bit 1 hold. -/
  | barpkg (p : Pa) (t : Thr) (w : IWord)
  /-- BARPKG_RELEASE (R132). After the last arrival at a package barrier, every waiter is released and the barrier resets. -/
  | barpkgRelease (b : Fin 32)
  /-- ISSUE_QUANTUM_EXPIRY (R97). A thread has issued for 256 consecutive cycles while another thread is ready, so issue moves to the next ready thread. -/
  | issueQuantumExpiry (p : Pa)
  /-- DEFERRED_EXCEPTION (R134). An abort of an already issued instruction arrives, latches into the exception registers and is delivered or discarded. -/
  | deferredException (p : Pa) (n : Nat) (why : Abort) (addr : BitVec 48)
  /-- CADD (R158). Tracked addition of a descriptor window. -/
  | cadd (p : Pa) (t : Thr) (w : IWord)
  /-- CSUB (R158). Tracked subtraction of a descriptor window. -/
  | csub (p : Pa) (t : Thr) (w : IWord)
  /-- CNEG (R158). Tracked negation of a descriptor window. -/
  | cneg (p : Pa) (t : Thr) (w : IWord)
  /-- CMULP (R158). Tracked multiply of a ciphertext window by a plaintext in evaluation form. -/
  | cmulp (p : Pa) (t : Thr) (w : IWord)
  /-- CMACP (R159). In-place tracked multiply-accumulate of a ciphertext by a plaintext into an accumulator ciphertext. -/
  | cmacp (p : Pa) (t : Thr) (w : IWord)
  /-- CRSC (R160). Rescale, modulus switch or limb drop using a staged correction window. -/
  | crsc (p : Pa) (t : Thr) (w : IWord)
  /-- CMUL (R189). Relinearising ciphertext multiply, run as Chord on the PA's group. -/
  | cmul (p : Pa) (t : Thr) (w : IWord)
  /-- CHORD (R189). Key switch of a ciphertext across the Chord group. -/
  | chord (p : Pa) (t : Thr) (w : IWord)
  /-- CROT (R189). Rotation by a Galois element followed by a key switch. -/
  | crot (p : Pa) (t : Thr) (w : IWord)
  /-- CCONJ (R189). Conjugation followed by a key switch. -/
  | cconj (p : Pa) (t : Thr) (w : IWord)
  /-- CHORD_ISSUE_TIMEOUT (R185). A group member has not issued within 65,536 cycles, so every member that has issued receives EXC_DEADLOCK. -/
  | chordIssueTimeout (g : Fin 4)
  /-- LMAD (R162). Untracked limb multiply-add. -/
  | lmad (p : Pa) (t : Thr) (w : IWord)
  /-- LMUL (R162). Untracked limb multiply. -/
  | lmul (p : Pa) (t : Thr) (w : IWord)
  /-- LADD (R162). Untracked limb addition. -/
  | ladd (p : Pa) (t : Thr) (w : IWord)
  /-- LSUB (R162). Untracked limb subtraction. -/
  | lsub (p : Pa) (t : Thr) (w : IWord)
  /-- LNEG (R162). Untracked limb negation. -/
  | lneg (p : Pa) (t : Thr) (w : IWord)
  /-- CNTT (R163). Forward NTT of a descriptor window. -/
  | cntt (p : Pa) (t : Thr) (w : IWord)
  /-- CINTT (R163). Inverse NTT of a descriptor window. -/
  | cintt (p : Pa) (t : Thr) (w : IWord)
  /-- CAUT (R163). Galois automorphism of a plaintext window. -/
  | caut (p : Pa) (t : Thr) (w : IWord)
  /-- LNTT (R163). Forward NTT of raw limbs. -/
  | lntt (p : Pa) (t : Thr) (w : IWord)
  /-- LINTT (R163). Inverse NTT of raw limbs. -/
  | lintt (p : Pa) (t : Thr) (w : IWord)
  /-- LAUT (R163). Galois automorphism of raw limbs. -/
  | laut (p : Pa) (t : Thr) (w : IWord)
  /-- BACC (R164). BCU accumulate of a constant matrix times a tile into an accumulator. -/
  | bacc (p : Pa) (t : Thr) (w : IWord)
  /-- BACCZ (R164). BCU accumulate from zero, clearing overflow flags and setting row moduli. -/
  | baccz (p : Pa) (t : Thr) (w : IWord)
  /-- ACLR (R164). Clears an accumulator and sets its row moduli. -/
  | aclr (p : Pa) (t : Thr) (w : IWord)
  /-- VMOV (R167). Copies 64-bit lanes, including halves of accumulator elements. -/
  | vmov (p : Pa) (t : Thr) (w : IWord)
  /-- VADD (R167). Typed lane addition with wrap or saturation. -/
  | vadd (p : Pa) (t : Thr) (w : IWord)
  /-- VSUB (R167). Typed lane subtraction with wrap or saturation. -/
  | vsub (p : Pa) (t : Thr) (w : IWord)
  /-- VMUL (R167). Typed lane multiply with wrap or saturation. -/
  | vmul (p : Pa) (t : Thr) (w : IWord)
  /-- VMULH (R167). High half of a typed lane product. -/
  | vmulh (p : Pa) (t : Thr) (w : IWord)
  /-- VMIN (R167). Typed lane minimum. -/
  | vmin (p : Pa) (t : Thr) (w : IWord)
  /-- VMAX (R167). Typed lane maximum. -/
  | vmax (p : Pa) (t : Thr) (w : IWord)
  /-- VAND (R167). Lane AND. -/
  | vand (p : Pa) (t : Thr) (w : IWord)
  /-- VOR (R167). Lane OR. -/
  | vor (p : Pa) (t : Thr) (w : IWord)
  /-- VXOR (R167). Lane XOR. -/
  | vxor (p : Pa) (t : Thr) (w : IWord)
  /-- VANDN (R167). Lane AND-NOT. -/
  | vandn (p : Pa) (t : Thr) (w : IWord)
  /-- VSHL (R168). Typed lane left shift. -/
  | vshl (p : Pa) (t : Thr) (w : IWord)
  /-- VSHR (R168). Logical lane right shift. -/
  | vshr (p : Pa) (t : Thr) (w : IWord)
  /-- VSRA (R168). Arithmetic lane right shift. -/
  | vsra (p : Pa) (t : Thr) (w : IWord)
  /-- VCMPEQ (R167). Lane equality compare. -/
  | vcmpeq (p : Pa) (t : Thr) (w : IWord)
  /-- VCMPLT (R167). Typed lane less-than compare. -/
  | vcmplt (p : Pa) (t : Thr) (w : IWord)
  /-- VSEL (R167). Lane select by a third source. -/
  | vsel (p : Pa) (t : Thr) (w : IWord)
  /-- VMSKR (R167). Turns one tile row into a 64-bit mask word. -/
  | vmskr (p : Pa) (t : Thr) (w : IWord)
  /-- VTRN (R167). Transposes a 64 × 64 tile. -/
  | vtrn (p : Pa) (t : Thr) (w : IWord)
  /-- VRED (R169). Reduces active elements along an axis by a selected operator. -/
  | vred (p : Pa) (t : Thr) (w : IWord)
  /-- FDOT (R224). Floating-point dot products in a fixed order. -/
  | fdot (p : Pa) (t : Thr) (w : IWord)
  /-- AREDQ (R165). Reduces accumulator elements modulo their row moduli. -/
  | aredq (p : Pa) (t : Thr) (w : IWord)
  /-- AOVF (R165). Writes the accumulator's row overflow flags to a scalar. -/
  | aovf (p : Pa) (t : Thr) (w : IWord)
  /-- SFFT (R220). Forward complex FFT on the STU. -/
  | sfft (p : Pa) (t : Thr) (w : IWord)
  /-- SIFFT (R220). Inverse complex FFT on the STU. -/
  | sifft (p : Pa) (t : Thr) (w : IWord)
  /-- SLOTIN (R221). SCVT mode 0 places slots in bit-reversed order as complex FP64 points. -/
  | slotin (p : Pa) (t : Thr) (w : IWord)
  /-- COEFOUT (R221). SCVT mode 1 twists, scales and rounds FFT output to biased integer coefficients. -/
  | coefout (p : Pa) (t : Thr) (w : IWord)
  /-- COEFIN (R221). SCVT mode 2 centres a residue limb and twists it into FFT input. -/
  | coefin (p : Pa) (t : Thr) (w : IWord)
  /-- SLOTOUT (R221). SCVT mode 3 reads slots out of FFT output in a float format. -/
  | slotout (p : Pa) (t : Thr) (w : IWord)
  /-- CONVERT (R212). SCVT mode 4 converts elements between formats. -/
  | convert (p : Pa) (t : Thr) (w : IWord)
  /-- SQNT (R214). Quantises elements into INT8 or INT4 blocks with dynamic or streamed scales. -/
  | sqnt (p : Pa) (t : Thr) (w : IWord)
  /-- SSTAT (R218). Updates a statistics record with counts, extremes and squared errors. -/
  | sstat (p : Pa) (t : Thr) (w : IWord)
  /-- CSPLIT (R199). Splits a ring ciphertext into ciphertexts of smaller dimension. -/
  | csplit (p : Pa) (t : Thr) (w : IWord)
  /-- CMERGE (R199). Merges parts written by CSPLIT. -/
  | cmerge (p : Pa) (t : Thr) (w : IWord)
  /-- CEXT (R199). Extracts one coefficient as an LWE ciphertext. -/
  | cext (p : Pa) (t : Thr) (w : IWord)
  /-- LKS (R199). LWE key switch to a smaller dimension. -/
  | lks (p : Pa) (t : Thr) (w : IWord)
  /-- CBR (R199). Blind rotation of an LWE ciphertext with a test polynomial. -/
  | cbr (p : Pa) (t : Thr) (w : IWord)
  /-- CXP (R199). External product of a ring ciphertext and a ring-GSW ciphertext. -/
  | cxp (p : Pa) (t : Thr) (w : IWord)
  /-- CPACK (R199). Packs 2^e LWE ciphertexts into one ring ciphertext. -/
  | cpack (p : Pa) (t : Thr) (w : IWord)
  /-- CXPT (R201). Exports a ciphertext on a channel and stalls the thread until it is answered, declined, timed out or cancelled. -/
  | cxpt (p : Pa) (t : Thr) (w : IWord)
  /-- EXPORT_TIMEOUT (R203). An export's timeout expires, so the CXPT ends with its destination poisoned. -/
  | exportTimeout (chan : BitVec 8)
  /-- BLDW (R236). Queues a fetch of a limb window from home into the SPM. -/
  | bldw (p : Pa) (t : Thr) (w : IWord)
  /-- BSTW (R236). Queues a store of a staged window to home. -/
  | bstw (p : Pa) (t : Thr) (w : IWord)
  /-- BLDP (R236). Queues a fetch of a Chord part. -/
  | bldp (p : Pa) (t : Thr) (w : IWord)
  /-- BSTP (R236). Queues a store of a Chord part. -/
  | bstp (p : Pa) (t : Thr) (w : IWord)
  /-- BKEY (R237). Queues the key blocks for the thread's next keyed instruction. -/
  | bkey (p : Pa) (t : Thr) (w : IWord)
  /-- BCPY (R239). Queues a linear copy with at least one side in the own SPM. -/
  | bcpy (p : Pa) (t : Thr) (w : IWord)
  /-- BMOVT (R241). Reads and checks a move descriptor and queues a tensor move. -/
  | bmovt (p : Pa) (t : Thr) (w : IWord)
  /-- BGATH (R244). Queues a row gather through an index tensor. -/
  | bgath (p : Pa) (t : Thr) (w : IWord)
  /-- BSCAT (R245). Queues a row scatter, with optional wrapping or modular accumulation. -/
  | bscat (p : Pa) (t : Thr) (w : IWord)
  /-- BCAN (R250). Cancels the issuing thread's Bow run-ahead. -/
  | bcan (p : Pa) (t : Thr) (w : IWord)
  /-- BOW_UNIT_REQUEST (R229). With a tag free and R231 satisfied, the Bow requests a unit of at most 4 KiB. `fixed` lists the SPM words that its reads corrected (R94). -/
  | bowUnitRequest (p : Pa) (fixed : List (Fin 1572864))
  /-- BOW_FETCH_LANDING (R229). A fetch unit's data is committed, or is discarded if the unit was cancelled, and the pending counts fall. -/
  | bowFetchLanding (p : Pa) (n : Nat) (bad : Option (BitVec 48))
  /-- BOW_EGRESS_ACK (R229). The destination acknowledges an egress unit's write, and the unit frees its tag. -/
  | bowEgressAck (p : Pa) (n : Nat) (bad : Option (BitVec 48))
  /-- SEND (R290). Places one message in the receiver's ring, or blocks for room. -/
  | send (p : Pa) (t : Thr) (w : IWord)
  /-- RECV (R291). Takes the next message of a channel, waiting if the ring is empty. -/
  | recv (p : Pa) (t : Thr) (w : IWord)
  /-- TRYRECV (R287). Takes the next message if one exists, without waiting. -/
  | tryrecv (p : Pa) (t : Thr) (w : IWord)
  /-- RFREE (R291). Frees the oldest taken message and sends a credit return. -/
  | rfree (p : Pa) (t : Thr) (w : IWord)
  /-- CQADD (R296). Contributes words to a round of a combining queue. -/
  | cqadd (p : Pa) (t : Thr) (w : IWord)
  /-- CQWAIT (R296). The home thread waits for the next round's result slot. -/
  | cqwait (p : Pa) (t : Thr) (w : IWord)
  /-- CHANNEL_MESSAGE_DELIVERY (R289). A message's payload and then its header are committed to a receiver's ring. -/
  | channelMessageDelivery (c : Fin 1024) (p : Pa) (flits : FlitEcc)
  /-- CREDIT_RETURN (R291). A credit return reaches the sender, updates its view of rp and may unblock a SEND. -/
  | creditReturn (c : Fin 1024) (p : Pa)
  /-- CQ_CONTRIBUTION_ARRIVAL (R296). A combining-queue contribution reaches the home, and a completed round is written to its slot. -/
  | cqContributionArrival (j : Fin 64) (n : Nat) (flits : FlitEcc)
  /-- MULTICAST_DROP (R294). A multicast receiver has lagged for lag_us in drop mode and is dropped. -/
  | multicastDrop (c : Fin 1024) (p : Pa)
  /-- MUTUAL_BLOCK_DETECT (R298). Two threads have been blocked on each other for 65,536 cycles, so both receive EXC_DEADLOCK. -/
  | mutualBlockDetect (p : Pa) (t : Thr) (p2 : Pa) (t2 : Thr)
  /-- ARBITER_WINDOW_START (R300). At each 1,024-cycle window boundary every arbiter reloads its credits from the weights. -/
  | arbiterWindowStart (hub : Bool)
  /-- ARBITER_FREEZE (R302). A write to an arbiter's freeze bit stops or resumes new grants. -/
  | arbiterFreeze (arb : Arb) (on : Bool)
  /-- FREEZE_REACHED (R302). A frozen arbiter's resource and link drain, and frozen sets. -/
  | freezeReached (arb : Arb)
  /-- DEBUG_FLIT_ACCESS (R303). Soundpost debug takes a router output for one flit. -/
  | debugFlitAccess (r : Fin 128) (o : Fin 5)
  /-- HEADER_DISCARD (R304). A router finds an uncorrectable header sideband, discards the packet and records the location. -/
  | headerDiscard (r : Fin 128) (i : Fin 5) (lost : LostPacket)
  /-- RESPONSE_TIMEOUT (R304). An access whose request or response was lost ends with EXC_ECC after resp_timeout. -/
  | responseTimeout (p : Pa) (n : Nat)
  /-- REMOTE_SPM_ACCESS (R254). A request from another PA, a host or a Bridge peer is served at the owning PA's SPM. `fixed` lists the SPM words that its reads corrected (R94). -/
  | remoteSpmAccess (rq : Requester) (owner : Pa) (off : BitVec 24) (acc : Access) (fixed : List (Fin 1572864))
      (flits : FlitEcc)
  /-- SLICE_REQUEST (R256). A request to an HBM address is performed at its package cache slice. `found` is what a hit finds of the words of its line (R259). -/
  | sliceRequest (rq : Requester) (cls : StreamClass) (addr : BitVec 48) (acc : Access) (found : CacheWords)
  /-- CACHE_FILL (R258). HBM data returns to a slice, fills a line chosen by the victim policy and answers the request. -/
  | cacheFill (h : Hub) (n : Nat)
  /-- PREFETCH_ISSUE (R260). A stream tracker issues a prefetch while the read queue holds fewer than 32 requests. -/
  | prefetchIssue (h : Hub) (k : Fin 32)
  /-- TRACKER_IDLE_END (R260). A stream tracker idle for 10 µs ends. -/
  | trackerIdleEnd (h : Hub) (k : Fin 32)
  /-- CACHE_BANK_DRAIN (R261). Setting a req bit without force starts a drain of a cache bank, and clearing it stops the drain or powers the bank up. -/
  | cacheBankDrain (h : Hub) (b : Fin 16) (on : Bool)
  /-- CACHE_BANK_FORCE_DOWN (R262). Setting req and force together forces a bank down and drops its uncommitted writes with errors. -/
  | cacheBankForceDown (h : Hub) (b : Fin 16)
  /-- CACHE_BANK_OFF (R261). A draining bank has every line invalid and no outstanding write, so it powers off. -/
  | cacheBankOff (h : Hub) (b : Fin 16)
  /-- HBM_READ_RETURN (R267). An HBM burst returns, its CRC is checked and it is retried once or handled as uncorrectable. -/
  | hbmReadReturn (n : Stack) (addr : BitVec 48) (res : BurstResult)
  /-- HBM_REFRESH (R266). A bank refresh falls due, is postponed while row hits are queued, or closes the bank at its limit. -/
  | hbmRefresh (n : Stack) (pc : Fin 32) (bank : Fin 64) (rowHits : Bool)
  /-- HBM_TEMP_REPORT (R269). A stack reports its temperature and may change thermal state and compute coupling. -/
  | hbmTempReport (n : Stack) (temp : BitVec 8)
  /-- HBM_RETIRE (R268). A write to HBM_RET retires or restores a 4 KiB unit once the RWP write completes. -/
  | hbmRetire (n : Stack) (i : Fin 64)
  /-- CXL_READY (R271). Soundpost trains and enumerates a CXL expander, and the port's range becomes populated. -/
  | cxlReady (i : Fin 2) (cap : BitVec 14) (x16 : Bool) (gt64 : Bool)
  /-- CXL_LINK_DOWN (R277). A CXL link goes down; ready clears and accesses fail while the range stays mapped. -/
  | cxlLinkDown (i : Fin 2)
  /-- CXL_PORT_ENABLE (R397). Clearing and then setting CXL_CFG.en with no program resident resets the port's domain. -/
  | cxlPortEnable (i : Fin 2) (on : Bool)
  /-- MERGE_IDLE_TIMEOUT (R95). A merge-buffer entry untouched for merge_idle cycles becomes due to drain. -/
  | mergeIdleTimeout (p : Pa) (n : Nat)
  /-- MERGE_DRAIN (R95). A due merge entry takes a write slot, reading the line first if it holds partial words. `fixed` lists the SPM words that its reads corrected (R94). -/
  | mergeDrain (p : Pa) (fixed : List (Fin 1572864))
  /-- GUARD_PROMOTE (R92). A priority-5 or priority-6 SPM request that has waited guard cycles is raised to priority 1. -/
  | guardPromote (p : Pa) (n : Nat)
  /-- CORRECTION_WRITE_BACK (R94). A queued write-back of a corrected SPM word commits, or is discarded if a newer write committed first. -/
  | correctionWriteBack (p : Pa) (n : Nat)
  /-- QUIESCE (R100). Setting PA_CTRL.quiesce stops issue and drains the merge buffer; clearing it resumes issue. -/
  | quiesce (p : Pa) (on : Bool)
  /-- QUIESCE_REACHED (R100). Every unit is idle and the merge buffer empty, so PA_STAT.quiesced sets. -/
  | quiesceReached (p : Pa)
  /-- REGISTER_WRITE (R12). A write to a register field that has no row of its own, applied by its access code; `ties` are
  the bits that hardware sets, or for a W1S bit clears, in the same cycle (R15). -/
  | registerWrite (addr : BitVec 48) (v : Word) (ties : Word)
  /-- RWP_WRITE_COMPLETE (R16). An RWP write completes 12 µs after acceptance, its effects apply and a waiting write to the register is accepted. -/
  | rwpWriteComplete (addr : BitVec 48)
  /-- PLL_LOSS_OF_LOCK (R32). A PLL loses lock, stopping its domain's crossings with effects that depend on the domain. -/
  | pllLossOfLock (k : Fin 27)
  /-- PLL_RELOCK (R38). A PLL locks again, its live bit returns and its domain's recovery proceeds. -/
  | pllRelock (k : Fin 27)
  /-- ARP_REQUEST (R307). An ARP request for the port's address is answered. -/
  | arpRequest (f : Frame)
  /-- NEIGHBOUR_SOLICITATION (R307). An IPv6 neighbour solicitation for the port's address is answered. -/
  | neighbourSolicitation (f : Frame)
  /-- ICMP_ECHO (R307). An ICMP or ICMPv6 echo is answered. -/
  | icmpEcho (f : Frame) (payload : List Byte)
  /-- FRAME_DISCARD (R308). A frame that Table 11.1 does not answer, or a fragment, is discarded. -/
  | frameDiscard (f : Frame)
  /-- HELLO (R314). A host opens a handshake, and the device starts key agreement or refuses with an unsigned status. -/
  | hello (d : Datagram) (role : BitVec 8) (rsvd : BitVec 8) (nonce : List Byte) (x25519 : List Byte) (kem : List Byte)
  /-- FINISH (R313). A host sends its key signatures, which the device checks against the host key entries. -/
  | finish (d : Datagram) (sid : BitVec 32) (authOk : Bool) (edPk : List Byte) (dsaPk : List Byte) (sigsOk : Bool)
  /-- HANDSHAKE_TIMEOUT (R314). A session without a valid FINISH within 1 s of HELLO_R is discarded. -/
  | handshakeTimeout (sid : BitVec 32)
  /-- SESSION_IDLE_TIMEOUT (R315). A session with no valid datagram for idle_s ends and its Peg cells are abandoned. -/
  | sessionIdleTimeout (slot : Fin 16)
  /-- REG_READ (R318). The host reads up to 64 control registers in list order. -/
  | regRead (h : GHdr) (addrs : List Word)
  /-- REG_WRITE (R318). The host writes up to 64 control registers in list order, stopping at the first failure. -/
  | regWrite (h : GHdr) (writes : List (Word × Word))
  /-- MEM_READ (R318). The host reads up to 8,192 bytes of HBM, SPM or far tier. -/
  | memRead (h : GHdr) (addr : Word) (len : BitVec 32) (cls : BitVec 8)
  /-- MEM_WRITE (R318). The host writes up to 8,192 bytes, checked whole before the first byte. -/
  | memWrite (h : GHdr) (addr : Word) (cls : BitVec 8) (data : List Byte)
  /-- KEY_WRITE (R319). The host uploads key bytes, with the header checked when the offset is 0. -/
  | keyWrite (h : GHdr) (base : Word) (off : Word) (data : List Byte)
  /-- DOORBELL (R324). The host atomically adds to a word at its home and receives the old value. -/
  | doorbell (h : GHdr) (addr : Word) (addend : Word)
  /-- WATCH (R324). The session installs or replaces a watch on an HBM word. -/
  | watch (h : GHdr) (addr : Word) (wid : BitVec 8)
  /-- UNWATCH (R316). The session removes a watch. -/
  | unwatch (h : GHdr) (wid : BitVec 8)
  /-- WATCH_EVENT (R324). After a write to a watched word, a coalesced EVENT with code 2 is sent at most once per 10 µs. -/
  | watchEvent (slot : Fin 16) (wid : Fin 16)
  /-- PROG_LOAD (R321). The host asks the device to check and load a program image through the steps of Table 4.5. -/
  | progLoad (h : GHdr) (addr : Word) (timeoutS : BitVec 32)
  /-- PROG_LOAD_COMPLETE (R106). A load ends resident or refused, the response is sent and start-at-load threads start. -/
  | progLoadComplete
  /-- PROG_UNLOAD (R322). The host cancels any running thread and unloads the program. -/
  | progUnload (h : GHdr)
  /-- PROG_CANCEL (R322). The host cancels the resident program by delivering EXC_CANCEL to every running thread. -/
  | progCancel (h : GHdr)
  /-- CANCEL_COMPLETE (R322). Every thread has left run and handler state, so the cancel or unload is answered. -/
  | cancelComplete
  /-- PROGRAM_TIMEOUT (R323). The program timeout expires before completion and the program is cancelled. -/
  | programTimeout
  /-- ATTEST (R383). The host asks for a signed attestation report bound to its nonce. -/
  | attest (h : GHdr) (nonce : List Byte)
  /-- MACSEC_KEY (R309). Installs or removes a MACsec secure association key on the port. -/
  | macsecKey (h : GHdr) (suite : BitVec 8) (an : BitVec 8) (sci : Word) (sak : List Byte) (ssci : BitVec 32) (salt : List Byte)
  /-- EXPORT_RESEND (R325). The device sends a named range of an open export's footprint again. -/
  | exportResend (h : GHdr) (chan : BitVec 8) (off : Word) (len : Word)
  /-- ANSWER_BEGIN (R326). A checked answer descriptor binds an open export to the session. -/
  | answerBegin (h : GHdr) (chan : BitVec 8) (desc : BitVec 256)
  /-- ANSWER_DATA (R326). A piece of answer data is written at its offset. -/
  | answerData (h : GHdr) (chan : BitVec 8) (off : Word) (data : List Byte)
  /-- ANSWER_END (R326). A fully covered answer is accepted and the exporting thread resumes. -/
  | answerEnd (h : GHdr) (chan : BitVec 8)
  /-- DECLINE (R203). The host declines an export, ending CXPT with its destination poisoned. -/
  | decline (h : GHdr) (chan : BitVec 8)
  /-- EVENT_ACK (R324). The host acknowledges an event, which stops its retransmission. -/
  | eventAck (h : GHdr) (eseq : BitVec 32)
  /-- EVENT_RETRANSMIT (R324). An unacknowledged event is sent again every 2 ms. -/
  | eventRetransmit (slot : Fin 16) (eseq : BitVec 32)
  /-- PING (R316). A host liveness request answered with no effect. -/
  | ping (h : GHdr)
  /-- CLOSE (R315). Either side closes the session. -/
  | close (h : GHdr) (byDevice : Bool)
  /-- ETH_LINK_UP (R307). An Ethernet port's link comes up with FEC locked. -/
  | ethLinkUp (port : EPort) (optical : Bool)
  /-- ETH_LINK_DOWN (R315). An Ethernet port's link goes down without ending any session. -/
  | ethLinkDown (port : EPort)
  /-- PEG_ACQUIRE (R327). A read of PEG_LOCK acquires a free cell and returns its prior word. -/
  | pegAcquire (who : PegOwner) (i : Fin 64) (tie : Bool)
  /-- PEG_RELEASE (R328). A write of PEG_LOCK releases a cell that the requester owns. -/
  | pegRelease (who : PegOwner) (i : Fin 64) (tie : Bool)
  /-- PEG_BREAK (R331). A control session frees a cell held by the other port. -/
  | pegBreak (port : EPort) (i : Fin 64) (tie : Bool)
  /-- CAPO_TOL_WRITE (R420). The port's control session states its tolerable wake latency. -/
  | capoTolWrite (slot : Fin 16) (p : EPort) (us : BitVec 32)
  /-- BRG_SIGNAL_DETECT (R341). An enabled Down Bridge port detects signal, or its 1 s retry falls due, and it begins training. -/
  | brgSignalDetect (n : BPort)
  /-- BRG_TRAINING_END (R341). Training ends, moving the port to Ident or back to Down. -/
  | brgTrainingEnd (n : BPort) (lanes : TrainResult)
  /-- BRIDGE_IDENT (R342). IDENT flits are exchanged, the port enters Up and its wiring is checked. -/
  | bridgeIdent (n : BPort) (serial : Word) (peerPort : BitVec 3) (addr : BitVec 8) (valid : Bool)
  /-- BRIDGE_FLIT_RECEIVE (R340). A flit arrives and is checked, acknowledged or refused with a nak that triggers a replay.
  `fec` counts the codewords that the FEC corrected since the last flit. -/
  | bridgeFlitReceive (n : BPort) (flit : Flit) (fec : BitVec 16)
  /-- BRG_LANE_LOSS (R341). An Up port loses a lane, or exhausts its replays, and enters Retrain. -/
  | brgLaneLoss (n : BPort)
  /-- BRG_RETRAIN_END (R341). A retrain completes to Ident or fails to Down, firing the link-down signal. -/
  | brgRetrainEnd (n : BPort) (ok : Bool)
  /-- BRG_PORT_ENABLE (R397). Clearing or setting BRG_PORT_CFG.enable takes a port down or lets it train. -/
  | brgPortEnable (n : BPort) (on : Bool)
  /-- RD (R350). A window read packet is checked and served at its owner, or forwarded. -/
  | rd (n : BPort) (pkt : Packet)
  /-- WR (R350). A window write packet is checked and performed at its owner, or forwarded. -/
  | wr (n : BPort) (pkt : Packet)
  /-- RDR (R343). A read response with data reaches its requester. -/
  | rdr (n : BPort) (pkt : Packet)
  /-- WACK (R350). A write acknowledgement reaches its requester. -/
  | wack (n : BPort) (pkt : Packet)
  /-- WINDOW_RESPONSE_TIMEOUT (R350). A window request with no response after 10 ms ends with a deferred EXC_ECC. -/
  | windowResponseTimeout (p : Pa) (n : Nat)
  /-- ASSIGN (R345). An enumeration token assigns a pending address and passes on, or returns to the master. -/
  | assign (n : BPort) (pkt : Packet)
  /-- END (R345). The chain-end count returns towards the master. -/
  | endTok (n : BPort) (pkt : Packet)
  /-- COMMIT (R345). The enumeration status is applied, setting or discarding pending addresses. -/
  | commit (n : BPort) (pkt : Packet)
  /-- CEND (R345). The commit reached the chain end and returns to the master. -/
  | cend (n : BPort) (pkt : Packet)
  /-- ENUMERATION_START (R344). Writing BRG_SYS_CTL.enum on a master starts enumeration. -/
  | enumerationStart
  /-- AUTO_ENUM_START (R344). With auto_enum set, a master starts enumeration 100 ms after BRG1 comes Up. -/
  | autoEnumStart
  /-- ENUMERATION_TIMEOUT (R345). A token has not returned within 100 ms, so the attempt ends with status 4. -/
  | enumerationTimeout
  /-- MSTR_SEL_CHANGE (R461). The filtered level of MSTR_SEL changes and applies at the next enumeration start. -/
  | mstrSelChange (level : Bool)
  /-- WINDOW_OPEN (R347). Setting BRG_WIN_CTL.enable checks the window and announces it to the permitted peers. -/
  | windowOpen (i : Fin 16)
  /-- WINDOW_CLOSE (R348). Clearing enable sends WITHDRAW to the peers. -/
  | windowClose (i : Fin 16)
  /-- ANNOUNCE (R348). A peer adds an announced window to its peer window table and answers. -/
  | announce (n : BPort) (pkt : Packet)
  /-- WITHDRAW (R348). A peer removes a window entry and answers once its checked accesses have completed. -/
  | withdraw (n : BPort) (pkt : Packet)
  /-- WINACK (R348). An acknowledgement arrives; when every peer has answered, open sets or closing clears. -/
  | winack (n : BPort) (pkt : Packet)
  /-- ROUND_ARM (R353). The reduction engine sees a store to the arm word and starts or holds round r. `upset`: a block whose
  own output compare fails (R356) among the sums that the command completes. -/
  | roundArm (j : Fin 4) (v : Word) (upset : Option (BitVec 32))
  /-- RHDR (R354). A reduction header arrives, is merged and checked, and is sent upward. `upset` as in ROUND_ARM. -/
  | rhdr (n : BPort) (hdr : RoundHeader) (upset : Option (BitVec 32))
  /-- REDUCTION_BLOCK (R354). A reduction data block arrives, is checksummed and summed up the tree or written on the way down.
  `upset`: the output compare of the sum that it completes fails (R356). -/
  | reductionBlock (n : BPort) (blk : RoundBlock) (upset : Bool)
  /-- ABORT (R357). A round abort stops the round, discards partial results and is acknowledged towards the root. -/
  | abortRound (n : BPort) (j : Fin 4) (code : BitVec 8)
  /-- RESTART (R357). The root restarts a round with the next attempt number. -/
  | restart (n : BPort) (j : Fin 4) (attempt : BitVec 3)
  /-- ROUND_TIMEOUT (R357). A device waits longer than timeout_ms, so the round fails with code 4. -/
  | roundTimeout (j : Fin 4)
  /-- ROUND_DONE (R358). Once its result writes are performed, the device writes the done word and updates round, starting any held arm. `upset` as
  in ROUND_ARM. -/
  | roundDone (j : Fin 4) (upset : Option (BitVec 32))
  /-- CONTEXT_DISABLE (R363). Clearing a running context's enable fails its round with code 7. -/
  | contextDisable (j : Fin 4)
  /-- HEARTBEAT (R365). The active Soundpost writes its 10 ms heartbeat. -/
  | heartbeat
  /-- STANDBY_TAKEOVER (R365). After 50 ms without a heartbeat, or an HD0 Soundpost PLL loss, the standby takes over. -/
  | standbyTakeover
  /-- SENSOR_SAMPLE (R366). Soundpost samples the die sensors every 1 ms and sets warn and trip. -/
  | sensorSample (temps : Vector (BitVec 8) 12)
  /-- THERM_ALERT (R367). THERM_ALERT_N goes low, and every die is treated as at warn. -/
  | thermAlert (low : Bool)
  /-- SENSOR_MAX_RESET (R366). Writing SPT_TEMP reset_max sets max to cur. -/
  | sensorMaxReset (i : Fin 12)
  /-- LOG_SUMMARY (R416). A once-per-second summary record is written for corrected-error counters that changed. -/
  | logSummary (src : CounterSrc)
  /-- LOG_LATCH (R370). A write to SPT_LOG_SEL latches a log record for the port. -/
  | logLatch (p : EPort) (seq : BitVec 32)
  /-- VERIFY (R382). Mailbox command 0x01 verifies an image held in HBM. -/
  | verify (p : EPort) (sigs : SigFacts)
  /-- MAILBOX_COMMAND_END (R394). A mailbox command completes with its status and results. -/
  | mailboxCommandEnd (p : EPort)
  /-- SLOT_WRITE (R403). Verifies a four-image bundle, programs it into an image slot and reads it back. -/
  | slotWrite (p : EPort) (sigs : Vector SigFacts 4) (readBackOk : Bool)
  /-- SP_RESTART (R404). Resets the Soundpost domain and reboots its firmware. -/
  | spRestart (p : EPort) (boot : BootFacts)
  /-- MC_APPLY (R405). Takes a PA offline, loads the running slot's microcode and brings it back online. -/
  | mcApply (p : EPort) (sigs : Vector SigFacts 2) (fails : List (Fin 16 × BitVec 8))
  /-- PA_CYCLE (R406). Resets a PA and runs its start-up checks with the running microcode. -/
  | paCycle (p : EPort) (fails : List (Fin 16 × BitVec 8))
  /-- PHY_CAL (R407). Recalibrates a PHY target and optionally persists the results. -/
  | phyCal (p : EPort) (results : Vector Word 8)
  /-- LINK_SET (R408). Excludes or restores a Fretboard link by freezing it and installing detours. -/
  | linkSet (p : EPort)
  /-- DEVICE_RESET (R401). A service command that resets the device domain. -/
  | deviceReset (p : EPort)
  /-- X25519_GEN (R385). Drone generates a random X25519 scalar and outputs its public u. -/
  | x25519Gen (j : Fin 4) (job : DroneJob)
  /-- X25519 (R385). Drone computes an X25519 shared secret with a peer u. -/
  | x25519 (j : Fin 4) (job : DroneJob)
  /-- ED_GEN (R385). Drone writes an Ed25519 key from a seed, from ROM only. -/
  | edGen (j : Fin 4) (job : DroneJob)
  /-- ED_SIGN (R385). Drone signs with an Ed25519 key slot. -/
  | edSign (j : Fin 4) (job : DroneJob)
  /-- ED_VERIFY (R385). Drone verifies an Ed25519 signature. -/
  | edVerify (j : Fin 4) (job : DroneJob)
  /-- KEM_GEN (R385). Drone generates an ML-KEM-768 key pair. -/
  | kemGen (j : Fin 4) (job : DroneJob)
  /-- KEM_ENCAPS (R385). Drone encapsulates an ML-KEM-768 shared secret. -/
  | kemEncaps (j : Fin 4) (job : DroneJob)
  /-- KEM_DECAPS (R385). Drone decapsulates an ML-KEM-768 ciphertext. -/
  | kemDecaps (j : Fin 4) (job : DroneJob)
  /-- DSA_GEN (R385). Drone writes an ML-DSA-65 key from its seed, from ROM only. -/
  | dsaGen (j : Fin 4) (job : DroneJob)
  /-- DSA_SIGN (R385). Drone performs hedged ML-DSA-65 signing. -/
  | dsaSign (j : Fin 4) (job : DroneJob)
  /-- DSA_VERIFY (R385). Drone verifies an ML-DSA-65 signature. -/
  | dsaVerify (j : Fin 4) (job : DroneJob)
  /-- SHA3_384 (R385). Drone hashes a buffer or an HBM stream with SHA3-384. -/
  | sha3384 (j : Fin 4) (job : DroneJob)
  /-- SHAKE256 (R385). Drone absorbs and squeezes with SHAKE256. -/
  | shake256 (j : Fin 4) (job : DroneJob)
  /-- RAND (R390). Drone outputs random bytes from its generator. -/
  | rand (j : Fin 4) (job : DroneJob)
  /-- CLEAR (R389). Drone zeroes an unlocked key slot. -/
  | clear (j : Fin 4) (job : DroneJob)
  /-- DRONE_YIELD (R388). At each 4,096-cycle yield point the Drone switches to the highest-priority waiting job. -/
  | droneYield
  /-- DRONE_JOB_END (R396). A Drone job ends at its fixed time, writes its outputs and status, and sets done. -/
  | droneJobEnd (j : Fin 4)
  /-- RNG_RESEED (R390). After 2^20 outputs the random generator reseeds. -/
  | rngReseed
  /-- RNG_HEALTH_FAIL (R390). A health test on the entropy source fails, so randomness operations fail until a test passes. -/
  | rngHealthFail
  /-- CAPO_STEP_DEEPER (R422). The device has stayed idle for hold_us in a state shallower than the target, so entry to the next state begins. -/
  | capoStepDeeper
  /-- CAPO_ENTRY_STEP_DONE (R423). An entry step's clock-stop acknowledgements or drains complete, and the state is reached. -/
  | capoEntryStepDone
  /-- CAPO_WAKE_EVENT (R425). A wake event, such as a GHT request, a Bridge packet or a tolerance drop, starts a wake to P0. -/
  | capoWakeEvent (why : WakeReason)
  /-- CAPO_WAKE_WRITE (R425). A write of CAPO_CTL.wake requests a wake to P0. -/
  | capoWakeWrite (tie : Bool)
  /-- WAKE_COMPLETE (R426). The device reaches P0, and requests held by the wake are performed. -/
  | wakeComplete (failed : List Pa)
  /-- WAKE_LOCK_TIMEOUT (R424). A PLL has not locked within the wake max and counts as a loss of lock. -/
  | wakeLockTimeout (k : Fin 27)
  /-- POWER_SAMPLE (R428). Capo samples input power every 10 µs, updates the 1 ms average and may cut plim_f to 8. -/
  | powerSample (watts : BitVec 16) (mv : BitVec 16)
  /-- PLIM_ADJUST (R428). Every 100 µs plim_f falls, or every 1 ms it rises, according to the average power. -/
  | plimAdjust (raise : Bool)
  /-- HBM_CRITICAL_TIMEOUT (R429). A stack has stayed Critical for 10 s, which begins a trip halt. -/
  | hbmCriticalTimeout (n : Stack)
  /-- THERMAL_SHUTDOWN (R429). A halt lasting trip_s, or 125 °C at a comparator, forces the banks down, removes the rails and holds reset. -/
  | thermalShutdown
  /-- CAPO_COMPARATOR (R429). Capo's own comparators see a die at 125 °C. -/
  | capoComparator (d : Fin 12)
  /-- INPUT_UNDERVOLTAGE (R430). Input below 40.0 V for 100 µs gates issue and forces the cache banks down. -/
  | inputUndervoltage (mv : BitVec 16)
  /-- UNDERVOLTAGE_RECOVERY (R430). Input above 42.0 V for 10 ms ends the undervoltage. -/
  | undervoltageRecovery
  /-- POWER_STAGE_FAULT (R433). A power stage reports a fault, handled as a trip halt that has reached trip_s. -/
  | powerStageFault (r : Fin 4) (stage : BitVec 8)
  /-- CAPO_PEAK_CLEAR (R432). Writing CAPO_PWR.peak_clr sets peak_w to pin_w. -/
  | capoPeakClear
  /-- SNAPSHOT_TAKE (R443). Writing OVT_PA_SNAP.take copies every PA counter into the shadow and increments gen. -/
  | snapshotTake (p : Pa) (tie : Bool)
  /-- SNAP_ALL (R443). Writing OVT_CTL.snap_all copies the hub counters and starts snapshots on every online PA. -/
  | snapAll
  /-- SNAP_ALL_PA_TAKE (R443). Between 20 and 36 cycles after a snap_all, each online PA takes its snapshot. -/
  | snapAllPaTake (p : Pa) (tie : Bool)
  /-- BANDWIDTH_WINDOW_END (R445). A package window ends; the LAST and PEAK words update and OVT_WIN_SEQ increments. -/
  | bandwidthWindowEnd
  /-- WINDOW_LENGTH_WRITE (R445). A write to OVT_WIN_CFG.log2len discards the current window and restarts windows. -/
  | windowLengthWrite (v : BitVec 5)
  /-- OVT_PEAK_CLEAR (R445). Writing OVT_WIN_CFG.peak_clr sets every peak to zero. -/
  | ovtPeakClear
  /-- INPUT_POWER_UP (R453). The input stays at or above 42.0 V for 10 ms, and the rails come up in order. -/
  | inputPowerUp (strap : BitVec 2)
  /-- RESET_N_ASSERT (R455). RESET_N held low for 10 µs resets the device domain after completing accepted RWP writes. -/
  | resetNAssert
  /-- RESET_RELEASE (R375). Reset is released and the measured boot runs through its steps. -/
  | resetRelease (boot : BootFacts)
  /-- BROWN_OUT (R456). Input below 36.0 V for 20 µs turns every rail off. -/
  | brownOut
  /-- IDENT (R462). Sideband block read of GLB_ID and GLB_SERIAL. -/
  | ident
  /-- STATUS (R462). Sideband read of the Capo state and health bits. -/
  | status
  /-- TEMP (R462). Sideband read of the die and hottest-stack temperatures. -/
  | temp
  /-- POWER (R462). Sideband read of the input power and voltage. -/
  | power
  /-- EVT (R462). Sideband read of, or write-1-to-clear of, the event byte that drives SMB_ALERT_N. -/
  | evt (clear : Option (BitVec 8)) (ties : BitVec 8) (pecOk : Bool)
  /-- RCV_SLOT (R463). Selects the recovery target slot. -/
  | rcvSlot (v : BitVec 8) (pecOk : Bool)
  /-- RCV_ADDR (R463). Sets the recovery write offset. -/
  | rcvAddr (v : BitVec 32) (pecOk : Bool)
  /-- RCV_DATA (R463). Writes 32 bytes into the recovery slot and advances the offset. -/
  | rcvData (data : Vector Byte 32) (pecOk : Bool)
  /-- RCV_GO (R463). Verifies the recovery slot and, on success, boots from it. -/
  | rcvGo (v : BitVec 8) (sigs : Vector SigFacts 4) (boot : BootFacts) (pecOk : Bool)
  /-- RCV_STAT (R462). Sideband read of the recovery status. -/
  | rcvStat
  /-- INSTRUCTION_COMPLETION (R175). An issued polynomial, vector, scalar-memory or keyed instruction completes at issue + G + F, writing its results, flags word or destination descriptor and freeing its unit and footprint slot. `fixed` lists the SPM words that its reads corrected (R94), none for a word of a tile register or an accumulator (R176). -/
  | instructionCompletion (p : Pa) (n : Nat) (fixed : List (Option (Fin 1572864)))
  /-- ILLEGAL_INSTRUCTION (R115). An instruction word whose grp is 13 to 15, whose ext is 1 or whose op is unlisted, or an issue beyond IMEM word 16,383, raises EXC_ILLEGAL at issue. -/
  | illegalInstruction (p : Pa) (t : Thr) (w : IWord)
  /-- UNLISTED_MESSAGE_TYPE (R316). A protected inner message whose type is unlisted is answered with MALFORMED and has no effect. -/
  | unlistedMessageType (h : GHdr) (ty : BitVec 16)
  /-- FAR_TIER_ACCESS (R273). A read or write to the CXL far tier is performed at the expander through its port's hub, and its response returns, possibly poisoned or failed on a down link. -/
  | farTierAccess (rq : Requester) (addr : BitVec 48) (acc : Access) (poison : Bool)
  /-- RNG_HEALTH_PASS (R390). A continuous health test on the entropy source passes again, so RAND and the randomness-using Drone operations stop failing with ERR_RANGE. -/
  | rngHealthPass
  /-- ALERT_RESPONSE_ADDRESS (R462). A sideband read of the SMBus Alert Response Address is answered with the module's own address. -/
  | alertResponseAddress
  /-- SIDEBAND_UNLISTED_COMMAND (R462). A sideband transaction with an unlisted command code is NACKed. -/
  | sidebandUnlistedCommand (code : BitVec 8)
  deriving DecidableEq, Repr

end Sys2Proof
end

