-- ==== Sys2Proof/Decode.lean ====
section
/-! DEFINITION. The opcode table gives no row any bits: its rows are commands, some of them Wonis instructions whose
128-bit word is an operand. So no word of the table spells a command. -/

namespace Sys2Proof

/-- The command that the low `nbits` bits of a word spell by the opcode table: none of its rows gives bits. -/
def decodeTableWord (_nbits _w : Nat) : Option Instr := none

end Sys2Proof
end

