-- ==== Sys2Proof/Config.lean ====
section
/-! DEFINITION. What the spec leaves open: the free values. Each is a constant with no body, so nothing in Lean
can evaluate it or prove a value of it, and a statement that speaks of one holds whatever it is. -/

namespace Sys2Proof.Config

/-- A fresh undefined 64-bit word: the `n`-th that the device has used (R67, R82, R176 and log entry 3). -/
opaque freeWord : Nat → Word
/-- The inner part of a twiddle-free key switch that the spec does not state: the digit constant of stage 2
(R192) for the digit's primes and the limb's prime. -/
opaque digitConst : List Nat → Nat → Nat
/-- R192: entry of the basis-extension matrix from the digit's primes (and which of them) to the target prime. -/
opaque extendConst : List Nat → Nat → Nat → Nat
/-- R142: whether an image built for a version before 1.2 has an instruction word that this version reserves. The spec does
not say which words they are (log entry 63). -/
opaque reservedIn : BitVec 16 → IWord → Bool
/-- RFC 7748 X25519 of a scalar and a u coordinate (R385). -/
opaque x25519 : List Byte → List Byte → List Byte
/-- RFC 8032 Ed25519 public key of a private key. -/
opaque edPublic : List Byte → List Byte
/-- RFC 8032 Ed25519 signature by a private key of a message. -/
opaque edSign : List Byte → List Byte → List Byte
/-- Whether an encoded Ed25519 point decodes to a point of the curve. -/
opaque edOnCurve : List Byte → Bool
/-- The cofactored verification equation of Table 13.10: public key, message, signature. -/
opaque edEquation : List Byte → List Byte → List Byte → Bool
/-- FIPS 203 ML-KEM-768 key generation from 64 random bytes: decapsulation key and encapsulation key. -/
opaque kemGen : List Byte → List Byte × List Byte
/-- FIPS 203 encapsulation with 32 random bytes: ciphertext and shared secret. -/
opaque kemEncaps : List Byte → List Byte → List Byte × List Byte
/-- FIPS 203 decapsulation. -/
opaque kemDecaps : List Byte → List Byte → List Byte
/-- FIPS 203 hash check of a decapsulation key. -/
opaque kemHashOk : List Byte → Bool
/-- FIPS 204 ML-DSA-65 public key of a seed. -/
opaque dsaPublic : List Byte → List Byte
/-- FIPS 204 hedged ML-DSA-65 signature: key seed, message, randomness. -/
opaque dsaSign : List Byte → List Byte → List Byte → List Byte
/-- FIPS 204 ML-DSA-65 verification: public key, message, signature. -/
opaque dsaVerify : List Byte → List Byte → List Byte → Bool
/-- R408: whether the detour of router `r`'s output `o` takes the lower-numbered of two rows or columns aside. -/
opaque detourLow : Nat → Nat → Bool
/-- The hub die that gathers a package barrier's arrivals and sends its releases: the spec does not name it (R132, Table
10.2). -/
opaque barrierHub : Nat → Nat
/-- R371: the 64 bytes of seeds that the PUF and its helper data give. -/
opaque pufSeeds : Nat → Byte
/-- R373: the bytes of the enrolment signatures. -/
opaque enrolment : Nat → Byte
/-- The random generator's `n`-th output of 32 bytes (R390). -/
opaque rng : Nat → Nat → Byte
/-- The status of rail `r` that a power sample finds (Table 15.7): the spec gives the fields and no value. -/
opaque railReading : Nat → Nat → Word
/-- Whether the module has threaded fittings (Table 1.10): a factory value. -/
opaque threadedFittings : Bool
/-- GLB_SERIAL (Table 1.10): a factory value. -/
opaque serial : Word
/-- HIF_MAC of a port (Table 11.10): a factory value. -/
opaque mac : Nat → Word

/-- The header arguments of a reduction packet (its type, its fields, which argument), and the bytes of a round header's entry:
the spec gives their fields and no layout (log entry 85). -/
opaque roundArg : Nat → List Nat → Nat → BitVec 64
opaque roundByte : List Nat → Nat → Byte

/-- UDP payload bytes of a HELLO_R that refuses (0) and of a FINISH_R (1): the spec leaves their bodies' layout open. -/
opaque handshakeBytes : Nat → Nat

end Sys2Proof.Config
end

