-- ==== Sys2Proof/Machine/Registers.lean ====
section
/-! DEFINITION. The control registers (R35): a name for every register that the spec lists, its offset in the
control range, the register at an offset, and what R12 says of its bits: which may be written, which are cleared
by writing one, which persist, and the value at reset. -/

namespace Sys2Proof.Machine

/-- Bits `[lo + len - 1 : lo]`. -/
def mask (lo len : Nat) : Word := BitVec.ofNat 64 ((2 ^ len - 1) * 2 ^ lo)

/-- Table 0.4 for one register: its RW, W1C, W1S, WO and RWP bits, and its reset (or factory) value. Every other
bit is RO or reserved (R13, R14). -/
structure RegSpec where
  rw : Word := 0
  w1c : Word := 0
  w1s : Word := 0
  wo : Word := 0
  rwp : Word := 0
  reset : Word := 0
  deriving DecidableEq, Repr

/-- Table 1.8. -/
inductive GlbReg where
  | id | order | version | topo | online (i : Fin 2) | clkStat | devaddr | serial
  deriving DecidableEq, Repr

/-- Table 11.11. -/
inductive PegReg where
  | lock (i : Fin 64) | peek (i : Fin 64) | brk | evt | stat
  deriving DecidableEq, Repr

/-- Table 11.10. -/
inductive HifReg where
  | cfg | evt | portCfg (p : EPort) | portStat (p : EPort) | mac (p : EPort) | ip4 (p : EPort)
  | ip6hi (p : EPort) | ip6lo (p : EPort) | errCnt (p : EPort)
  | hostKey (i : Fin 8) (w : Fin 6) | hostRole (i : Fin 8) | sess (i : Fin 16)
  deriving DecidableEq, Repr

/-- Table 15.7. -/
inductive CapoReg where
  | cfg | tol (p : EPort) | stat | ctl | plim | lim | dlim (d : Fin 8) | pwr | rail (r : Fin 4) | evt | cnt
  deriving DecidableEq, Repr

/-- Table 13.12. -/
inductive SptReg where
  | stat | boot | evt | svn | keyrev | sensCfg | logStat
  | meas (m : Fin 5) (w : Fin 6) | mgen (m : Fin 5) | progDig (w : Fin 6) | temp (i : Fin 12)
  | mbCmd (p : EPort) | mbStat (p : EPort) | mbArg (p : EPort) (a : Fin 4) | mbRes (p : EPort) (a : Fin 4)
  | logSel (p : EPort) | logData (p : EPort) (w : Fin 4)
  deriving DecidableEq, Repr

/-- Table 14.8. -/
inductive TpcReg where
  | stat | evt | wearSel | wear | wearMax | padis (i : Fin 2) | frbExcl (i : Fin 8)
  | phycal (t : Fin 36) (w : Fin 8) | remap (p : Pa) (b : Fin 16)
  deriving DecidableEq, Repr

/-- Table 13.15. -/
inductive DrnReg where
  | stat | cnt | job (j : Fin 4) | jobOut (j : Fin 4) | jobSrc (j : Fin 4) | jobSt (j : Fin 4)
  deriving DecidableEq, Repr

/-- Table 9.6. -/
inductive HbmReg where
  | cfg | stat | eccCnt | errAddr | therm | retCnt | ret (i : Fin 64)
  deriving DecidableEq, Repr

/-- Table 9.9. -/
inductive SliceReg where
  | cfg | use | bankPd | bankStat | eccCnt | trk
  deriving DecidableEq, Repr

/-- Table 12.12. -/
inductive BrgReg where
  | cfg | stat | peerSerial | linkCnt | evt
  deriving DecidableEq, Repr

/-- Tables 12.13 to 12.15, which only the BRG0 block holds (R362). -/
inductive SysReg where
  | cfg | ctl | stat | evt | rerr
  | winBase (i : Fin 16) | winLim (i : Fin 16) | winCtl (i : Fin 16)
  | rcCfg (j : Fin 4) | rcTab (j : Fin 4) | rcRes (j : Fin 4) | rcRtab (j : Fin 4) | rcArm (j : Fin 4)
  | rcStat (j : Fin 4)
  deriving DecidableEq, Repr

/-- Table 9.10. -/
inductive CxlReg where
  | cfg | stat (i : Fin 2) | cap (i : Fin 2) | err (i : Fin 2) | errAddr (i : Fin 2)
  deriving DecidableEq, Repr

/-- Tables 2.10, 3.8, 4.22, 8.10 and 16.6: the registers of one PA control block. -/
inductive PaReg where
  | id | ctrl | stat | spmCfg | eccCnt | eccAddr | mergeStat
  | modcfg | ncfg | nconst (k : Fin 3) | mtQ (i : Fin 64) | mtPsi (i : Fin 64) | mtAttr (i : Fin 64)
  | thStat (t : Thr) | thExc (t : Thr) | thEpc (t : Thr) | thEaddr (t : Thr) | thHandler (t : Thr)
  | wisCap (k : Fin 4)
  | ovtCtl | ovtStat | ovtSnap | ovtCycle | ovtEvsel (i : Fin 8) | ovtAbase (i : Fin 8) | ovtAlim (i : Fin 8)
  | ovtCnt (i : Fin 8) | ovtSlot (c : Fin 13) | ovtTh (t : Thr) (e : Fin 10) | ovtShadow (k : Fin 102)
  | bowCfg | bowStat | bowFlags | bowErr | bowThq (t : Thr)
  deriving DecidableEq, Repr

/-- Table 10.10. -/
inductive FrbReg where
  | cfg | stat | evt | eccCnt | errLoc
  | rw (r : Fin 128) (o : Fin 5) | rp (r : Fin 128) (o : Fin 5) | rctl (r : Fin 128) (o : Fin 5)
  | hw (s : Fin 32) | hp (s : Fin 32) | hctl (s : Fin 32)
  | chStat (c : Fin 1024) | chPtr (c : Fin 1024) | cqStat (j : Fin 64)
  | mcLive0 (c : Fin 1024) | mcLive1 (c : Fin 1024)
  deriving DecidableEq, Repr

/-- Table 16.8. The words of a port are those of R447: TOT_IN, TOT_OUT, LAST_IN, LAST_OUT, PEAK_IN, PEAK_OUT,
SNAP_IN and SNAP_OUT. -/
inductive OvtReg where
  | ctl | hubcyc | snapHubcyc | winCfg | winSeq | port (p : Fin 76) (w : Fin 8) | link (r : Fin 128) (o : Fin 4)
  deriving DecidableEq, Repr

/-- Every control register of the device. -/
inductive Reg where
  | glb (r : GlbReg) | peg (r : PegReg) | hif (r : HifReg) | capo (r : CapoReg) | spt (r : SptReg)
  | tpc (r : TpcReg) | drn (r : DrnReg) | hbm (n : Stack) (r : HbmReg) | slice (h : Hub) (r : SliceReg)
  | brg (n : BPort) (r : BrgReg) | sys (r : SysReg) | cxl (r : CxlReg) | pa (p : Pa) (r : PaReg)
  | frb (r : FrbReg) | ovt (r : OvtReg)
  deriving DecidableEq, Repr

/-! ## Offsets -/

def GlbReg.off : GlbReg → Nat
  | .id => 0x000 | .order => 0x008 | .version => 0x010 | .topo => 0x018 | .online i => 0x020 + i * 8
  | .clkStat => 0x030 | .devaddr => 0x038 | .serial => 0x040

def PegReg.off : PegReg → Nat
  | .lock i => i * 8 | .peek i => 0x200 + i * 8 | .brk => 0x400 | .evt => 0x408 | .stat => 0x410

def HifReg.off : HifReg → Nat
  | .cfg => 0x0000 | .evt => 0x0010 | .portCfg p => 0x0100 + p * 0x100 | .portStat p => 0x0108 + p * 0x100
  | .mac p => 0x0110 + p * 0x100 | .ip4 p => 0x0118 + p * 0x100 | .ip6hi p => 0x0120 + p * 0x100
  | .ip6lo p => 0x0128 + p * 0x100 | .errCnt p => 0x0130 + p * 0x100
  | .hostKey i w => 0x1000 + i * 0x40 + w * 8 | .hostRole i => 0x1030 + i * 0x40 | .sess i => 0x2000 + i * 0x10

def CapoReg.off : CapoReg → Nat
  | .cfg => 0x000 | .tol p => 0x008 + p * 8 | .stat => 0x018 | .ctl => 0x020 | .plim => 0x028 | .lim => 0x030
  | .dlim d => 0x040 + d * 8 | .pwr => 0x080 | .rail r => 0x088 + r * 8 | .evt => 0x0A8 | .cnt => 0x0B0

def SptReg.off : SptReg → Nat
  | .stat => 0x000 | .boot => 0x008 | .evt => 0x010 | .svn => 0x018 | .keyrev => 0x020 | .sensCfg => 0x028
  | .logStat => 0x030 | .meas m w => 0x040 + m * 0x40 + w * 8 | .mgen m => 0x070 + m * 0x40
  | .progDig w => 0x200 + w * 8 | .temp i => 0x300 + i * 8
  | .mbCmd p => 0x400 + p * 0x80 | .mbStat p => 0x408 + p * 0x80 | .mbArg p a => 0x410 + p * 0x80 + a * 8
  | .mbRes p a => 0x430 + p * 0x80 + a * 8 | .logSel p => 0x450 + p * 0x80
  | .logData p w => 0x458 + p * 0x80 + w * 8

def TpcReg.off : TpcReg → Nat
  | .stat => 0x0000 | .evt => 0x0008 | .wearSel => 0x0010 | .wear => 0x0018 | .wearMax => 0x0020
  | .padis i => 0x0100 + i * 8 | .frbExcl i => 0x0200 + i * 8 | .phycal t w => 0x1000 + t * 0x40 + w * 8
  | .remap p b => 0x4000 + (p * 16 + b) * 8

def DrnReg.off : DrnReg → Nat
  | .stat => 0x000 | .cnt => 0x008 | .job j => 0x100 + j * 0x20 | .jobOut j => 0x108 + j * 0x20
  | .jobSrc j => 0x110 + j * 0x20 | .jobSt j => 0x118 + j * 0x20

def HbmReg.off : HbmReg → Nat
  | .cfg => 0x000 | .stat => 0x008 | .eccCnt => 0x010 | .errAddr => 0x018 | .therm => 0x020 | .retCnt => 0x028
  | .ret i => 0x100 + i * 8

def SliceReg.off : SliceReg → Nat
  | .cfg => 0x800 | .use => 0x808 | .bankPd => 0x810 | .bankStat => 0x818 | .eccCnt => 0x820 | .trk => 0x828

def BrgReg.off : BrgReg → Nat
  | .cfg => 0x000 | .stat => 0x008 | .peerSerial => 0x010 | .linkCnt => 0x018 | .evt => 0x020

def SysReg.off : SysReg → Nat
  | .cfg => 0x400 | .ctl => 0x408 | .stat => 0x410 | .evt => 0x418 | .rerr => 0x420
  | .winBase i => 0x500 + i * 0x20 | .winLim i => 0x508 + i * 0x20 | .winCtl i => 0x510 + i * 0x20
  | .rcCfg j => 0x800 + j * 0x40 | .rcTab j => 0x808 + j * 0x40 | .rcRes j => 0x810 + j * 0x40
  | .rcRtab j => 0x818 + j * 0x40 | .rcArm j => 0x820 + j * 0x40 | .rcStat j => 0x828 + j * 0x40

def CxlReg.off : CxlReg → Nat
  | .cfg => 0x0000 | .stat i => 0x0100 + i * 0x100 | .cap i => 0x0108 + i * 0x100 | .err i => 0x0110 + i * 0x100
  | .errAddr i => 0x0118 + i * 0x100

def PaReg.off : PaReg → Nat
  | .id => 0x0000 | .ctrl => 0x0008 | .stat => 0x0010 | .spmCfg => 0x0018 | .eccCnt => 0x0020
  | .eccAddr => 0x0028 | .mergeStat => 0x0030
  | .modcfg => 0x0800 | .ncfg => 0x0808 | .nconst k => 0x0810 + k * 8
  | .mtQ i => 0x1000 + i * 0x20 | .mtPsi i => 0x1008 + i * 0x20 | .mtAttr i => 0x1010 + i * 0x20
  | .thStat t => 0x2000 + t * 0x40 | .thExc t => 0x2008 + t * 0x40 | .thEpc t => 0x2010 + t * 0x40
  | .thEaddr t => 0x2018 + t * 0x40 | .thHandler t => 0x2020 + t * 0x40 | .wisCap k => 0x2F00 + k * 8
  | .ovtCtl => 0x3000 | .ovtStat => 0x3008 | .ovtSnap => 0x3010 | .ovtCycle => 0x3018
  | .ovtEvsel i => 0x3100 + i * 0x20 | .ovtAbase i => 0x3108 + i * 0x20 | .ovtAlim i => 0x3110 + i * 0x20
  | .ovtCnt i => 0x3118 + i * 0x20 | .ovtSlot c => 0x3200 + c * 8 | .ovtTh t e => 0x3400 + t * 0x80 + e * 8
  | .ovtShadow k => 0x3800 + k * 8
  | .bowCfg => 0x4000 | .bowStat => 0x4008 | .bowFlags => 0x4010 | .bowErr => 0x4018 | .bowThq t => 0x4040 + t * 8

def FrbReg.off : FrbReg → Nat
  | .cfg => 0x00000 | .stat => 0x00008 | .evt => 0x00010 | .eccCnt => 0x00018 | .errLoc => 0x00020
  | .rw r o => 0x10000 + r * 0x100 + o * 0x20 | .rp r o => 0x10008 + r * 0x100 + o * 0x20
  | .rctl r o => 0x10010 + r * 0x100 + o * 0x20
  | .hw s => 0x20000 + s * 0x20 | .hp s => 0x20008 + s * 0x20 | .hctl s => 0x20010 + s * 0x20
  | .chStat c => 0x30000 + c * 0x10 | .chPtr c => 0x30008 + c * 0x10 | .cqStat j => 0x40000 + j * 0x10
  | .mcLive0 c => 0x50000 + c * 0x10 | .mcLive1 c => 0x50008 + c * 0x10

def OvtReg.off : OvtReg → Nat
  | .ctl => 0x00000 | .hubcyc => 0x00008 | .snapHubcyc => 0x00010 | .winCfg => 0x00018 | .winSeq => 0x00020
  | .port p w => 0x10000 + p * 0x40 + w * 8 | .link r o => 0x20000 + (4 * r + o) * 8

/-- The offset of a register from 0x3F00_0000_0000 (R35 and Table 1.7). -/
def Reg.off : Reg → Nat
  | .glb r => r.off
  | .peg r => 0x00010000 + r.off
  | .hif r => 0x00020000 + r.off
  | .capo r => 0x00030000 + r.off
  | .spt r => 0x00040000 + r.off
  | .tpc r => 0x00050000 + r.off
  | .drn r => 0x00060000 + r.off
  | .hbm n r => 0x00100000 + n * 0x1000 + r.off
  | .slice h r => 0x00100000 + h * 0x6000 + r.off
  | .brg n r => 0x00200000 + n * 0x1000 + r.off
  | .sys r => 0x00200000 + r.off
  | .cxl r => 0x00300000 + r.off
  | .pa p r => 0x00400000 + p * 0x10000 + r.off
  | .frb r => 0x01000000 + r.off
  | .ovt r => 0x01100000 + r.off

/-! ## The register at an offset -/

/-- Index `i` with `o = base + i * stride`, below `n`. -/
def arr (base stride n o : Nat) : Option (Fin n) :=
  if base ≤ o ∧ (o - base) % stride = 0 then
    if h : (o - base) / stride < n then some ⟨(o - base) / stride, h⟩ else none
  else none

/-- Indices `i` below `m` and `j` below `n` with `o = base + i * si + j * sj`, where the rows `j` fit in `si`. -/
def arr2 (base si m sj n o : Nat) : Option (Fin m × Fin n) :=
  if base ≤ o then
    if h : (o - base) / si < m then (arr 0 sj n ((o - base) % si)).map fun j => (⟨(o - base) / si, h⟩, j)
    else none
  else none

/-- The first of several that is present. -/
def firstOf {α : Type} : List (Option α) → Option α
  | [] => none
  | some x :: _ => some x
  | none :: r => firstOf r

/-- `x` when the offset is `a`. -/
def one {α : Type} (x : α) (a o : Nat) : Option α := if o = a then some x else none

def GlbReg.at? (o : Nat) : Option GlbReg :=
  firstOf [one .id 0 o, one .order 8 o, one .version 0x10 o, one .topo 0x18 o, (arr 0x20 8 2 o).map .online,
    one .clkStat 0x30 o, one .devaddr 0x38 o, one .serial 0x40 o]

def PegReg.at? (o : Nat) : Option PegReg :=
  firstOf [(arr 0 8 64 o).map .lock, (arr 0x200 8 64 o).map .peek, one .brk 0x400 o, one .evt 0x408 o,
    one .stat 0x410 o]

def HifReg.at? (o : Nat) : Option HifReg :=
  firstOf [one .cfg 0 o, one .evt 0x10 o, (arr 0x100 0x100 2 o).map .portCfg,
    (arr 0x108 0x100 2 o).map .portStat, (arr 0x110 0x100 2 o).map .mac, (arr 0x118 0x100 2 o).map .ip4,
    (arr 0x120 0x100 2 o).map .ip6hi, (arr 0x128 0x100 2 o).map .ip6lo, (arr 0x130 0x100 2 o).map .errCnt,
    (arr2 0x1000 0x40 8 8 6 o).map (fun x => .hostKey x.1 x.2), (arr 0x1030 0x40 8 o).map .hostRole,
    (arr 0x2000 0x10 16 o).map .sess]

def CapoReg.at? (o : Nat) : Option CapoReg :=
  firstOf [one .cfg 0 o, (arr 0x008 8 2 o).map .tol, one .stat 0x18 o, one .ctl 0x20 o, one .plim 0x28 o,
    one .lim 0x30 o, (arr 0x40 8 8 o).map .dlim, one .pwr 0x80 o, (arr 0x88 8 4 o).map .rail, one .evt 0xA8 o,
    one .cnt 0xB0 o]

def SptReg.at? (o : Nat) : Option SptReg :=
  firstOf [one .stat 0 o, one .boot 8 o, one .evt 0x10 o, one .svn 0x18 o, one .keyrev 0x20 o,
    one .sensCfg 0x28 o, one .logStat 0x30 o, (arr2 0x40 0x40 5 8 6 o).map (fun x => .meas x.1 x.2),
    (arr 0x70 0x40 5 o).map .mgen, (arr 0x200 8 6 o).map .progDig, (arr 0x300 8 12 o).map .temp,
    (arr 0x400 0x80 2 o).map .mbCmd, (arr 0x408 0x80 2 o).map .mbStat,
    (arr2 0x410 0x80 2 8 4 o).map (fun x => .mbArg x.1 x.2),
    (arr2 0x430 0x80 2 8 4 o).map (fun x => .mbRes x.1 x.2), (arr 0x450 0x80 2 o).map .logSel,
    (arr2 0x458 0x80 2 8 4 o).map (fun x => .logData x.1 x.2)]

def TpcReg.at? (o : Nat) : Option TpcReg :=
  firstOf [one .stat 0 o, one .evt 8 o, one .wearSel 0x10 o, one .wear 0x18 o, one .wearMax 0x20 o,
    (arr 0x100 8 2 o).map .padis, (arr 0x200 8 8 o).map .frbExcl,
    (arr2 0x1000 0x40 36 8 8 o).map (fun x => .phycal x.1 x.2),
    (arr2 0x4000 0x80 128 8 16 o).map (fun x => .remap x.1 x.2)]

def DrnReg.at? (o : Nat) : Option DrnReg :=
  firstOf [one .stat 0 o, one .cnt 8 o, (arr 0x100 0x20 4 o).map .job, (arr 0x108 0x20 4 o).map .jobOut,
    (arr 0x110 0x20 4 o).map .jobSrc, (arr 0x118 0x20 4 o).map .jobSt]

def HbmReg.at? (o : Nat) : Option HbmReg :=
  firstOf [one .cfg 0 o, one .stat 8 o, one .eccCnt 0x10 o, one .errAddr 0x18 o, one .therm 0x20 o,
    one .retCnt 0x28 o, (arr 0x100 8 64 o).map .ret]

def SliceReg.at? (o : Nat) : Option SliceReg :=
  firstOf [one .cfg 0x800 o, one .use 0x808 o, one .bankPd 0x810 o, one .bankStat 0x818 o, one .eccCnt 0x820 o,
    one .trk 0x828 o]

def BrgReg.at? (o : Nat) : Option BrgReg :=
  firstOf [one .cfg 0 o, one .stat 8 o, one .peerSerial 0x10 o, one .linkCnt 0x18 o, one .evt 0x20 o]

def SysReg.at? (o : Nat) : Option SysReg :=
  firstOf [one .cfg 0x400 o, one .ctl 0x408 o, one .stat 0x410 o, one .evt 0x418 o, one .rerr 0x420 o,
    (arr 0x500 0x20 16 o).map .winBase, (arr 0x508 0x20 16 o).map .winLim, (arr 0x510 0x20 16 o).map .winCtl,
    (arr 0x800 0x40 4 o).map .rcCfg, (arr 0x808 0x40 4 o).map .rcTab, (arr 0x810 0x40 4 o).map .rcRes,
    (arr 0x818 0x40 4 o).map .rcRtab, (arr 0x820 0x40 4 o).map .rcArm, (arr 0x828 0x40 4 o).map .rcStat]

def CxlReg.at? (o : Nat) : Option CxlReg :=
  firstOf [one .cfg 0 o, (arr 0x100 0x100 2 o).map .stat, (arr 0x108 0x100 2 o).map .cap,
    (arr 0x110 0x100 2 o).map .err, (arr 0x118 0x100 2 o).map .errAddr]

def PaReg.at? (o : Nat) : Option PaReg :=
  firstOf [one .id 0 o, one .ctrl 8 o, one .stat 0x10 o, one .spmCfg 0x18 o, one .eccCnt 0x20 o,
    one .eccAddr 0x28 o, one .mergeStat 0x30 o, one .modcfg 0x800 o, one .ncfg 0x808 o,
    (arr 0x810 8 3 o).map .nconst, (arr 0x1000 0x20 64 o).map .mtQ, (arr 0x1008 0x20 64 o).map .mtPsi,
    (arr 0x1010 0x20 64 o).map .mtAttr, (arr 0x2000 0x40 8 o).map .thStat, (arr 0x2008 0x40 8 o).map .thExc,
    (arr 0x2010 0x40 8 o).map .thEpc, (arr 0x2018 0x40 8 o).map .thEaddr, (arr 0x2020 0x40 8 o).map .thHandler,
    (arr 0x2F00 8 4 o).map .wisCap, one .ovtCtl 0x3000 o, one .ovtStat 0x3008 o, one .ovtSnap 0x3010 o,
    one .ovtCycle 0x3018 o, (arr 0x3100 0x20 8 o).map .ovtEvsel, (arr 0x3108 0x20 8 o).map .ovtAbase,
    (arr 0x3110 0x20 8 o).map .ovtAlim, (arr 0x3118 0x20 8 o).map .ovtCnt, (arr 0x3200 8 13 o).map .ovtSlot,
    (arr2 0x3400 0x80 8 8 10 o).map (fun x => .ovtTh x.1 x.2), (arr 0x3800 8 102 o).map .ovtShadow,
    one .bowCfg 0x4000 o, one .bowStat 0x4008 o, one .bowFlags 0x4010 o, one .bowErr 0x4018 o,
    (arr 0x4040 8 8 o).map .bowThq]

def FrbReg.at? (o : Nat) : Option FrbReg :=
  firstOf [one .cfg 0 o, one .stat 8 o, one .evt 0x10 o, one .eccCnt 0x18 o, one .errLoc 0x20 o,
    (arr2 0x10000 0x100 128 0x20 5 o).map (fun x => .rw x.1 x.2),
    (arr2 0x10008 0x100 128 0x20 5 o).map (fun x => .rp x.1 x.2),
    (arr2 0x10010 0x100 128 0x20 5 o).map (fun x => .rctl x.1 x.2), (arr 0x20000 0x20 32 o).map .hw,
    (arr 0x20008 0x20 32 o).map .hp, (arr 0x20010 0x20 32 o).map .hctl, (arr 0x30000 0x10 1024 o).map .chStat,
    (arr 0x30008 0x10 1024 o).map .chPtr, (arr 0x40000 0x10 64 o).map .cqStat,
    (arr 0x50000 0x10 1024 o).map .mcLive0, (arr 0x50008 0x10 1024 o).map .mcLive1]

def OvtReg.at? (o : Nat) : Option OvtReg :=
  firstOf [one .ctl 0 o, one .hubcyc 8 o, one .snapHubcyc 0x10 o, one .winCfg 0x18 o, one .winSeq 0x20 o,
    (arr2 0x10000 0x40 76 8 8 o).map (fun x => .port x.1 x.2),
    (arr2 0x20000 0x20 128 8 4 o).map (fun x => .link x.1 x.2)]

/-- The blocks of Table 1.7. -/
inductive Block where
  | glb | peg | hif | capo | spt | tpc | drn | hbm (n : Stack) | brg (n : BPort) | cxl | pa (p : Pa) | frb | ovt
  deriving DecidableEq, Repr

/-- Table 1.7: the block that covers an offset, and the offset in it. -/
def Block.at? (o : Nat) : Option (Block × Nat) :=
  if o < 0x1000 then some (.glb, o)
  else if 0x10000 ≤ o ∧ o < 0x11000 then some (.peg, o - 0x10000)
  else if 0x20000 ≤ o ∧ o < 0x30000 then some (.hif, o - 0x20000)
  else if 0x30000 ≤ o ∧ o < 0x31000 then some (.capo, o - 0x30000)
  else if 0x40000 ≤ o ∧ o < 0x41000 then some (.spt, o - 0x40000)
  else if 0x50000 ≤ o ∧ o < 0x60000 then some (.tpc, o - 0x50000)
  else if 0x60000 ≤ o ∧ o < 0x61000 then some (.drn, o - 0x60000)
  else if h : 0x100000 ≤ o ∧ o < 0x118000 then
    some (.hbm ⟨(o - 0x100000) / 0x1000, by omega⟩, (o - 0x100000) % 0x1000)
  else if h : 0x200000 ≤ o ∧ o < 0x208000 then
    some (.brg ⟨(o - 0x200000) / 0x1000, by omega⟩, (o - 0x200000) % 0x1000)
  else if 0x300000 ≤ o ∧ o < 0x310000 then some (.cxl, o - 0x300000)
  else if h : 0x400000 ≤ o ∧ o < 0xC00000 then
    some (.pa ⟨(o - 0x400000) / 0x10000, by omega⟩, (o - 0x400000) % 0x10000)
  else if 0x1000000 ≤ o ∧ o < 0x1100000 then some (.frb, o - 0x1000000)
  else if 0x1100000 ≤ o ∧ o < 0x1200000 then some (.ovt, o - 0x1100000)
  else none

/-- The register at an offset of a block, if one is listed there. -/
def Block.reg? : Block → Nat → Option Reg
  | .glb, o => (GlbReg.at? o).map .glb
  | .peg, o => (PegReg.at? o).map .peg
  | .hif, o => (HifReg.at? o).map .hif
  | .capo, o => (CapoReg.at? o).map .capo
  | .spt, o => (SptReg.at? o).map .spt
  | .tpc, o => (TpcReg.at? o).map .tpc
  | .drn, o => (DrnReg.at? o).map .drn
  | .hbm n, o =>
    (HbmReg.at? o).map (.hbm n)
    <|> (if n.val % 6 = 0 then (SliceReg.at? o).map (.slice ⟨n.val / 6, by omega⟩) else none)
  | .brg n, o => (BrgReg.at? o).map (.brg n) <|> (if n.val = 0 then (SysReg.at? o).map .sys else none)
  | .cxl, o => (CxlReg.at? o).map .cxl
  | .pa p, o => (PaReg.at? o).map (.pa p)
  | .frb, o => (FrbReg.at? o).map .frb
  | .ovt, o => (OvtReg.at? o).map .ovt

/-- The register at an offset of the control range (R35). -/
def Reg.at? (o : Nat) : Option Reg := do
  let (b, i) ← Block.at? o
  b.reg? i

/-! ## Access and reset values -/

/-- Table 1.9: PA_ID, from R21. -/
def paIdWord (p : Pa) : Word :=
  let d := p.val / 16
  let l := p.val % 16
  BitVec.ofNat 64 (p.val + d * 2 ^ 8 + (4 * (d % 4) + l % 4) * 2 ^ 16 + (4 * (d / 4) + l / 4) * 2 ^ 24)

/-- R140: the four capability words of B0. -/
def wisCapWord : Fin 4 → Word
  | 0 => 0x00FFFF4840000102
  | 1 => 0x000000000001FFFF
  | 2 => 0x0002000E003E0026
  | 3 => 0x000000001FFF0002

/-- The layout of every 48-bit counter of Table 16.7. -/
def counterSpec : RegSpec := { rw := mask 0 48, w1c := mask 48 1 }

def GlbReg.spec : GlbReg → RegSpec
  | .id => { reset := 0x000000B0824011B0 }
  | .order => { reset := if Config.threadedFittings then 2 else 1 }
  | .version => { reset := 0x0102 }
  | .topo => { reset := 0x88A498908 }
  | .online _ => {}
  | .clkStat => { w1c := mask 32 27 }
  | .devaddr => {}
  | .serial => { reset := Config.serial }

def PegReg.spec : PegReg → RegSpec
  | .lock _ => { rw := mask 0 3 ||| mask 16 32 }
  | .peek _ => {}
  | .brk => { wo := mask 0 64 }
  | .evt => { w1c := mask 0 64 }
  | .stat => {}

/-- R332: the factory values of the HIF block. -/
def HifReg.spec : HifReg → RegSpec
  | .cfg => { rwp := mask 0 24, reset := BitVec.ofNat 64 (47240 + 10 * 2 ^ 16) }
  | .evt => { w1c := mask 0 3 }
  | .portCfg _ => { rwp := mask 0 16, reset := 1 }
  | .portStat _ => {}
  | .mac p => { reset := (Config.mac p.val).setWidth 64 &&& mask 0 48 }
  | .ip4 _ => { rwp := mask 0 38 }
  | .ip6hi _ => { rwp := mask 0 64 }
  | .ip6lo _ => { rwp := mask 0 64 }
  | .errCnt _ => { rw := mask 0 64 }
  | .hostKey _ _ => { rwp := mask 0 64 }
  | .hostRole _ => { rwp := mask 0 2 }
  | .sess _ => {}

/-- R432: the factory values of the CAPO block. -/
def CapoReg.spec : CapoReg → RegSpec
  | .cfg => { rw := mask 32 16, rwp := mask 0 32 ||| mask 48 5,
              reset := BitVec.ofNat 64 (200 + 100 * 2 ^ 32 + 2 ^ 48 + 2 ^ 49) }
  | .tol _ => { rw := mask 0 32, reset := 0xFFFFFFFF }
  | .stat => {}
  | .ctl => { w1s := 1 }
  | .plim => { rwp := mask 0 12, reset := 3200 }
  | .lim => { reset := 16 }
  | .dlim _ => { reset := 16 }
  | .pwr => { wo := mask 48 1 }
  | .rail _ => {}
  | .evt => { w1c := mask 0 4 }
  | .cnt => { rw := mask 0 48 }

def SptReg.spec : SptReg → RegSpec
  | .stat => {}
  | .boot => { rwp := 1 }
  | .evt => { w1c := mask 0 6 }
  | .svn => { rwp := mask 0 64 }
  | .keyrev => { rwp := mask 0 2 }
  | .sensCfg => { rw := mask 0 16, reset := BitVec.ofNat 64 (95 + 110 * 2 ^ 8) }
  | .logStat => {}
  | .meas _ _ => {}
  | .mgen _ => {}
  | .progDig _ => {}
  | .temp _ => { wo := mask 16 1 }
  | .mbCmd _ => { rw := mask 0 8 }
  | .mbStat _ => { w1c := mask 1 2 }
  | .mbArg _ _ => { rw := mask 0 64 }
  | .mbRes _ _ => {}
  | .logSel _ => { rw := mask 0 32 }
  | .logData _ _ => {}

def TpcReg.spec : TpcReg → RegSpec
  | .stat => {}
  | .evt => { w1c := mask 0 3 }
  | .wearSel => { rw := mask 0 13 }
  | .wear => {}
  | .wearMax => {}
  | .padis _ => { rwp := mask 0 64 }
  | .frbExcl _ => { rwp := mask 0 11 }
  | .phycal _ _ => { rwp := mask 0 64 }
  | .remap _ _ => { rwp := mask 0 36 }

def DrnReg.spec : DrnReg → RegSpec
  | .stat => {}
  | .cnt => { rw := mask 0 48 }
  | .job _ => { rw := mask 0 14 ||| mask 16 32, w1s := mask 14 1 }
  | .jobOut _ => { rw := mask 0 32 }
  | .jobSrc _ => { rw := mask 0 64 }
  | .jobSt _ => { w1c := mask 8 1 }

def HbmReg.spec : HbmReg → RegSpec
  | .cfg => { rw := mask 0 10 ||| mask 16 6 ||| mask 24 6,
              reset := BitVec.ofNat 64 (0x200 + 48 * 2 ^ 16 + 16 * 2 ^ 24) }
  | .stat => {}
  | .eccCnt => { rw := mask 0 64 }
  | .errAddr => { w1c := mask 48 2 }
  | .therm => { rw := mask 8 16, w1c := mask 24 2, reset := BitVec.ofNat 64 (95 * 2 ^ 8 + 105 * 2 ^ 16) }
  | .retCnt => {}
  | .ret _ => { rwp := mask 0 25 }

def SliceReg.spec : SliceReg → RegSpec
  | .cfg => { rw := mask 0 8, reset := BitVec.ofNat 64 (1 + 8 * 4) }
  | .use => { rw := mask 0 16, reset := 0x1401 }
  | .bankPd => { rw := mask 0 32 }
  | .bankStat => { w1c := mask 32 1 }
  | .eccCnt => { rw := mask 0 64 }
  | .trk => {}

/-- R362: the factory values of the BRG blocks. -/
def BrgReg.spec : BrgReg → RegSpec
  | .cfg => { rw := mask 2 3, rwp := mask 0 2, reset := BitVec.ofNat 64 (3 + 7 * 4) }
  | .stat => {}
  | .peerSerial => {}
  | .linkCnt => { rw := mask 0 64 }
  | .evt => { w1c := mask 0 4 }

def SysReg.spec : SysReg → RegSpec
  | .cfg => { rw := mask 2 2, rwp := mask 0 2, reset := 2 }
  | .ctl => { w1s := 1 }
  | .stat => {}
  | .evt => { w1c := mask 0 7 }
  | .rerr => { w1c := mask 37 2 }
  | .winBase _ => { rw := mask 0 48 }
  | .winLim _ => { rw := mask 0 48 }
  | .winCtl _ => { rw := mask 0 3 ||| mask 8 16 }
  | .rcCfg _ => { rw := mask 0 15 ||| mask 16 16, reset := BitVec.ofNat 64 (2 * 2 ^ 12 + 100 * 2 ^ 16) }
  | .rcTab _ => { rw := mask 0 48 }
  | .rcRes _ => { rw := mask 0 48 }
  | .rcRtab _ => { rw := mask 0 48 }
  | .rcArm _ => { rw := mask 0 48 }
  | .rcStat _ => {}

def CxlReg.spec : CxlReg → RegSpec
  | .cfg => { rw := mask 0 3, reset := 6 }
  | .stat _ => {}
  | .cap _ => {}
  | .err _ => { rw := mask 0 48 }
  | .errAddr _ => { w1c := mask 48 1 }

def PaReg.spec (p : Pa) : PaReg → RegSpec
  | .id => { reset := paIdWord p }
  | .ctrl => { rw := 1 }
  | .stat => {}
  | .spmCfg => { rw := mask 0 9 ||| mask 16 8, reset := BitVec.ofNat 64 (0x100 + 0x40 * 2 ^ 16) }
  | .eccCnt => { rw := mask 0 48 }
  | .eccAddr => { w1c := mask 24 2 }
  | .mergeStat => {}
  | .modcfg => {}
  | .ncfg => { rw := mask 0 1 ||| mask 8 32 }
  | .nconst _ => { rw := mask 0 64 }
  | .mtQ _ => {}
  | .mtPsi _ => {}
  | .mtAttr _ => {}
  | .thStat _ => {}
  | .thExc _ => { w1c := mask 10 1 }
  | .thEpc _ => {}
  | .thEaddr _ => {}
  | .thHandler _ => { rw := mask 0 14 ||| mask 15 1 }
  | .wisCap k => { reset := wisCapWord k }
  | .ovtCtl => { rw := mask 0 2, reset := 1 }
  | .ovtStat => {}
  | .ovtSnap => { w1s := 1 }
  | .ovtCycle => { rw := mask 0 63, w1c := mask 63 1 }
  | .ovtEvsel _ => { rw := mask 0 35 }
  | .ovtAbase _ => { rw := mask 0 48 }
  | .ovtAlim _ => { rw := mask 0 48 }
  | .ovtCnt _ => counterSpec
  | .ovtSlot _ => counterSpec
  | .ovtTh _ _ => counterSpec
  | .ovtShadow _ => {}
  | .bowCfg => { rw := mask 0 10 ||| mask 16 1 ||| mask 24 7, reset := BitVec.ofNat 64 (2 ^ 16 + 64 * 2 ^ 24) }
  | .bowStat => {}
  | .bowFlags => { w1c := mask 0 3 }
  | .bowErr => { w1c := mask 52 2 }
  | .bowThq _ => {}

def FrbReg.spec : FrbReg → RegSpec
  | .cfg => { rw := mask 0 32, reset := BitVec.ofNat 64 (100 + 1000 * 2 ^ 16) }
  | .stat => {}
  | .evt => { w1c := mask 0 4 }
  | .eccCnt => { rw := mask 0 64 }
  | .errLoc => { w1c := mask 10 2 }
  | .rw _ _ => { rw := mask 0 50,
                 reset := BitVec.ofNat 64 (256 * (1 + 2 ^ 10 + 2 ^ 20 + 2 ^ 30 + 2 ^ 40)) }
  | .rp _ _ => { rw := mask 0 10 }
  | .rctl _ _ => { rw := 1 }
  | .hw _ => { rw := mask 0 64, reset := 0x2020202020202020 }
  | .hp _ => { rw := mask 0 16 }
  | .hctl _ => { rw := 1 }
  | .chStat _ => {}
  | .chPtr _ => {}
  | .cqStat _ => {}
  | .mcLive0 _ => {}
  | .mcLive1 _ => {}

def OvtReg.spec : OvtReg → RegSpec
  | .ctl => { rw := 1, w1s := 2 }
  | .hubcyc => {}
  | .snapHubcyc => {}
  | .winCfg => { rw := mask 0 5, wo := mask 5 1, reset := 20 }
  | .winSeq => {}
  | .port _ w => if w.val < 2 then counterSpec else {}
  | .link _ _ => counterSpec

/-- The access codes and the reset value of a register (R12). -/
def Reg.spec : Reg → RegSpec
  | .glb r => r.spec
  | .peg r => r.spec
  | .hif r => r.spec
  | .capo r => r.spec
  | .spt r => r.spec
  | .tpc r => r.spec
  | .drn r => r.spec
  | .hbm _ r => r.spec
  | .slice _ r => r.spec
  | .brg _ r => r.spec
  | .sys r => r.spec
  | .cxl r => r.spec
  | .pa p r => r.spec p
  | .frb r => r.spec
  | .ovt r => r.spec

/-- The reset value of what the control range holds at an offset. -/
def regReset (o : Nat) : Word := ((Reg.at? o).map fun r => r.spec.reset).getD 0

end Sys2Proof.Machine
end

