-- ==== Sys2Proof/Machine/SMap.lean ====
section
/-! DEFINITION. Sparse maps from numbers to plain values: a list of (key, value) pairs in one canonical form,
keys strictly rising and no value equal to what an unlisted key reads as. Memory, the control registers and the
large arrays of a PA are held this way, so that equal contents are equal data. -/

namespace Sys2Proof.Machine

/-- A sparse map. -/
abbrev SMap (V : Type) := List (Nat × V)

/-- Read key `a`; an unlisted key reads as `d a`. -/
def sget {V : Type} (d : Nat → V) : SMap V → Nat → V
  | [], a => d a
  | (k, v) :: r, a => if a = k then v else sget d r a

/-- List `v` at key `a`, keys rising. -/
def sins {V : Type} : SMap V → Nat → V → SMap V
  | [], a, v => [(a, v)]
  | (k, x) :: r, a, v => if a < k then (a, v) :: (k, x) :: r else if a = k then (a, v) :: r else (k, x) :: sins r a v

/-- Write `v` at key `a`, keeping the canonical form: the value that an unlisted key reads as is not listed. -/
def sput {V : Type} [DecidableEq V] (d : Nat → V) (m : SMap V) (a : Nat) (v : V) : SMap V :=
  if v = d a then m.filter fun e => e.1 ≠ a else sins m a v

/-- Remove every key in `[lo, lo + len)`: those keys read as the default again. -/
def serase {V : Type} (m : SMap V) (lo len : Nat) : SMap V :=
  m.filter fun e => !(lo ≤ e.1 && e.1 < lo + len)

/-- The canonical form. -/
def swf {V : Type} [DecidableEq V] (d : Nat → V) : SMap V → Bool
  | [] => true
  | [(k, v)] => v ≠ d k
  | (k, v) :: (k', v') :: r => (v ≠ d k) && k < k' && swf d ((k', v') :: r)

/-- Sets of numbers as strictly rising lists. -/
def nmem : List Nat → Nat → Bool
  | [], _ => false
  | x :: r, a => if a = x then true else if a < x then false else nmem r a

/-- Insert a number into a strictly rising list. -/
def nins : List Nat → Nat → List Nat
  | [], a => [a]
  | x :: r, a => if a < x then a :: x :: r else if a = x then x :: r else x :: nins r a

/-- Remove a number from a strictly rising list. -/
def ndel : List Nat → Nat → List Nat
  | [], _ => []
  | x :: r, a => if a = x then r else x :: ndel r a

/-- Strictly rising. -/
def nwf : List Nat → Bool
  | [] => true
  | [_] => true
  | x :: y :: r => x < y && nwf (y :: r)

/-- Little-endian bytes of a number (R8). -/
def leBytes : Nat → Nat → List (BitVec 8)
  | 0, _ => []
  | n + 1, v => BitVec.ofNat 8 v :: leBytes n (v / 256)

/-- The number that little-endian bytes spell (R8). -/
def leNat : List (BitVec 8) → Nat
  | [] => 0
  | b :: r => b.toNat + 256 * leNat r

/-- Every number below `n`, rising from `lo`. -/
def upFrom : Nat → Nat → List Nat
  | _, 0 => []
  | lo, n + 1 => lo :: upFrom (lo + 1) n

/-- `List.set` that leaves the list alone beyond its end, by a function. -/
def modifyAt {α : Type} (f : α → α) : List α → Nat → List α
  | [], _ => []
  | x :: r, 0 => f x :: r
  | x :: r, n + 1 => x :: modifyAt f r n

/-- The list without its `n`-th element. -/
def dropAt {α : Type} : List α → Nat → List α
  | [], _ => []
  | _ :: r, 0 => r
  | x :: r, n + 1 => x :: dropAt r n

end Sys2Proof.Machine
end

