-- ==== Sys2Proof/Machine/State.lean ====
section
/-! DEFINITION. The state of the device, as plain data, and the machine right after reset. -/

namespace Sys2Proof.Machine

/-! ## What instructions use and wait for -/

/-- What an instruction reads or writes, for the ordering of R129: a register, a tile, an accumulator, or the
bytes `[lo, hi)` of the own SPM. -/
inductive Res where
  | s (i : Fin 32) | a (i : Fin 16) | c (i : Fin 16) | k (i : Fin 8) | q (i : Fin 8) | m (i : Fin 4)
  | tile (i : Fin 8) | acc (i : Fin 4) | spm (lo hi : Nat)
  deriving DecidableEq, Repr

/-- The units of R74 and of Table 5.17; `mem` is the scalar memory path and `net` the channel interface. -/
inductive FUnit where
  | cells | veu | stu | mem | net
  deriving DecidableEq, Repr

/-- Where a piece of a unit comes from: an address, bytes read already, or the Rosin expander, as bytes from `off` of block
`block` of the stream that a directory entry's seed gives for bytes i and j, modulo the prime of a table entry (R182, R183,
R469). -/
inductive PieceSrc where
  | mem (addr : Nat) | lit (bytes : List Byte)
  | rosin (entry i j tab block off : Nat)
  deriving DecidableEq, Repr

/-- What a piece does at its destination (R245). -/
inductive PieceOp where
  | write | addWrap | addMod (q : Nat)
  deriving DecidableEq, Repr

/-- A run of bytes that one unit moves. -/
structure Piece where
  src : PieceSrc
  dst : Nat
  len : Nat
  op : PieceOp := .write
  deriving DecidableEq, Repr

/-- A transfer unit (R229): at most 4 KiB of the destination, in the order its writes take effect. -/
structure BowUnit where
  pieces : List Piece
  /-- a fetch unit writes the issuing PA's own SPM; an egress unit writes elsewhere -/
  fetch : Bool
  cls : StreamClass
  /-- the HBM or CXL source unit it lands whole, for source reuse (R248) -/
  whole : Option Nat := none
  /-- a block of a key stream that goes to an instruction and to no memory (R199) -/
  stream : Bool := false
  /-- uncorrectable words of the own SPM that it has read: source address and destination -/
  bad : List (Nat × Nat) := []
  deriving DecidableEq, Repr

/-- What the next instruction of a thread waits for, once it has been attempted (R98, Table 4.19): each holds until its
condition does. -/
inductive Need where
  /-- registers, tiles, accumulators or SPM bytes that earlier instructions of the thread write (R129) -/
  | regs (l : List Res)
  /-- Bow landings on ranges of the own SPM (R233) -/
  | landings (l : List (Nat × Nat))
  /-- a free footprint slot (R129) -/
  | slot
  /-- room in the merge buffer for a narrow write of a range of the own SPM (R96) -/
  | room (off n : Nat)
  /-- the conditions of FENCE bits (R130) -/
  | fence (bits : Nat)
  /-- a fifth mask waits for one of four in progress to release (R131) -/
  | masks
  /-- a unit that is busy with another instruction (R74), the divider (R116), or a cycle that an issue limit leaves
  (R427) -/
  | unit (u : FUnit)
  | divider
  | limit
  /-- a statistics record that an SSTAT holds (R219) -/
  | record (l : List (Nat × Nat))
  /-- one of the two keyed instructions that a member holds (R193), the cells, which a keyed instruction shares with
  another, and the blocks of the BKEY that it consumes (R233, R237) -/
  | members (g : Fin 4)
  | keyedCells
  | keyBlocks (cmd : Nat)
  /-- room in the Bow's queue, the thread's quota and the landing map for a command's units (R227, R233) -/
  | bow (us : List BowUnit)
  /-- room for a message of `m` bytes in a channel's rings (R290), or for a contribution to a queue's round (R296) -/
  | ring (c m : Nat)
  | round (j : Nat)
  /-- a message of a channel (R287), or the next round of a queue (R296) -/
  | message (c : Nat)
  | result (j : Nat)
  /-- the Fretboard takes no packet for the home of an address (R30, R302) -/
  | mesh (a : Nat)
  /-- a request slot of the memory bank of an address (R263, R265) -/
  | bank (a : Nat)
  /-- the cycles that a slow instruction issues in (R228) -/
  | issuing
  deriving DecidableEq, Repr

/-! ## Threads (R108 to R111) -/

/-- The exception codes of Table 0.5. -/
inductive Exc where
  | illegal | priv | cancel | level | noise | scale | keytag | poison | overlap | window | align | deadlock | ecc
  deriving DecidableEq, Repr

/-- Table 4.7. -/
inductive ThState where
  | idle | run | handler | faulted | ended
  deriving DecidableEq, Repr

/-- One entry of the loop stack (R126): the first word of the body, the word at its end, the remaining count and
the index. -/
structure Loop where
  start : Nat
  last : Nat
  remaining : Nat
  index : Nat
  deriving DecidableEq, Repr

/-- What a thread whose instruction has issued but not ended stands at: nothing, a PA-local barrier (R131), a
package barrier (R132), a keyed instruction of its Chord group (R185), an export (R201), or a cancel of its
run-ahead that is completing (R250). -/
inductive Wait where
  | none
  | barpa (mask : BitVec 8)
  | barpkg (b : Fin 32)
  | chord
  | exporting (chan : BitVec 8)
  | cancel
  deriving DecidableEq, Repr

/-- The fields of PA_TH_EXC, PA_TH_EPC and PA_TH_EADDR (Tables 4.23 and 4.24). -/
structure ExcRegs where
  code : BitVec 8 := 0
  deferred : Bool := false
  double : Bool := false
  overrun : Bool := false
  reg : BitVec 5 := 0
  file : BitVec 3 := 0
  epc : BitVec 14 := 0
  fpc : BitVec 14 := 0
  addr : BitVec 48 := 0
  deriving DecidableEq, Repr

/-- One hardware thread (Table 4.6), its state (Table 4.7), its exception registers and its handler register. -/
structure Thread where
  st : ThState := .idle
  /-- the IMEM word index of the next instruction; 16,384 is one past the last word -/
  pc : Nat := 0
  s : Vector Word 32 := Vector.replicate 32 0
  a : Vector Word 16 := Vector.replicate 16 0
  /-- a register never loaded has poisoned = 1 and zero fields (R470) -/
  c : Vector Desc 16 := Vector.replicate 16 (BitVec.ofNat 256 (2 ^ 144))
  /-- key handles: the key directory entry, or invalid -/
  k : Vector (Option (Fin 4096)) 8 := Vector.replicate 8 none
  /-- queue handles: channel below 1,024, combining queue from 1,024, or invalid (R286) -/
  q : Vector (Option (Fin 1088)) 8 := Vector.replicate 8 none
  m : Vector Word 4 := Vector.replicate 4 (BitVec.allOnes 64)
  /-- the loop stack, innermost first -/
  loops : List Loop := []
  exc : ExcRegs := {}
  /-- a deferred exception is latched and not yet delivered (R134), and whether it is a loss of lock (R136) -/
  undelivered : Bool := false
  lossOfLock : Bool := false
  /-- a cancel awaits its delivery, which PA_CTRL.quiesce holds (R134, R138) -/
  cancelled : Bool := false
  /-- a handler PC and whether it is enabled (PA_TH_HANDLER) -/
  handlerPc : BitVec 14 := 0
  handlerOn : Bool := false
  /-- what its next instruction, which has been attempted, waits for (R98) -/
  needs : List Need := []
  /-- the PA cycle from which it may issue again, after a delivery (R136) or a BMOVT (R228) -/
  holdTo : Nat := 0
  delivering : Bool := false
  /-- TEND has issued (R112) -/
  ending : Bool := false
  wait : Wait := .none
  /-- package barriers at which the thread's arrival stands, with the pc of its BARPKG, and releases it holds (R132) -/
  arrivals : List (Nat × Nat) := []
  held : List Nat := []
  /-- the pc of an instruction for which the thread waits no longer: a barrier has been released (R131), a keyed
  instruction has started (R185), or an export has ended (R201), and the instruction issues when it is next attempted -/
  released : Option Nat := none
  deriving DecidableEq, Repr

/-! ## Instructions in flight (R129) -/

/-- One write that an instruction makes when it completes. Memory is written as bytes at a device address. -/
inductive Wr where
  | s (i : Fin 32) (v : Word)
  /-- the flags word, which an abort leaves unwritten (R176) -/
  | flags (i : Fin 32) (v : Word)
  | a (i : Fin 16) (v : Word)
  | c (i : Fin 16) (v : Desc)
  | mem (addr : Nat) (bytes : List Byte)
  | tile (i : Nat) (v : Word)
  | acc (i : Nat) (v : BitVec 128)
  | accOvf (i : Fin 4) (v : Word)
  | accMi (i : Fin 4) (row : Nat) (v : Nat)
  deriving DecidableEq, Repr

/-- A scalar or descriptor access on its way to its home (R119, R120). -/
inductive MemKind where
  | load (r : Fin 32) (sx : Bool)
  | store (v : Word)
  | amo (op : AtomicOp) (operand : Word) (r : Fin 32)
  | loadDesc (r : Fin 16)
  | storeDesc (v : Desc)
  deriving DecidableEq, Repr

/-- The access of an instruction in flight; `done` once it has been performed at its home. -/
structure MemAcc where
  addr : Nat
  size : Nat
  kind : MemKind
  done : Bool := false
  deriving DecidableEq, Repr

/-- What a BKEY fetches (R237): the directory entry, the limb count it was queued with, the half of the key area in
which its blocks land, the blocks that have landed, by offset from there, and their bytes. -/
structure KeyBlocks where
  /-- the number of the command that fetches them -/
  cmd : Nat := 0
  entry : Nat
  limbs : Nat
  consumed : Bool := false
  /-- discarded: what of it is in flight counts as a wasted key fetch (R54, R191) -/
  wasted : Bool := false
  /-- the part size of its blocks (R186) -/
  part : Nat := 0
  half : Fin 2 := 0
  blocks : SMap Byte := []
  /-- bytes that have landed -/
  landed : Nat := 0
  deriving DecidableEq, Repr

/-- An instruction that has issued and not completed. -/
structure Op where
  /-- a number that no other instruction of the PA bears -/
  id : Nat := 0
  thr : Thr
  fpc : Nat
  unit : FUnit
  uses : List Res
  defs : List Res
  writes : List Wr
  /-- the destination descriptor register, which an abort poisons (R67) -/
  poison : Option (Fin 16) := none
  acc : Option MemAcc := none
  /-- the address of an uncorrectable or lost word that the instruction has met -/
  bad : Option (BitVec 48) := none
  /-- a member's part of a Chord instruction: the group, and the number of the instruction (R185) -/
  keyed : Option (Fin 4 × Nat) := none
  /-- the PA cycle from which its unit accepts another instruction (R175) -/
  busyTo : Nat := 0
  /-- the SPM offset of the statistics record that an SSTAT holds (R219) -/
  record : Option Nat := none
  /-- lines that its operand streams have read on each read port, and its results written (R91) -/
  got0 : Nat := 0
  got1 : Nat := 0
  put : Nat := 0
  /-- its element groups in order (R89): the SPM bytes, as device addresses, that each reads, and the number of its writes -/
  groups : List (List (Nat × Nat) × Nat) := []
  /-- the command that fetches its key blocks, until they have landed; then the blocks (R192, R237) -/
  keyCmd : Option Nat := none
  keySet : Option KeyBlocks := none
  deriving DecidableEq, Repr

/-! ## The Bow (chapter 8) -/

/-- A Bow command in the queue. -/
structure BowCmd where
  id : Nat
  thr : Thr
  /-- the pc of the command, whether it issued in handler state, and the thread's instructions it follows are
  those numbered below `before` -/
  fpc : Nat
  hnd : Bool := false
  before : Nat := 0
  fresh : Bool
  /-- units not yet requested, and units requested and not completed -/
  left : List BowUnit
  out : Nat
  aborted : Bool := false
  key : Option KeyBlocks := none
  /-- it reads all its sources before it writes any of them (R243) -/
  whole : Bool := false
  deriving DecidableEq, Repr

/-- A unit that holds a tag. -/
structure Tag where
  id : Nat := 0
  cmd : Nat
  thr : Thr
  unit : BowUnit
  /-- cancelled after it was requested: its data is discarded (R250) -/
  cancelled : Bool := false
  /-- its accesses that have passed the slices of their homes, by address -/
  passed : List Nat := []
  /-- its packet has been lost (R304) -/
  lost : Bool := false
  deriving DecidableEq, Repr

/-- The Bow of one PA. -/
structure Bow where
  queue : List BowCmd := []
  tags : List Tag := []
  nextId : Nat := 0
  /-- the thread whose turn is next (R230) -/
  turn : Thr := 0
  /-- the source reuse table (R248), most recently used first: destination line and source unit -/
  reuse : List (Nat × Nat) := []
  /-- landed key blocks that no keyed instruction has consumed (R237) -/
  keys : List (Thr × KeyBlocks) := []
  deriving DecidableEq, Repr

/-! ## A polynomial array (chapter 3) -/

/-- A merge-buffer entry (R95): its line and byte mask; the bytes themselves are in memory, as R93 requires every
read to see them. `due` once a condition of R95 has it drain. -/
structure Merge where
  line : Nat
  mask : BitVec 4096
  /-- threads of the PA whose writes it holds -/
  writers : List Thr := []
  due : Bool := false
  /-- the PA cycle of its last write -/
  last : Nat := 0
  deriving DecidableEq, Repr

/-- The ports of an SPM (R91): two read ports and the write port. -/
inductive SpmPort where
  | read0 | read1 | write
  deriving DecidableEq, Repr

/-- A request of Table 3.6 that is no element group of an instruction, and waits for a port: the drain of a line of the
merge buffer, the write-back of a corrected word (R94), the reads of an egress unit of a Bow command, or an access from
outside the PA. -/
inductive SpmAsk where
  | drain (line : Nat)
  | correct (word : Nat)
  | egress (cmd : Nat)
  | remote (rq : Requester) (off : Nat) (acc : Access)
  deriving DecidableEq, Repr

/-- A waiting request, the PA cycle from which it waits, and whether it has been raised to priority 1 (R92). -/
structure SpmReq where
  ask : SpmAsk
  since : Nat
  raised : Bool := false
  deriving DecidableEq, Repr

/-- One PA. -/
structure PaState where
  online : Bool := false
  threads : Vector Thread 8 := Vector.replicate 8 {}
  /-- 16,384 instruction words -/
  imem : SMap IWord := []
  /-- tile registers: element `e` of tile `i` at `i * 4096 + e` -/
  tiles : SMap Word := []
  /-- accumulators, numbered likewise; row flags; row modulus indexes at `i * 64 + row` -/
  accs : SMap (BitVec 128) := []
  accOvf : Vector Word 4 := Vector.replicate 4 0
  accMi : SMap Nat := []
  /-- the thread that holds issue and the consecutive cycles it has issued (R97) -/
  cur : Thr := 0
  runLen : Nat := 0
  /-- the current thread has stalled, and the sequencer looks for the next ready one (R97) -/
  seeking : Bool := false
  /-- PA cycles that have passed, and the cycle from which the divider accepts a divide (R116) -/
  cycle : Nat := 0
  divTo : Nat := 0
  merge : List Merge := []
  draining : Bool := false
  /-- requests that wait for a port, and the ports that requests have taken in this cycle, with the line (R91) -/
  asks : List SpmReq := []
  grants : List (SpmPort × Nat) := []
  ops : List Op := []
  nextOp : Nat := 0
  bow : Bow := {}
  /-- PA-local barriers in progress (R131): mask and the threads that have arrived -/
  barriers : List (BitVec 8 × BitVec 8) := []
  quiesced : Bool := false
  /-- the remap entries in use since its start-up: bank, spare and the local index of the line that it replaces (R255) -/
  remaps : List (Nat × Nat × Nat) := []
  /-- running microcode revisions (GLB_VERSION) -/
  mcPa : BitVec 8 := 0
  mcBow : BitVec 8 := 0
  /-- the image digests of the running microcode (R377) -/
  digPa : List Byte := []
  digBow : List Byte := []
  deriving DecidableEq, Repr

/-! ## The program (chapters 4 and 6) -/

/-- One key header copy (R181), with the address of its key. -/
structure KeyHdr where
  kind : Nat
  seeded : Bool
  lgn : Nat
  dnum : Nat
  limbs : Nat
  special : Nat
  lweN : Nat
  galois : Nat
  tagIn : BitVec 48
  tagOut : BitVec 48
  knoise : BitVec 16
  seed : List Byte
  base : Nat
  deriving DecidableEq, Repr

/-- A Chord group (R180, R184): member mask and scratch offset. -/
structure ChordGroup where
  mask : BitVec 128 := 0
  scratch : Nat := 0
  /-- S_g of R188 -/
  size : Nat := 0
  deriving DecidableEq, Repr

/-- A member's issue of a keyed instruction that waits for the other members (R185): the word, the key directory
entry and the addresses and descriptors it named, read at issue, and the descriptor of its result. -/
structure ChordIssue where
  pa : Pa
  thr : Thr
  fpc : Nat
  word : IWord
  entry : Nat
  ad : Nat
  as1 : Nat
  as2 : Nat
  cd : Fin 16
  d1 : Desc
  d2 : Desc
  result : Desc
  deriving DecidableEq, Repr

/-- A keyed instruction of a group that has started (R192): its number, the members' issues, the directory entry, and the
components of its sources limb by limb, as its members' parts stood at the start. -/
structure ChordRun where
  group : Fin 4
  seq : Nat
  issues : List ChordIssue
  entry : Nat
  a0 : List (List Nat)
  a1 : List (List Nat)
  b0 : List (List Nat)
  b1 : List (List Nat)
  deriving DecidableEq, Repr

/-- A block of a key that is fetched or expanded once for every unit that has asked for it (R194): its number, the PA that
asked first, where its pieces come from, the units that still await it and the PAs that have it; its bytes once it has come,
and the words that failed. -/
structure KeyFetch where
  id : Nat
  first : Pa
  srcs : List PieceSrc
  left : List (Pa × Nat)
  taken : List Pa := []
  data : Option (List (List Byte)) := none
  bad : List (Nat × Nat × Nat) := []
  deriving DecidableEq, Repr

/-- How a program completed (R113). -/
inductive Completion where
  | running | ended | faulted (p : Pa) (t : Thr) (code : BitVec 8) (fpc : BitVec 14) | cancelled
  deriving DecidableEq, Repr

/-- A PROG_CANCEL, or a PROG_UNLOAD, whose response waits (R321, R322): the session's sid and the request. -/
structure CancelWait where
  sid : BitVec 32
  reqId : BitVec 32
  unload : Bool
  deriving DecidableEq, Repr

/-- The resident program. -/
structure Program where
  mask : BitVec 128
  faultStop : Bool
  /-- the Wonis version that its image was built for (R142) -/
  version : BitVec 16 := 0x0102
  digest : List Byte
  timeoutS : Nat
  status : Completion := .running
  /-- the first fault (R113) -/
  firstFault : Option (Pa × Thr × BitVec 8 × BitVec 14) := none
  /-- a cancel has begun: 0 by a host, 1 by an unload, 2 by fault_stop, 3 by the timeout (Table 11.8) -/
  cancelSrc : Option (Fin 4) := none
  waits : List CancelWait := []
  /-- its PA_NCFG and PA_NCONST values, which a PA that returns from a reset takes (R398) -/
  ncfg : List Word := []
  deriving DecidableEq, Repr

/-- A load in progress (R106): the session and request that asked, the image address, the timeout, and the cancels
and unloads that wait for its end (R321). -/
structure Load where
  sid : BitVec 32
  reqId : BitVec 32
  addr : Nat
  timeoutS : Nat
  waits : List CancelWait := []
  deriving DecidableEq, Repr

/-- An open export (R201, R325): who waits, the exported descriptor, where an answer goes, the answer so far. -/
structure Export where
  chan : BitVec 8
  pa : Pa
  thr : Thr
  cd : Fin 16
  /-- the pc of its CXPT -/
  fpc : Nat
  desc : Desc
  ab : Nat
  timeoutMs : Nat
  /-- tag_out of key entry kh, when the lazy bit allows it (R202) -/
  altTag : Option (BitVec 48)
  /-- the session that the export is bound to, the answer descriptor and the bytes covered -/
  bound : Option Nat := none
  answer : Option Desc := none
  covered : List (Nat × Nat) := []
  /-- the messages that carry it have been sent -/
  sent : Bool := false
  deriving DecidableEq, Repr

/-! ## Channels and combining queues (chapter 10) -/

/-- A message or pad marker in a ring (R289). -/
structure ChMsg where
  off : Nat
  /-- bytes it occupies, header included -/
  bytes : Nat
  pad : Bool
  seq : BitVec 32
  words : List Word
  /-- payload words that carry the check pattern -/
  bad : List Nat := []
  deriving DecidableEq, Repr

/-- One receiver of a channel. -/
structure ChRecv where
  pa : Pa
  live : Bool := true
  /-- placed and not yet delivered, oldest first -/
  flying : List ChMsg := []
  /-- delivered and not yet taken -/
  arrived : List ChMsg := []
  /-- taken and not yet freed -/
  taken : List ChMsg := []
  /-- the receiver's own read pointer -/
  rp : Nat := 0
  /-- the sender's view: read pointer and bytes in use -/
  rpSeen : Nat := 0
  usedSeen : Nat := 0
  /-- bytes whose credit return is on its way, oldest first, and the credit returns sent -/
  credits : List Nat := []
  creditNo : Nat := 0
  expect : BitVec 32 := 0
  deriving DecidableEq, Repr

/-- A channel (Table 10.4) and its state. -/
structure Chan where
  multicast : Bool
  yx : Bool
  drop : Bool
  spa : Pa
  sthr : Thr
  rthr : Thr
  rlog : Nat
  roff : Nat
  maxp : Nat
  rmask : BitVec 128
  wp : Nat := 0
  seq : BitVec 32 := 0
  recvs : List ChRecv := []
  /-- the bytes of the message that a blocked SEND waits to place -/
  want : Nat := 0
  broken : Bool := false
  dropped : Bool := false
  deriving DecidableEq, Repr

/-- A contribution on its way to the home of a combining queue, or a round that is open there. -/
structure CqPart where
  /-- a number that no other contribution to the queue on its way bears -/
  id : Nat := 0
  round : Nat
  words : List Word
  count : Nat
  deriving DecidableEq, Repr

/-- A combining queue (Table 10.8) and its state. -/
structure Cq where
  op : Nat
  mi : Nat
  words : Nat
  hpa : Pa
  hthr : Thr
  roff : Nat
  cnt : Nat
  /-- CQADDs issued by each contributing thread, keyed by its number -/
  sent : SMap Nat := []
  flying : List CqPart := []
  nextPart : Nat := 0
  /-- rounds in progress at the home, oldest first -/
  opened : List CqPart := []
  /-- rounds written to their slots, and CQWAITs the home thread has issued -/
  written : Nat := 0
  /-- the round after those has been written before the oldest open one -/
  early : Bool := false
  waits : Nat := 0
  lost : Bool := false
  deriving DecidableEq, Repr

/-- One hop of a packet: a router's output, 0 local, 1 north, 2 east, 3 south or 4 west. -/
structure Hop where
  router : Fin 128
  out : Fin 5
  deriving DecidableEq, Repr

/-- What a packet of the Fretboard carries. -/
inductive Flow where
  /-- the request of an access of an instruction in flight, and its response -/
  | access (p : Pa) (op : Nat)
  | answer (p : Pa) (op : Nat)
  /-- a request of a unit of a Bow -/
  | unit (p : Pa) (tag : Nat)
  /-- message `seq` of a channel, and credit return `n` of a receiver -/
  | message (c : Nat) (seq : BitVec 32)
  | credit (c : Nat) (p : Pa) (n : Nat)
  /-- a contribution to a combining queue -/
  | part (j : Nat) (id : Nat)
  /-- an arrival at a package barrier, and its release -/
  | arrival (b : Fin 32) (p : Pa) (t : Thr)
  | release (b : Fin 32) (p : Pa) (t : Thr)
  /-- a block of a key, to every PA that has asked for it (R194) -/
  | block (n : Nat)
  /-- a packet that the command which sends it also delivers -/
  | now
  deriving DecidableEq, Repr

/-- The way of a packet to one destination: the output at which it leaves the Fretboard, and the hops still before it. -/
structure Way where
  dest : Hop
  left : List Hop
  deriving DecidableEq, Repr

/-- A packet of the Fretboard that is on its way (R278 to R281): its virtual network, its flits, the router and the input
by which it entered, the input of the router at which it stands, whether it has left its network interface, and its way to
each destination. -/
structure Pkt where
  flow : Flow
  vn : Fin 4
  flits : Nat
  src : Fin 128 × Fin 5
  input : Fin 5
  entered : Bool := false
  ways : List Way
  deriving DecidableEq, Repr

/-- A request that waits at a hub stop for its cache bank (R263); `granted` once the stop has granted it a slot. -/
structure StopReq where
  stop : Fin 32
  index : Nat
  rq : Requester
  addr : Nat
  acc : Access
  granted : Bool := false
  deriving DecidableEq, Repr

/-- An arbiter's own state (R300): credits and last winner. -/
structure Arbiter where
  credit : List Nat
  last : Nat := 0
  frozen : Bool := false
  deriving DecidableEq, Repr

/-! ## Package cache and memories (chapter 9) -/

/-- A line of a slice: the unit `w` it holds, class, remaining-use count, sector bits and last access. -/
structure CLine where
  unit : Nat
  cls : StreamClass
  count : Nat
  valid : BitVec 32
  dirty : BitVec 32
  last : Nat
  deriving DecidableEq, Repr

/-- A read of HBM that a slice has outstanding: for a request, which it answers with its access, or a prefetch of a
whole unit (R258, R260). -/
structure Fill where
  id : Nat := 0
  rq : Requester
  cls : StreamClass
  addr : Nat
  acc : Option Access
  deriving DecidableEq, Repr

/-- A write that waits in a bank's request slot and has not committed (R262). -/
structure SlotWrite where
  rq : Requester
  cls : StreamClass
  addr : Nat
  bytes : List Byte
  deriving DecidableEq, Repr

/-- A stream tracker (R260). -/
structure Tracker where
  rq : Requester
  cls : StreamClass
  lastDemand : Nat
  next : Nat
  issued : Nat
  used : Nat
  deriving DecidableEq, Repr

/-- A cache bank's power state (R261, R262). -/
inductive BankState where
  | on | draining | forced | off
  deriving DecidableEq, Repr

/-- One package cache slice. -/
structure Slice where
  /-- lines, keyed by `set * 16 + way` -/
  lines : SMap (Option CLine) := []
  fills : List Fill := []
  waiting : List SlotWrite := []
  trackers : Vector (Option Tracker) 32 := Vector.replicate 32 none
  /-- the last demand miss of each requester -/
  lastMiss : List (Requester × Nat) := []
  banks : Vector BankState 16 := Vector.replicate 16 .on
  clock : Nat := 0
  nextFill : Nat := 0
  deriving DecidableEq, Repr

/-- A request in a queue of a pseudo-channel (R265): the address of its sector, the fill that awaits it, and the
controller cycle in which it entered. -/
structure HbmReq where
  pc : Nat
  write : Bool
  addr : Nat
  fill : Option Nat := none
  since : Nat
  deriving DecidableEq, Repr

/-- One HBM stack and its controller. -/
structure Hbm where
  ready : Bool := false
  /-- Table 9.3 state, 0 to 3 -/
  therm : Fin 4 := 0
  temp : BitVec 8 := 0
  /-- postponed refreshes of bank `pc * 64 + bank` (R266) -/
  postponed : SMap Nat := []
  /-- open rows of each bank; the queues of the pseudo-channels, oldest first, and those in write mode (R265) -/
  openRow : SMap (Option Nat) := []
  queue : List HbmReq := []
  writeMode : SMap Bool := []
  /-- bursts whose CRC failed once and are being retried (R267) -/
  retry : List Nat := []
  deriving DecidableEq, Repr

/-- One CXL port (R271). -/
structure CxlPort where
  linkUp : Bool := false
  ready : Bool := false
  /-- the range stays populated once ready has set (R277) -/
  mapped : Bool := false
  wide : Bool := false
  fast : Bool := false
  /-- capacity in 256 MiB units -/
  cap : BitVec 14 := 0
  /-- bytes of the expander that the layout leaves out, by port offset, and uncorrectable words among them (R271) -/
  aside : SMap Byte := []
  asideBad : List Nat := []
  deriving DecidableEq, Repr

/-! ## Host interface (chapter 11) -/

/-- The requests of Table 11.5, with their bodies. -/
inductive GhtBody where
  | regRead (addrs : List Word)
  | regWrite (writes : List (Word × Word))
  | memRead (addr : Word) (len : BitVec 32) (cls : BitVec 8)
  | memWrite (addr : Word) (cls : BitVec 8) (data : List Byte)
  | keyWrite (base off : Word) (data : List Byte)
  | doorbell (addr addend : Word)
  | watch (addr : Word) (wid : BitVec 8)
  | unwatch (wid : BitVec 8)
  | progLoad (addr : Word) (timeoutS : BitVec 32)
  | progUnload
  | progCancel
  | attest (nonce : List Byte)
  | macsecKey (suite an : BitVec 8) (sci : Word) (sak : List Byte) (ssci : BitVec 32) (salt : List Byte)
  | exportResend (chan : BitVec 8) (off len : Word)
  | answerBegin (chan : BitVec 8) (desc : Desc)
  | answerData (chan : BitVec 8) (off : Word) (data : List Byte)
  | answerEnd (chan : BitVec 8)
  | decline (chan : BitVec 8)
  | eventAck (eseq : BitVec 32)
  | ping
  | close
  | unlisted (ty : BitVec 16)
  deriving DecidableEq, Repr

/-- The response status codes of Table 11.6. -/
inductive Status where
  | ok | malformed | role | align | window | ecc | busy | load | key | exporting | notOwner | stale | denied | noProgram
  deriving DecidableEq, Repr

/-- An event that awaits its EVENT_ACK (R324). -/
structure Event where
  eseq : BitVec 32
  code : BitVec 16
  args : List Byte
  deriving DecidableEq, Repr

/-- A watch (R324): its word and the value of an event not yet sent. -/
structure Watch where
  addr : Nat
  due : Option Word := none
  deriving DecidableEq, Repr

/-- The host to which a port sends: a MAC address and an IPv4 or IPv6 address (R308). -/
structure Peer where
  mac : BitVec 48 := 0
  ip : BitVec 128 := 0
  v6 : Bool := false
  deriving DecidableEq, Repr

/-- Where a frame goes, its 802.1Q tag, and whether it is protected under the port's MACsec key (R307 to R309). -/
structure Dest where
  peer : Peer
  vlan : Option (BitVec 12)
  macsec : Bool
  deriving DecidableEq, Repr

/-- A request that a session has accepted and not completed (R317): `started` once it is performed, and the answer
that waits for its RWP writes (R16). -/
structure Req where
  id : BitVec 32
  fence : Bool
  started : Bool
  body : GhtBody
  answer : Option (Status × Nat) := none
  /-- a completed read that the host has sent again: it reads once more and is not recorded -/
  again : Bool := false
  /-- where its response goes (R308) -/
  peer : Peer := {}
  /-- what it meets when it starts: a Peg access of the other port (R329), and bits that hardware sets as its registers are
  written (R15) -/
  tie : Bool := false
  ties : List Word := []
  /-- its home could not take its access yet -/
  held : Bool := false
  deriving DecidableEq, Repr

/-- An open session (R310, R315, R317). -/
structure Session where
  sid : BitVec 32
  control : Bool
  /-- the HIF_HOSTKEY entry that admitted it, or open mode -/
  entry : Option (Fin 8)
  /-- the keys and salts of R312 -/
  okm : List Byte
  /-- the highest accepted seq and the set of accepted seqs within 64 of it -/
  top : Nat
  seen : List Nat
  tx : Nat := 0
  /-- requests accepted and not completed, in the order of their acceptance -/
  busy : List Req := []
  /-- the completion record, newest first (R317) -/
  record : List (BitVec 32 × Status × BitVec 16) := []
  highest : Option (BitVec 32) := none
  watches : Vector (Option Watch) 16 := Vector.replicate 16 none
  events : List Event := []
  eseq : BitVec 32 := 0
  /-- where what the device sends on its own goes: the source of the session's FINISH -/
  peer : Peer := {}
  /-- it ends once the REG_WRITE that ended open mode has been answered (R313) -/
  ending : Bool := false
  deriving DecidableEq, Repr

/-- A handshake in progress (R314). -/
structure Handshake where
  port : EPort
  control : Bool
  sid : BitVec 32
  th : List Byte
  okm : List Byte
  deriving DecidableEq, Repr

/-- A MACsec secure association key (R309). -/
structure MacsecKey where
  suite : BitVec 8
  an : BitVec 8
  sci : Word
  sak : List Byte
  ssci : BitVec 32
  salt : List Byte
  deriving DecidableEq, Repr

/-- One Ethernet port. -/
structure EthPort where
  linkUp : Bool := false
  optical : Bool := false
  macsec : Option MacsecKey := none
  deriving DecidableEq, Repr

/-! ## Bridge (chapter 12) -/

/-- Table 12.4. -/
inductive BrgState where
  | down | training | ident | up | retrain
  deriving DecidableEq, Repr

/-- One Bridge port. -/
structure Bridge where
  st : BrgState := .down
  width : BitVec 2 := 0
  miswired : Bool := false
  peerAddr : BitVec 8 := 0
  peerValid : Bool := false
  peerPort : BitVec 3 := 0
  peerSerial : Word := 0
  /-- the replay buffer, oldest first (R340), and the next sequence number to send -/
  replay : List Flit := []
  txSeq : BitVec 12 := 0
  /-- flits that wait for their slots, packets and reduction data, and the flit slots taken (R359) -/
  wait0 : List Flit := []
  wait1 : List Flit := []
  slot : Nat := 0
  /-- the sequence number of the next flit in order -/
  rxSeq : BitVec 12 := 0
  /-- replays in a row of one flit -/
  fails : Nat := 0
  deriving DecidableEq, Repr

/-- The enumeration attempt that a master runs (R345). -/
inductive EnumPhase where
  | none | assigning | committing
  deriving DecidableEq, Repr

/-- An entry of the peer window table (R348). -/
structure PeerWindow where
  owner : BitVec 8
  index : Nat
  off : Nat
  size : Nat
  rd : Bool
  wr : Bool
  deriving DecidableEq, Repr

/-- The running state of an own window (Table 12.14), beside its registers. -/
structure OwnWindow where
  isOpen : Bool := false
  closing : Bool := false
  err : Bool := false
  /-- peers whose WINACK is outstanding -/
  waiting : List Nat := []
  deriving DecidableEq, Repr

/-- A window request of this device that awaits its response (R350): the tag, and the PA and instruction. -/
structure WinReq where
  tag : BitVec 32
  pa : Pa
  op : Nat
  /-- for a Bow unit, `op` is the unit's number, and the request is for this piece of it -/
  piece : Option Nat := none
  deriving DecidableEq, Repr

/-- Where a reduction round stands on this device (R354, R357). -/
inductive RedPhase where
  | idle | headers | blocks | aborting | failing
  deriving DecidableEq, Repr

/-- A reduction context (R352 to R358). -/
structure RedCtx where
  round : BitVec 32 := 0
  code : BitVec 8 := 0
  attempts : BitVec 3 := 0
  phase : RedPhase := .idle
  /-- a second arm that is held (R353) -/
  held : Option (BitVec 32) := none
  /-- headers received on this attempt, by port -/
  hdrs : List (BPort × RoundHeader) := []
  /-- child blocks that wait for the rest of their sum -/
  parts : List (BPort × RoundBlock) := []
  /-- result blocks written, blocks sent up, and trees (B is true) whose final header has come -/
  written : List Nat := []
  sent : List Nat := []
  finals : List Bool := []
  /-- the merged entries of the round -/
  merged : List RoundEntry := []
  /-- ports whose ABORT acknowledgement has arrived -/
  acks : List BPort := []
  fail : BitVec 8 := 0
  deriving DecidableEq, Repr

/-! ## Soundpost, the Drone and Tailpiece (chapters 13 and 14) -/

/-- A log record (Table 13.2). -/
structure LogRec where
  seq : BitVec 32
  cls : BitVec 8
  severity : BitVec 3
  code : BitVec 16
  time : Word
  arg0 : Word
  arg1 : Word
  deriving DecidableEq, Repr

/-- A mailbox command that runs (R382, R394): its code, the arguments it read at its start, whether it is a service
command that has started and holds Peg cell 63 (R402), and its status and results once its work is done. -/
structure MailboxCmd where
  cmd : BitVec 8
  args : Vector Word 4
  started : Bool := false
  result : Option (BitVec 8 × List Word) := none
  deriving DecidableEq, Repr

/-- The management processors (R364 to R370, R376, R377). -/
structure Soundpost where
  ready : Bool := false
  /-- the HD2 Soundpost is active -/
  hd2 : Bool := false
  /-- the HD0 Soundpost is held in reset after a takeover -/
  hd0Held : Bool := false
  standbyOk : Bool := false
  idOk : Bool := false
  droneOk : Bool := false
  recovery : Bool := false
  slot : Bool := false
  fallback : Bool := false
  /-- an SP_RESTART is in progress (R404), and what its boot will find -/
  restart : Option BootFacts := none
  lastBeat : Nat := 0
  /-- the log, newest first, and the seq of the next record -/
  log : List LogRec := []
  logNext : BitVec 32 := 0
  /-- a record has been overwritten since reset (R369) -/
  logWrapped : Bool := false
  latched : Vector (Vector Word 4) 2 := Vector.replicate 2 (Vector.replicate 4 0)
  meas : Vector (List Byte) 5 := Vector.replicate 5 (List.replicate 48 0)
  gen : Vector (BitVec 32) 5 := Vector.replicate 5 0
  images : Vector (BitVec 4) 5 := Vector.replicate 5 0
  cur : Vector (BitVec 8) 12 := Vector.replicate 12 0
  max : Vector (BitVec 8) 12 := Vector.replicate 12 0
  warn : Vector Bool 12 := Vector.replicate 12 false
  trip : Vector Bool 12 := Vector.replicate 12 false
  alertLow : Bool := false
  mailbox : Vector (Option MailboxCmd) 2 := Vector.replicate 2 none
  /-- commands and log latches that a restart of Soundpost keeps waiting (R404) -/
  owedCmds : Vector (Option (BitVec 8)) 2 := Vector.replicate 2 none
  owedLatch : Vector (Option (BitVec 32)) 2 := Vector.replicate 2 none
  /-- the image store (R374): bytes by store offset -/
  store : SMap Byte := []
  /-- a slot that was being written when power failed (R403) -/
  slotCut : Vector Bool 2 := Vector.replicate 2 false
  /-- the loader, firmware and microcode images of the slot that runs -/
  running : Option (Vector ImageFact 4) := none
  idDigest : List Byte := []
  /-- counters as the last log summary saw them (R416) -/
  summarised : List (CounterSrc × Word) := []
  deriving DecidableEq, Repr

/-- What a Drone key slot holds (R385): the seed or scalar of its key. -/
inductive DroneKey where
  | scalar (k : List Byte) | ed (k : List Byte) | dsa (k : List Byte) | kem (k : List Byte)
  deriving DecidableEq, Repr

/-- What a job that has begun gives at its end: its own cycles, its status, its output, and what it leaves in its key slot if it
writes the slot. -/
structure DroneRun where
  cycles : Nat
  status : BitVec 8
  output : List Byte
  setKey : Option (Option DroneKey) := none
  deriving DecidableEq, Repr

/-- A job in a Drone slot (R388). -/
structure DroneTask where
  op : BitVec 8
  job : DroneJob
  order : Nat
  /-- own cycles executed, up to the last yield point -/
  ran : Nat
  /-- what it will give, from its first cycle on -/
  run : Option DroneRun := none
  deriving DecidableEq, Repr

/-- The Drone engine (R385 to R392). -/
structure Drone where
  selfTest : Bool := false
  clockFail : Bool := false
  jobs : Vector (Option DroneTask) 4 := Vector.replicate 4 none
  running : Option (Fin 4) := none
  nextOrder : Nat := 0
  /-- jobs numbered below this waited when the PLL last lost lock (R391) -/
  lostBelow : Nat := 0
  keys : Vector (Option DroneKey) 16 := Vector.replicate 16 none
  locked : Bool := false
  /-- the boot ROM runs (R372, R385) -/
  rom : Bool := false
  buffer : SMap Byte := []
  /-- outputs of the random generator since its last reseed, and since power-up; the state of its health test -/
  rngOut : Nat := 0
  rngTotal : Nat := 0
  rngOk : Bool := true
  deriving DecidableEq, Repr

/-- An RWP write: the register's offset, the value of its RWP bits, and the request whose response follows it. -/
structure RwpWrite where
  off : Nat
  value : Word
  asker : Option (BitVec 32 × BitVec 32) := none
  deriving DecidableEq, Repr

/-- The Tailpiece store (R410 to R413). -/
structure Tailpiece where
  /-- completed values, by register offset; an unlisted one holds its factory value -/
  stored : SMap Word := []
  /-- writes accepted and not completed, and writes that wait to be accepted, oldest first -/
  active : List RwpWrite := []
  waiting : List RwpWrite := []
  /-- wear counts, by Tailpiece word -/
  wear : SMap Nat := []
  loaded : Bool := false
  fault : Bool := false
  /-- a write was cut by power loss -/
  cut : Bool := false
  deriving DecidableEq, Repr

/-! ## Capo, power and the sideband (chapters 15 and 17) -/

/-- Capo (R418 to R433). -/
structure Capo where
  state : Fin 4 := 0
  entering : Bool := false
  waking : Bool := false
  /-- the microsecond in which the wake began -/
  wakeStart : Nat := 0
  wakeReq : Bool := false
  tripHalt : Bool := false
  uv : Bool := false
  /-- held in reset after a shutdown (R429) or a power-stage fault (R433) -/
  shutdown : Bool := false
  stageFault : Bool := false
  stages : Vector Bool 4 := Vector.replicate 4 false
  /-- rails on, by index of Table 17.3 -/
  rails : Vector Bool 4 := Vector.replicate 4 false
  plimF : Nat := 16
  /-- the last samples, newest first, at most 100 -/
  samples : List (BitVec 16) := []
  peak : BitVec 16 := 0
  vin : BitVec 16 := 0
  /-- the Bridge packets that the wake in progress will serve (R425), oldest first -/
  heldPkts : List (BPort × BitVec 8 × Packet) := []
  deriving DecidableEq, Repr

/-- The sideband controller (R460 to R463). -/
structure Sideband where
  addr : BitVec 7 := 0x58
  evt : BitVec 8 := 0
  rcvSlot : Bool := false
  rcvAddr : Nat := 0
  rcvBusy : Bool := false
  rcvDone : Bool := false
  rcvStatus : BitVec 8 := 0
  deriving DecidableEq, Repr

/-! ## What the device sends -/

/-- A message, packet, flit or reply that leaves the device. -/
inductive OutMsg where
  | helloR (port : EPort) (dest : Dest) (status : Nat) (sid : BitVec 32) (body : List Byte)
  | finishR (port : EPort) (dest : Dest) (sid : BitVec 32) (status : Nat) (role : Nat) (idleS : Nat)
  | response (dest : Dest) (sid : BitVec 32) (seq : Nat) (reqId : BitVec 32) (st : Status) (detail : BitVec 16) (data : List Byte)
  | event (dest : Dest) (sid : BitVec 32) (seq : Nat) (e : Event)
  | exportMsg (dest : Dest) (sid : BitVec 32) (seq : Nat) (chan : BitVec 8) (desc : Desc) (len : Nat)
  | exportData (dest : Dest) (sid : BitVec 32) (seq : Nat) (chan : BitVec 8) (off : Nat) (data : List Byte)
  | closed (dest : Dest) (sid : BitVec 32) (seq : Nat)
  | reply (port : EPort) (dest : Dest) (kind : Nat) (payload : List Byte)
  | flit (n : BPort) (f : Flit)
  | packet (n : BPort) (kind : BitVec 8) (pkt : Packet)
  | header (n : BPort) (hdr : RoundHeader)
  | block (n : BPort) (blk : RoundBlock)
  | roundAbort (n : BPort) (ctx : Fin 4) (code : BitVec 8)
  | roundRestart (n : BPort) (ctx : Fin 4) (attempt : BitVec 3)
  | homeData (rq : Requester) (data : List Byte)
  | homeError (rq : Requester) (addr : Nat)
  | sideband (data : List Byte)
  | nack
  deriving DecidableEq, Repr

/-- Why the machine stops. No command of the spec has behaviour that the spec leaves without an effect, so no
meaning raises it: the constructor stands so that the type has a value. -/
inductive Fault where
  /-- raised by no meaning -/
  | none
  deriving DecidableEq, Repr

/-- Why a command has no meaning. -/
inductive Refusal where
  /-- raised by an arm of `exec` whose command has no meaning yet; safe, for the machine stops -/
  | notModelled (mnemonic : String)
  deriving DecidableEq, Repr

/-! ## The device, by parts -/

/-- The memories behind the device addresses. -/
structure Mem where
  /-- the bytes of HBM, of every SPM and of the far tier, by device address -/
  bytes : SMap Byte := []
  /-- uncorrectable 8-byte words, and uncorrectable 32-byte HBM bursts, by device address -/
  unc : List Nat := []
  uncBurst : List Nat := []
  deriving DecidableEq, Repr

/-- Clocks, input power and the reset of the device (Table 1.14, R424, R453, R455). -/
structure Clocks where
  /-- PLL live bits, sticky bits and the PLLs that Capo has stopped -/
  live : BitVec 27 := 0
  sticky : BitVec 27 := 0
  stopped : BitVec 27 := 0
  /-- the input power is up, and the device is held in reset -/
  powered : Bool := false
  inReset : Bool := false
  deriving DecidableEq, Repr

/-- What belongs to the resident program: the modulus table and PA_MODCFG, which all PAs share (R70), the load,
the key directory (R181), Chord groups, package barriers and exports. -/
structure Resident where
  modcfg : Word := 0
  /-- entries (q, psi, lgn_max) -/
  modTab : List (Nat × Nat × Nat) := []
  prog : Option Program := none
  load : Option Load := none
  keys : List KeyHdr := []
  groups : Vector ChordGroup 4 := Vector.replicate 4 {}
  chords : Vector (List ChordIssue) 4 := Vector.replicate 4 []
  /-- keyed instructions that each group has started -/
  chordSeq : Vector Nat 4 := Vector.replicate 4 0
  /-- keyed instructions whose members still wait for key blocks, and the blocks asked for (R192, R194) -/
  runs : List ChordRun := []
  fetches : List KeyFetch := []
  nextFetch : Nat := 0
  barrCount : Vector Nat 32 := Vector.replicate 32 0
  barrArrived : Vector (List (Pa × Thr)) 32 := Vector.replicate 32 []
  exports : List Export := []
  deriving DecidableEq, Repr

/-- Channels, combining queues and arbiters. -/
structure Net where
  chans : List Chan := []
  cqs : List Cq := []
  arbs : SMap (Option Arbiter) := []
  /-- the excluded links, by router and output (R408) -/
  excl : List (Nat × Nat) := []
  /-- packets on their way, oldest first; a packet stands in the input buffer of its virtual network (R278) -/
  pkts : List Pkt := []
  /-- cycles for which a granted packet still holds a router output, by arbiter (R300) -/
  busy : SMap Nat := []
  /-- the virtual network that each router input served last, by arbiter of its output 0 plus the input (R299) -/
  served : SMap (Option (Fin 4)) := []
  /-- the time from which debug may take a router output again (R303) -/
  debug : SMap Nat := []
  /-- requests that wait at the hub stops, oldest first -/
  stops : List StopReq := []
  /-- responses for which each PA's network interface has reserved room (R279) -/
  reserved : SMap Nat := []
  deriving DecidableEq, Repr

/-- Package cache slices, HBM stacks and CXL ports. -/
structure Store where
  slices : Vector Slice 4 := Vector.replicate 4 {}
  hbms : Vector Hbm 24 := Vector.replicate 24 {}
  cxl : Vector CxlPort 2 := Vector.replicate 2 {}
  deriving DecidableEq, Repr

/-- An access of a Peg cell (R327, R328, R331). -/
inductive PegAct where
  | acquire (i : Fin 64)
  | release (i : Fin 64)
  | break_ (i : Fin 64)
  deriving DecidableEq, Repr

/-- The host interface and the Peg cells. -/
structure HostIf where
  eth : Vector EthPort 2 := Vector.replicate 2 {}
  /-- slots 0 to 7 are port A's, 8 to 15 port B's -/
  sessions : Vector (Option Session) 16 := Vector.replicate 16 none
  /-- sessions that have ended with accepted requests not yet completed (R315), by port -/
  ended : List (EPort × Session) := []
  handshakes : List Handshake := []
  nextSid : BitVec 32 := 1
  peg : Vector Word 64 := Vector.replicate 64 0
  /-- PEG_STAT.tie_next, true for port B; whether one of two accesses that tie has been served; the other, if it came first
  (R329) -/
  tieNext : Bool := false
  tieHalf : Bool := false
  tieHeld : Option (EPort × PegAct) := none
  deriving DecidableEq, Repr

/-- A window request that its local home has not taken yet (R350): the port that brought it, whether it writes, the packet and
its local address. -/
structure OwedWin where
  port : BPort
  wr : Bool
  pkt : Packet
  addr : Nat
  deriving DecidableEq, Repr

/-- The Bridge system of this device. -/
structure BrgSys where
  ports : Vector Bridge 8 := Vector.replicate 8 {}
  devaddr : BitVec 9 := 0
  sysCount : Nat := 0
  ringClosed : Bool := false
  enumStatus : BitVec 4 := 0
  mstrPin : Bool := false
  enumPhase : EnumPhase := .none
  enumAddr : Option Nat := none
  sawMaster : Bool := false
  autoEnumDone : Bool := false
  windows : Vector OwnWindow 16 := Vector.replicate 16 {}
  peers : List PeerWindow := []
  /-- WITHDRAWs whose WINACK waits for accesses in progress (R348) -/
  withdrawing : List (BPort × Packet) := []
  winReqs : List WinReq := []
  /-- window requests at their owner, oldest first -/
  owed : List OwedWin := []
  nextTag : BitVec 32 := 0
  reds : Vector RedCtx 4 := Vector.replicate 4 {}
  deriving DecidableEq, Repr

/-- Overtone beside its registers: package snapshots that PAs still owe (R443), the bytes of the current bandwidth
window by port and direction, and the hub cycle in which it started or will start (R445). -/
structure Ovt where
  snapOwed : List Nat := []
  window : SMap Nat := []
  start : Nat := 0
  deriving DecidableEq, Repr

/-- The whole state of the device. -/
structure State where
  /-- commands that wait, first in, first out -/
  pending : List Instr
  /-- time since reset release in units of 125 ps: a PA cycle is 4 and a hub cycle 5 -/
  now : Nat
  /-- undefined words used so far: the next is `Config.freeWord freeCtr` -/
  freeCtr : Nat
  /-- what the device has sent, oldest first -/
  outbox : List OutMsg
  mem : Mem
  /-- the control registers that hold a value of their own, by offset -/
  ctl : SMap Word
  pas : Vector PaState 128
  clk : Clocks
  rp : Resident
  net : Net
  st : Store
  host : HostIf
  brg : BrgSys
  spt : Soundpost
  drone : Drone
  tpc : Tailpiece
  capo : Capo
  sb : Sideband
  ovt : Ovt
  deriving DecidableEq, Repr

/-- R434, R397 and Table 15.2: one PA right after its reset. -/
def PaState.reset : PaState := {}

/-- The device right after reset, before its boot: every register at the value the spec gives, every PA offline,
no PLL locked, no program, memory with nothing listed (log entry 2 names the values the spec does not give). -/
def State.reset : State where
  pending := []
  now := 0
  freeCtr := 0
  outbox := []
  mem := {}
  ctl := []
  pas := Vector.replicate 128 PaState.reset
  clk := {}
  rp := {}
  net := {}
  st := {}
  host := {}
  brg := {}
  spt := {}
  drone := {}
  tpc := {}
  capo := {}
  sb := {}
  ovt := {}

end Sys2Proof.Machine
end

