-- ==== Sys2Proof/Machine/Ops.lean ====
section
/-! DEFINITION. The named operations over the state that the meanings share: the parts of the state, registers,
free values, memory, the log and Overtone's counting. -/

namespace Sys2Proof.Machine

/-! ## Parts of the state -/

def State.pa (s : State) (p : Pa) : PaState := s.pas[p.val]

def State.setPa (s : State) (p : Pa) (x : PaState) : State := { s with pas := s.pas.set p.val x }

def State.modPa (s : State) (p : Pa) (f : PaState → PaState) : State := s.setPa p (f (s.pa p))

def PaState.thr (x : PaState) (t : Thr) : Thread := x.threads[t.val]

def PaState.setThr (x : PaState) (t : Thr) (y : Thread) : PaState := { x with threads := x.threads.set t.val y }

def PaState.modThr (x : PaState) (t : Thr) (f : Thread → Thread) : PaState := x.setThr t (f (x.thr t))

def State.thr (s : State) (p : Pa) (t : Thr) : Thread := (s.pa p).thr t

def State.modThr (s : State) (p : Pa) (t : Thr) (f : Thread → Thread) : State :=
  s.modPa p fun x => x.modThr t f

/-- Add one message to what the device has sent. -/
def State.emit (s : State) (m : OutMsg) : State := { s with outbox := s.outbox ++ [m] }

/-! ## Numbers -/

/-- Round down, and up, to a multiple. -/
def floorTo (n m : Nat) : Nat := n / m * m

def ceilDiv (n m : Nat) : Nat := (n + m - 1) / m

def ceilTo (n m : Nat) : Nat := ceilDiv n m * m

/-- The signed value of the low `w` bits of a number. -/
def signedOf (w n : Nat) : Int := if n % 2 ^ w < 2 ^ (w - 1) then (n % 2 ^ w : Nat) else (n % 2 ^ w : Nat) - (2 ^ w : Nat)

/-- The word of an integer, wrapped. -/
def wordOfInt (i : Int) : Word := BitVec.ofInt 64 i

/-- Whether `[a, a + n)` and `[b, b + m)` share a byte. -/
def overlap (a n b m : Nat) : Bool := a < b + m && b < a + n && 0 < n && 0 < m

/-- Whether `[a, a + n)` lies in `[b, b + m)`. -/
def inside (a n b m : Nat) : Bool := b ≤ a && a + n ≤ b + m

/-! ## Control registers -/

/-- The value that the control range holds at a register. -/
def State.reg (s : State) (r : Reg) : Word := sget regReset s.ctl r.off

def State.setReg (s : State) (r : Reg) (v : Word) : State := { s with ctl := sput regReset s.ctl r.off v }

/-- A field of a register, as a number. -/
def State.regField (s : State) (r : Reg) (lo len : Nat) : Nat := (field (s.reg r) lo len).toNat

def State.regBit (s : State) (r : Reg) (i : Nat) : Bool := bit (s.reg r) i

/-- Hardware sets event bits (R15). -/
def State.raiseBits (s : State) (r : Reg) (m : Word) : State := s.setReg r (s.reg r ||| m)

/-- Replace field `[lo + len - 1 : lo]`. -/
def putField (w : Word) (lo len v : Nat) : Word := (w &&& ~~~ mask lo len) ||| (BitVec.ofNat 64 (v % 2 ^ len * 2 ^ lo))

def State.putRegField (s : State) (r : Reg) (lo len v : Nat) : State := s.setReg r (putField (s.reg r) lo len v)

/-- Count `n` in a field that saturates. -/
def State.countSat (s : State) (r : Reg) (lo len n : Nat) : State :=
  s.putRegField r lo len (min (s.regField r lo len + n) (2 ^ len - 1))

/-- R16: the effective value of an RWP register: that of its last completed write, or the factory value. -/
def State.rwp (s : State) (r : Reg) : Word := sget regReset s.tpc.stored r.off

def State.rwpField (s : State) (r : Reg) (lo len : Nat) : Nat := (field (s.rwp r) lo len).toNat

/-! ## Free values -/

/-- One fresh undefined word. -/
def State.draw (s : State) : Word × State := (Config.freeWord s.freeCtr, { s with freeCtr := s.freeCtr + 1 })

/-- `n` fresh undefined words, oldest first. -/
def State.drawN (s : State) (n : Nat) : List Word × State :=
  ((upFrom s.freeCtr n).map Config.freeWord, { s with freeCtr := s.freeCtr + n })

/-- `n` fresh undefined bytes. -/
def State.drawBytes (s : State) (n : Nat) : List Byte × State :=
  ((upFrom s.freeCtr n).map fun k => (Config.freeWord k).setWidth 8, { s with freeCtr := s.freeCtr + n })

/-! ## Time -/

/-- Microseconds since reset release (Table 13.2). -/
def State.micros (s : State) : Nat := s.now / 8000

/-- Hub cycles since reset release (R444): a hub cycle is 625 ps. -/
def State.hubCycles (s : State) : Nat := s.now / 5

/-! ## The log (R368, R369) -/

/-- Write one record. The ring keeps 8,192 records, newest first. -/
def State.logRec (s : State) (cls sev code : Nat) (a0 a1 : Nat) : State :=
  let r : LogRec := {
    seq := s.spt.logNext, cls := BitVec.ofNat 8 cls, severity := BitVec.ofNat 3 sev, code := BitVec.ofNat 16 code,
    time := BitVec.ofNat 64 s.micros, arg0 := BitVec.ofNat 64 a0, arg1 := BitVec.ofNat 64 a1 }
  let full := 8192 ≤ s.spt.log.length
  let s1 := { s with spt := { s.spt with log := r :: (if full then s.spt.log.take 8191 else s.spt.log),
                                          logNext := s.spt.logNext + 1, logWrapped := s.spt.logWrapped || full } }
  if full && !s.spt.logWrapped then s1.raiseBits (.spt .evt) (mask 4 1) else s1

/-! ## The address map (R33, R34) -/

/-- Where a device address lies. -/
inductive Region where
  | hbm
  | spm (p : Pa) (off : Nat)
  | far (port : Fin 2) (off : Nat)
  | ctl (off : Nat)
  | bridge (dev off : Nat)
  | none
  deriving DecidableEq, Repr

/-- The end of HBM: 864 GiB. -/
def hbmEnd : Nat := 0xD800000000
def spmBase : Nat := 0x020000000000
/-- The populated 12 MiB of an SPM window. -/
def spmSize : Nat := 0xC00000
def farBase : Nat := 0x100000000000
def ctlBase : Nat := 0x3F0000000000
def bridgeBase : Nat := 0x400000000000
/-- A peer's 64 GiB of the Bridge range. -/
def bridgeSize : Nat := 0x1000000000

/-- The address of an offset of a PA's SPM window. -/
def spmAddr (p : Pa) (off : Nat) : Nat := spmBase + p.val * 0x1000000 + off

/-- Capacity of a CXL port in bytes. -/
def cxlBytes (x : CxlPort) : Nat := x.cap.toNat * 0x10000000

/-- R271: the far tier's layout. Interleaving takes both ports mapped. -/
def farRegion (s : State) (o : Nat) : Region :=
  let c0 := s.st.cxl[0]
  let c1 := s.st.cxl[1]
  if s.regBit (.cxl .cfg) 0 && c0.mapped && c1.mapped then
    let m := min (cxlBytes c0) (cxlBytes c1)
    if o < 2 * m then .far (if bit (BitVec.ofNat 64 o) 12 then 1 else 0) (o / 8192 * 4096 + o % 4096) else .none
  else if o < 0x20000000000 then (if c0.mapped && o < cxlBytes c0 then .far 0 o else .none)
  else (if c1.mapped && o - 0x20000000000 < cxlBytes c1 then .far 1 (o - 0x20000000000) else .none)

/-- Table 1.6, without retirement and without the windows of Bridge peers. -/
def region (s : State) (a : Nat) : Region :=
  if a < hbmEnd then .hbm
  else if spmBase ≤ a ∧ a < spmBase + 0x80000000 then
    let o := (a - spmBase) % 0x1000000
    if o < spmSize then .spm (Fin.ofNat 128 ((a - spmBase) / 0x1000000)) o else .none
  else if farBase ≤ a ∧ a < farBase + 0x40000000000 then farRegion s (a - farBase)
  else if ctlBase ≤ a ∧ a < ctlBase + 0x2000000 then .ctl (a - ctlBase)
  else if bridgeBase ≤ a ∧ a < bridgeBase + 256 * bridgeSize then
    .bridge ((a - bridgeBase) / bridgeSize) ((a - bridgeBase) % bridgeSize)
  else .none

/-- R264: the stack of an HBM address, and its unit within the stack. -/
def hbmStack (a : Nat) : Stack := Fin.ofNat 24 (a / 4096 % 24)

def hbmUnit (a : Nat) : Nat := a / 4096 / 24

/-- R256: the hub die of the slice of an HBM address, and the unit within the slice. -/
def hbmHub (a : Nat) : Hub := Fin.ofNat 4 ((hbmStack a).val / 6)

def sliceUnit (a : Nat) : Nat := hbmUnit a * 6 + (hbmStack a).val % 6

/-- The HBM_RET entries with a completed write, as (stack, unit), that retire a unit (R268). -/
def retiredUnits (s : State) : List (Nat × Nat) :=
  s.tpc.stored.filterMap fun e =>
    if 0x100000 ≤ e.1 ∧ e.1 < 0x118000 ∧ 0x100 ≤ e.1 % 0x1000 ∧ e.1 % 0x1000 < 0x300 ∧ bit e.2 24
        ∧ (field e.2 0 24).toNat ≤ 9437183 then
      some ((e.1 - 0x100000) / 0x1000, (field e.2 0 24).toNat)
    else none

/-- Whether some byte of `[a, a + n)` lies in a retired unit. -/
def retired (s : State) (a n : Nat) : Bool :=
  (retiredUnits s).any fun u => overlap a n ((u.2 * 24 + u.1) * 4096) 4096

/-- R34 and R349: `[a, a + n)` lies in a window that a Bridge peer has opened to this device, for reads or writes. -/
def windowOpen (s : State) (dev off n : Nat) (wr : Bool) : Bool :=
  !(bit s.brg.devaddr 8 && dev = (s.brg.devaddr.toNat % 256)) && dev < s.brg.sysCount &&
  s.brg.peers.any fun w => w.owner.toNat = dev && inside off n w.off w.size && (if wr then w.wr else w.rd)

/-- R42 and R34: `[a, a + n)` lies whole in one populated region that data may use; the control range never counts. -/
def populated (s : State) (a n : Nat) (wr : Bool) : Bool :=
  match region s a with
  | .hbm => a + n ≤ hbmEnd && !retired s a n
  | .spm p off => off + n ≤ spmSize && (s.pa p).online
  | .far _ _ =>
    match region s (a + n - 1) with
    | .far _ _ =>
      -- one region: the interleaved range, or one port's range
      (s.regBit (.cxl .cfg) 0 && s.st.cxl[0].mapped && s.st.cxl[1].mapped)
        || decide ((a - farBase) / 0x20000000000 = (a + n - 1 - farBase) / 0x20000000000)
    | _ => n = 0
  | .ctl _ => false
  | .bridge dev off => off + n ≤ bridgeSize && windowOpen s dev off n wr
  | .none => false

/-- R75: `[a, a + n)` lies in the first 12 MiB of the PA's own SPM window. -/
def ownSpm (p : Pa) (a n : Nat) : Bool := inside a n (spmAddr p 0) spmSize

/-! ## Memory -/

def noByte : Nat → Byte := fun _ => 0

/-- Read the bytes of `[a, a + n)`, whatever their error state. -/
def State.bytes (s : State) (a n : Nat) : List Byte := (upFrom a n).map (sget noByte s.mem.bytes)

/-- Read a little-endian number of `n` bytes. -/
def State.num (s : State) (a n : Nat) : Nat := leNat (s.bytes a n)

def State.word (s : State) (a : Nat) : Word := BitVec.ofNat 64 (s.num a 8)

/-- The `n` words from `a`. -/
def State.words (s : State) (a n : Nat) : List Word := (upFrom 0 n).map fun i => s.word (a + i * 8)

/-- The first uncorrectable word or burst that `[a, a + n)` meets. -/
def badAt (s : State) (a n : Nat) : Option Nat :=
  match s.mem.unc.find? (fun u => overlap a n u 8), s.mem.uncBurst.find? (fun u => overlap a n u 32) with
  | some u, some v => some (min u (max a v))
  | some u, none => some u
  | none, some v => some (max a v)
  | none, none => none

/-- Put bytes at an address, in ascending order. -/
def putBytes (m : SMap Byte) : Nat → List Byte → SMap Byte
  | _, [] => m
  | a, b :: r => putBytes (sput noByte m a b) (a + 1) r

/-- R94 and R267: a write clears every uncorrectable word and burst that it covers whole. -/
def Mem.write (m : Mem) (a : Nat) (bs : List Byte) : Mem :=
  { bytes := putBytes m.bytes a bs
    unc := m.unc.filter fun u => !inside u 8 a bs.length
    uncBurst := m.uncBurst.filter fun u => !inside u 32 a bs.length }

/-- R324: a write to a watched word makes its event due. -/
def touchWatches (m : Mem) (a n : Nat) (h : HostIf) : HostIf :=
  { h with sessions := h.sessions.map fun o => o.map fun x =>
      { x with watches := x.watches.map fun w => w.map fun y =>
          if overlap a n y.addr 8 then
            { y with due := some (BitVec.ofNat 64 (leNat ((upFrom y.addr 8).map (sget noByte m.bytes)))) }
          else y } }

/-- Write bytes at their home. -/
def State.write (s : State) (a : Nat) (bs : List Byte) : State :=
  let m := s.mem.write a bs
  { s with mem := m, host := if a < hbmEnd then touchWatches m a bs.length s.host else s.host }

/-- The little-endian bytes of a list of words. -/
def wordBytes : List Word → List Byte
  | [] => []
  | w :: r => leBytes 8 w.toNat ++ wordBytes r

def State.writeWord (s : State) (a : Nat) (v : Word) : State := s.write a (leBytes 8 v.toNat)

/-- Mark the aligned 8-byte word of an address uncorrectable (the check pattern of R251). -/
def State.spoil (s : State) (a : Nat) : State :=
  { s with mem := { s.mem with unc := nins s.mem.unc (floorTo a 8) } }

/-- R94: a read of an SPM word that is uncorrectable. -/
def noteSpmBad (s : State) (p : Pa) (off : Nat) : State :=
  let s1 := s.countSat (.pa p .eccCnt) 32 16 1
  let s2 :=
    if s1.regBit (.pa p .eccAddr) 24 then s1.raiseBits (.pa p .eccAddr) (mask 25 1)
    else s1.setReg (.pa p .eccAddr) ((s1.reg (.pa p .eccAddr) &&& mask 25 1) ||| mask 24 1
            ||| BitVec.ofNat 64 (floorTo off 8))
  s2.logRec 2 2 2 p.val off

/-- R267: an uncorrectable read at a stack; `crc` when its CRC failed twice. -/
def noteHbmBad (s : State) (a : Nat) (crc : Bool) : State :=
  let n := hbmStack a
  let s1 := s.countSat (.hbm n .eccCnt) 48 16 1
  let s2 :=
    if s1.regBit (.hbm n .errAddr) 48 then s1.raiseBits (.hbm n .errAddr) (mask 49 1)
    else s1.setReg (.hbm n .errAddr) ((s1.reg (.hbm n .errAddr) &&& mask 49 1) ||| mask 48 1 ||| bitAt 64 50 crc
            ||| BitVec.ofNat 64 a)
  s2.logRec 4 2 3 n.val a

/-- R273: a failed far-tier read, poisoned or on a down link. -/
def noteFarBad (s : State) (port : Fin 2) (a : Nat) (poison : Bool) : State :=
  let s1 := if poison then s.countSat (.cxl (.err port)) 0 32 1 else s.countSat (.cxl (.err port)) 32 16 1
  let s2 :=
    if s1.regBit (.cxl (.errAddr port)) 48 then s1
    else s1.setReg (.cxl (.errAddr port)) (mask 48 1 ||| BitVec.ofNat 64 a)
  if poison then s2.logRec 5 2 1 port.val a else s2

/-! ## The merge buffer (R95, R96) -/

/-- The mask of `n` bytes from byte `o` of a line. -/
def lineMask (o n : Nat) : BitVec 4096 := BitVec.ofNat 4096 ((2 ^ n - 1) * 2 ^ o)

/-- Whether a byte mask covers only whole 8-byte words: the words whose mask is partial. -/
def partialWords (m : BitVec 4096) : List Nat :=
  (upFrom 0 512).filter fun i => let f := (m.extractLsb' (i * 8) 8).toNat; f ≠ 0 && f ≠ 255

def wholeWords (m : BitVec 4096) : List Nat :=
  (upFrom 0 512).filter fun i => (m.extractLsb' (i * 8) 8).toNat = 255

/-- Whether a narrow write to a line finds room: a hit, or a free entry of the sixteen. -/
def mergeRoom (x : PaState) (line : Nat) : Bool := x.merge.any (·.line = line) || x.merge.length < 16

/-- A request for a port waits from this cycle on (R91, R92); one that waits already keeps its age. -/
def askPort (a : SpmAsk) (x : PaState) : PaState :=
  if x.asks.any (·.ask = a) then x else { x with asks := x.asks ++ [{ ask := a, since := x.cycle }] }

/-- A request waits no longer. -/
def dropAsk (a : SpmAsk) (x : PaState) : PaState := { x with asks := x.asks.filter (·.ask ≠ a) }

/-- R95: the entry of a line drains: it asks for the write port. -/
def drainLine (line : Nat) (x : PaState) : PaState :=
  askPort (.drain line) { x with merge := x.merge.map fun e => if e.line = line then { e with due := true } else e }

/-- The entry of a line leaves the buffer. -/
def dropEntry (line : Nat) (x : PaState) : PaState :=
  dropAsk (.drain line) { x with merge := x.merge.filter (·.line ≠ line) }

/-- The threads whose writes an entry holds, with those of one more write. -/
def addWriter (l : List Thr) (by_ : Option Thr) : List Thr :=
  match by_ with
  | some t => if l.contains t then l else t :: l
  | none => l

/-- R95: a write of part of a line, by a thread of the PA or by a remote writer, enters the buffer: a hit merges its mask,
a miss takes an entry; an entry that is full drains. -/
def mergeInsert (by_ : Option Thr) (line : Nat) (m : BitVec 4096) (x : PaState) : PaState :=
  let old := match x.merge.find? (·.line = line) with
    | some e => e.mask
    | none => 0
  let x1 := if x.merge.any (·.line = line) then
      { x with merge := x.merge.map fun e => if e.line = line then
          { e with mask := e.mask ||| m, writers := addWriter e.writers by_, last := x.cycle } else e }
    else { x with merge := x.merge ++ [{ line := line, mask := m, writers := addWriter [] by_, last := x.cycle }] }
  if old ||| m = BitVec.allOnes 4096 then drainLine line x1 else x1

/-- R95, R96: what a write of bytes `m` of a line makes of the buffer: a whole line discards its entry. -/
def mergeLine (by_ : Option Thr) (line : Nat) (m : BitVec 4096) (x : PaState) : PaState :=
  if m = BitVec.allOnes 4096 then dropEntry line x else mergeInsert by_ line m x

/-- R95: when a new line needs an entry and none is free, the oldest drains. -/
def forceOldest (x : PaState) : PaState :=
  match x.merge with
  | [] => x
  | e :: _ => if x.merge.any (·.due) then x else drainLine e.line x

/-- R92: a write to a word discards a write-back that waits for it. -/
def dropCorrections (off n : Nat) (x : PaState) : PaState :=
  { x with asks := x.asks.filter fun r => match r.ask with
    | .correct w => !overlap (8 * w) 8 off n
    | _ => true }

/-- Split `[off, off + n)` at line boundaries. -/
def splitLines (fuel off n : Nat) : List (Nat × Nat) :=
  match fuel with
  | 0 => []
  | f + 1 =>
    if n = 0 then [] else
      let k := min n (4096 - off % 4096)
      (off, k) :: splitLines f (off + k) (n - k)

/-- The lines that `[off, off + n)` touches. -/
def linesOf (off n : Nat) : List (Nat × Nat) := splitLines (n / 4096 + 2) off n

/-- The merge buffer's part of a write of `[off, off + n)` to an SPM. -/
def mergeWrite (by_ : Option Thr) (x : PaState) (off n : Nat) : PaState :=
  (linesOf off n).foldl (fun y e => mergeLine by_ (e.1 / 4096) (lineMask (e.1 % 4096) e.2) y) x

/-- R248: a write to a line invalidates the source reuse entries of that line. -/
def dropReuse (x : PaState) (off n : Nat) : PaState :=
  { x with bow := { x.bow with reuse := x.bow.reuse.filter fun e => !overlap off n (e.1 * 4096) 4096 } }

/-- R248: a store of the PA to a source unit invalidates the entries of that unit. -/
def dropReuseSource (x : PaState) (a n : Nat) : PaState :=
  { x with bow := { x.bow with reuse := x.bow.reuse.filter fun e => !overlap a n (e.2 * 4096) 4096 } }

/-- What a write of `[off, off + n)` of an SPM makes of the corrections that wait and of the source reuse table. -/
def noteWritten (off n : Nat) (x : PaState) : PaState := dropCorrections off n (dropReuse x off n)

/-- A write to an SPM: its bytes, the merge buffer, the source reuse table and the corrections that wait. -/
def writeSpm (s : State) (p : Pa) (off : Nat) (bs : List Byte) (by_ : Option Thr := none) : State :=
  (s.write (spmAddr p off) bs).modPa p fun x => noteWritten off bs.length (mergeWrite by_ x off bs.length)

/-- Write bytes at any address: an SPM takes them through its merge buffer. -/
def State.store (s : State) (a : Nat) (bs : List Byte) (by_ : Option Thr := none) : State :=
  match region s a with
  | .spm p off => writeSpm s p off bs by_
  | _ => s.write a bs

/-! ## The modulus table (R45 to R48) -/

/-- C, K, base_limbs, limbs per level (Table 2.11). -/
def modC (s : State) : Nat := (field s.rp.modcfg 0 7).toNat
def modK (s : State) : Nat := (field s.rp.modcfg 8 7).toNat
def baseLimbs (s : State) : Nat := (field s.rp.modcfg 16 7).toNat
def modLpl (s : State) : Nat := if bit s.rp.modcfg 23 then 2 else 1

/-- Entry `i`: (q, psi, lgn_max); nothing when it is invalid. -/
def modEntry (s : State) (i : Nat) : Option (Nat × Nat × Nat) := if i < 64 then s.rp.modTab[i]? else none

def modQ (s : State) (i : Nat) : Nat := match modEntry s i with | some e => e.1 | none => 0

/-! ## Descriptor fields (R49) -/

def dBase (d : Desc) : Nat := (field d 0 48).toNat
def dLgn (d : Desc) : Nat := (field d 48 4).toNat
/-- The limb count k. -/
def dLimbs (d : Desc) : Nat := (field d 52 6).toNat + 1
def dLevel (d : Desc) : Nat := (field d 58 6).toNat
def dScheme (d : Desc) : Nat := (field d 64 3).toNat
/-- Evaluation form. -/
def dEval (d : Desc) : Bool := bit d 67
def dTag (d : Desc) : BitVec 48 := field d 68 48
/-- Q8.4. -/
def dScale (d : Desc) : Nat := (field d 116 12).toNat
/-- Q8.8. -/
def dNoise (d : Desc) : Nat := (field d 128 16).toNat
def dPoisoned (d : Desc) : Bool := bit d 144
def dUnreliable (d : Desc) : Bool := bit d 145
def dRsvd (d : Desc) : Nat := (field d 146 110).toNat
/-- The ring dimension N. -/
def dN (d : Desc) : Nat := 2 ^ (12 + dLgn d)
/-- R53: tag 0 marks a plaintext. -/
def dPlain (d : Desc) : Bool := dTag d = 0

/-- R66, R67: the poisoned bit set, the other fields kept. -/
def poison (d : Desc) : Desc := d ||| BitVec.ofNat 256 (2 ^ 144)

def gswDigits (s : State) : Nat := (field s.rp.modcfg 24 4).toNat

/-- R41: the footprint of an object in bytes. -/
def objBytes (s : State) (d : Desc) : Nat :=
  if dPlain d then dLimbs d * dN d * 8
  else if dScheme d = 3 then dLimbs d * (dN d + 512) * 8
  else if dScheme d = 4 then 2 * gswDigits s * 2 * dLimbs d * dN d * 8
  else 2 * dLimbs d * dN d * 8

/-- The destination of an operation holds undefined bytes. What a peer's window holds is no part of this state. -/
def State.scramble (s : State) (a n : Nat) : State :=
  let (bs, s1) := s.drawBytes n
  match region s a with
  | .spm p off => (s1.write a bs).modPa p (noteWritten off n)
  | .hbm => s1.write a bs
  | .far _ _ => s1.write a bs
  | _ => s

/-- The destination of an access that was aborted holds undefined bytes; a word that is uncorrectable stays so. -/
def State.cloud (s : State) (a n : Nat) : State :=
  let s1 := s.scramble a n
  { s1 with mem := { s1.mem with unc := s.mem.unc, uncBurst := s.mem.uncBurst } }

/-! ## Registers of a thread (R108) -/

/-- s0 reads zero. -/
def Thread.rs (y : Thread) (i : Nat) : Word := if i = 0 then 0 else y.s.toArray.getD i 0

def Thread.ra (y : Thread) (i : Nat) : Word := y.a.toArray.getD i 0

def Thread.rc (y : Thread) (i : Nat) : Desc := y.c.toArray.getD i 0

/-- m0 reads all ones. -/
def Thread.rm (y : Thread) (i : Nat) : Word := if i = 0 then BitVec.allOnes 64 else y.m.toArray.getD i 0

/-- Writes to s0 are discarded. -/
def Thread.ws (y : Thread) (i : Nat) (v : Word) : Thread :=
  if i = 0 then y else { y with s := y.s.setIfInBounds i v }

def Thread.wa (y : Thread) (i : Nat) (v : Word) : Thread := { y with a := y.a.setIfInBounds i v }

def Thread.wc (y : Thread) (i : Nat) (v : Desc) : Thread := { y with c := y.c.setIfInBounds i v }

/-- Writes to m0 are discarded. -/
def Thread.wm (y : Thread) (i : Nat) (v : Word) : Thread :=
  if i = 0 then y else { y with m := y.m.setIfInBounds i v }

def State.ws (s : State) (p : Pa) (t : Thr) (i : Nat) (v : Word) : State := s.modThr p t fun y => y.ws i v

def fs (i : Nat) : Fin 32 := Fin.ofNat 32 i
def fa (i : Nat) : Fin 16 := Fin.ofNat 16 i

/-! ## Overtone (R434 to R440) -/

/-- R440: a 48-bit counter with its sticky ovf bit. -/
def addCtr (v : Word) (n : Nat) : Word :=
  let c := (field v 0 48).toNat + n
  BitVec.ofNat 64 (c % 2 ^ 48) ||| bitAt 64 48 (bit v 48 || 2 ^ 48 ≤ c)

/-- R446: OVT_CYCLE has 63 bits. -/
def addCycle (v : Word) (n : Nat) : Word :=
  let c := (field v 0 63).toNat + n
  BitVec.ofNat 64 (c % 2 ^ 63) ||| bitAt 64 63 (bit v 63 || 2 ^ 63 ≤ c)

/-- An event of Table 16.3 with what its filters look at (R439). -/
structure OvtEvent where
  code : Nat
  amount : Nat
  arg : Nat := 0
  thr : Option Thr := none
  handler : Option Bool := none
  master : Option Nat := none
  cls : Option StreamClass := none
  addr : Option Nat := none
  deriving DecidableEq, Repr

/-- Bit of OVT_EVSEL.class. -/
def classBit : StreamClass → Nat
  | .key => 0 | .ciphertext => 1 | .plaintext => 2 | .scratch => 3

/-- A mask field of 0 acts as all ones. -/
def maskHas (m i : Nat) : Bool := m = 0 || m.testBit i

/-- R439: whether an event passes the filters of a counter. -/
def eventPasses (sel abase alim : Word) (e : OvtEvent) : Bool :=
  (field sel 0 8).toNat = e.code
  && (e.code ≠ 0x08 && e.code ≠ 0x0B || (field sel 8 8).toNat = 0 || (field sel 8 8).toNat = e.arg)
  && (match e.thr with | some t => maskHas (field sel 16 8).toNat t.val | none => true)
  && (match e.handler with | some h => maskHas (field sel 24 2).toNat (if h then 1 else 0) | none => true)
  && (match e.master with | some m => maskHas (field sel 26 4).toNat m | none => true)
  && (match e.cls with | some c => maskHas (field sel 30 4).toNat (classBit c) | none => true)
  && (match e.addr with
      | some a => !bit sel 34 || ((field abase 12 36).toNat ≤ a / 4096 && a / 4096 ≤ (field alim 12 36).toNat)
      | none => true)

/-- Count an event in every programmable counter of a PA that selects it. -/
def State.event (s : State) (p : Pa) (e : OvtEvent) : State :=
  if s.regBit (.pa p .ovtCtl) 0 then
    (List.finRange 8).foldl (fun s i =>
      if eventPasses (s.reg (.pa p (.ovtEvsel i))) (s.reg (.pa p (.ovtAbase i))) (s.reg (.pa p (.ovtAlim i))) e then
        s.setReg (.pa p (.ovtCnt i)) (addCtr (s.reg (.pa p (.ovtCnt i))) e.amount)
      else s) s
  else s

/-- R443, R447: a package port's byte counts. Direction 0 is in, 1 is out. -/
def State.portBytes (s : State) (port : Fin 76) (out : Bool) (n : Nat) : State :=
  let w : Fin 8 := if out then 1 else 0
  let s1 := s.setReg (.ovt (.port port w)) (addCtr (s.reg (.ovt (.port port w))) n)
  let k := port.val * 2 + w.val
  if s1.hubCycles < s1.ovt.start then s1
  else { s1 with ovt := { s1.ovt with
    window := sput (fun _ => 0) s1.ovt.window k (sget (fun _ => 0) s1.ovt.window k + n) } }

/-- R12: what a write makes of the value that the control range holds: RW bits are replaced, W1C bits cleared. -/
def codeWrite (c : RegSpec) (old v : Word) : Word := (old &&& ~~~ c.rw &&& ~~~ (c.w1c &&& v)) ||| (v &&& c.rw)

/-- RW bits take the value, W1C bits clear. -/
def plainWrite (s : State) (r : Reg) (v : Word) : State := s.setReg r (codeWrite r.spec (s.reg r) v)

end Sys2Proof.Machine
end

