-- ==== Sys2Proof/Machine/Events.lean ====
section
/-! DEFINITION. What the device sends to its sessions on its own: events, and the end of a session. -/

namespace Sys2Proof.Machine

def State.sess (s : State) (k : Fin 16) : Option Session := s.host.sessions[k.val]

def State.setSess (s : State) (k : Fin 16) (x : Option Session) : State :=
  { s with host := { s.host with sessions := s.host.sessions.set k.val x } }

/-- The port of a session slot (Table 11.10). -/
def slotPort (k : Fin 16) : EPort := if k.val < 8 then 0 else 1

/-- R444: an Ethernet port sends a protected datagram, whose body has `n` bytes: two headers of 16 bytes and the tag
go with it. -/
def State.ethOut (s : State) (e : EPort) (n : Nat) : State :=
  if s.host.eth[e.val].linkUp then s.portBytes (Fin.ofNat 76 e.val) true (48 + n) else s

/-- Bytes of one number. -/
def byte1 (n : Nat) : List Byte := [BitVec.ofNat 8 n]

def bytes2 (n : Nat) : List Byte := leBytes 2 n

/-- args of an event, zero-padded to 32 bytes (Table 11.8). -/
def padArgs (l : List Byte) : List Byte := l ++ List.replicate (32 - l.length) 0

/-- A field of HIF_PORT_CFG, by completed writes (R333). -/
def portCfg (s : State) (e : EPort) (lo len : Nat) : Nat := s.rwpField (.hif (.portCfg e)) lo len

/-- How a frame to a host leaves a port: with the 802.1Q tag that vlan_en asks for, and protected once the port has a MACsec
key (R307, R309). -/
def destAt (s : State) (e : EPort) (p : Peer) : Dest where
  peer := p
  vlan := if portCfg s e 1 1 = 1 then some (BitVec.ofNat 12 (portCfg s e 2 12)) else none
  macsec := s.host.eth[e.val].macsec.isSome

/-- A session sends one message with a body of `n` bytes under its next seq, as long as it has one (R310). -/
def tellAt (s : State) (k : Fin 16) (p : Peer) (n : Nat) (mk : Dest → BitVec 32 → Nat → OutMsg) : State :=
  match s.sess k with
  | some x =>
    if x.tx < 2 ^ 40 then
      ((s.setSess k (some { x with tx := x.tx + 1 })).emit (mk (destAt s (slotPort k) p) x.sid x.tx)).ethOut (slotPort k) n
    else s
  | none => s

/-- A message that answers no request goes where the session's FINISH came from (DESIGN CHOICE, log entry 81). -/
def tellRaw (s : State) (k : Fin 16) (n : Nat) (mk : Dest → BitVec 32 → Nat → OutMsg) : State :=
  match s.sess k with
  | some x => tellAt s k x.peer n mk
  | none => s

/-- R324: send a session one event. With 64 unacknowledged, the oldest is discarded and this one carries bit 15. -/
def eventRaw (s : State) (k : Fin 16) (code : Nat) (args : List Byte) : State :=
  match s.sess k with
  | none => s
  | some x =>
    let full := 64 ≤ x.events.length
    let e : Event := { eseq := x.eseq, code := BitVec.ofNat 16 (code + if full then 0x8000 else 0), args := padArgs args }
    let kept := if full then x.events.drop (x.events.length - 63) else x.events
    tellRaw (s.setSess k (some { x with events := kept ++ [e], eseq := x.eseq + 1 })) k 40 fun d sid seq => .event d sid seq e

/-- The slots of the open control sessions. -/
def controlSlots (s : State) : List (Fin 16) :=
  (List.finRange 16).filter fun k => match s.sess k with | some x => x.control | none => false

/-! ## Peg cells (R327 to R331) -/

/-- The owner code of a port's control session. -/
def portOwner (e : EPort) : Nat := e.val + 1

def pegOwner (w : Word) : Nat := (field w 0 2).toNat

/-- A cell with no owner, abandoned, its gen kept. -/
def pegAbandon (w : Word) : Word := (w &&& mask 16 32) ||| 4

/-- R330: every cell a port's control session owns is abandoned, and the other control session hears of it. -/
def abandonCells (s : State) (e : EPort) : State :=
  (List.finRange 64).foldl (fun s i =>
    let w := s.host.peg[i.val]
    if pegOwner w = portOwner e then
      let s1 := { s with host := { s.host with peg := s.host.peg.set i.val (pegAbandon w) } }
      (controlSlots s1).foldl (fun s k => eventRaw s k 3 (byte1 i.val ++ byte1 0 ++ byte1 (portOwner e)))
        (s1.raiseBits (.peg .evt) (mask i.val 1))
    else s) s

/-- R326: an export bound to a session slot returns to open. -/
def unbind (k : Nat) (e : Export) : Export :=
  if e.bound == some k then { e with bound := none, answer := none, covered := [] } else e

/-- R326: the exports that a session had bound return to open, and their answer's place holds undefined data. -/
def unbindAll (s : State) (k : Fin 16) : State :=
  let lost := s.rp.exports.filterMap fun e =>
    if e.bound == some k.val then e.answer.map fun d => (e.ab, objBytes s d) else none
  let s1 := { s with rp := { s.rp with exports := s.rp.exports.map (unbind k.val) } }
  lost.foldl (fun s x => s.scramble x.1 x.2) s1

/-- R315: the requests that an ended session had accepted still complete. -/
def keepEnded (s : State) (e : EPort) (x : Session) : State :=
  if x.busy = [] then s else { s with host := { s.host with ended := s.host.ended ++ [(e, x)] } }

/-- R315: a session ends, by CLOSE or otherwise. -/
def endSession (s : State) (k : Fin 16) (byClose : Bool) : State :=
  match s.sess k with
  | none => s
  | some x =>
    let s1 := keepEnded (s.setSess k none) (slotPort k) x
    let s2 := unbindAll s1 k
    -- R420: the port states no tolerance any more
    let s3 := if x.control then abandonCells (s2.setReg (.capo (.tol (slotPort k))) 0xFFFFFFFF) (slotPort k) else s2
    let s4 := if byClose then s3 else s3.raiseBits (.hif .evt) (mask (1 + (slotPort k).val) 1)
    let s5 := s4.logRec 8 0 3 (slotPort k).val x.sid.toNat
    (List.finRange 16).foldl
      (fun s j => eventRaw s j 4 (byte1 (slotPort k).val ++ byte1 (if x.control then 1 else 2) ++ byte1 1)) s5

/-- R310 and R315: a session ends whose seq is exhausted in either direction. -/
def endSpent (s : State) (k : Fin 16) : State :=
  match s.sess k with
  | some x => if 2 ^ 40 ≤ x.tx ∨ 2 ^ 40 ≤ x.top + 1 ∧ x.seen ≠ [] then endSession s k false else s
  | none => s

def sweepSessions (s : State) : State := (List.finRange 16).foldl endSpent s

/-! ## What the device sends -/

/-- Send a session one message that is no response, with a body of `n` bytes. -/
def tellSession (s : State) (k : Fin 16) (n : Nat) (mk : Dest → BitVec 32 → Nat → OutMsg) : State := endSpent (tellRaw s k n mk) k

/-- Send a session one event. -/
def sendEvent (s : State) (k : Fin 16) (code : Nat) (args : List Byte) : State := endSpent (eventRaw s k code args) k

/-- An event to every session. -/
def sendAll (s : State) (code : Nat) (args : List Byte) : State :=
  (List.finRange 16).foldl (fun s k => sendEvent s k code args) s

/-- An event to every control session. -/
def sendControl (s : State) (code : Nat) (args : List Byte) : State :=
  (controlSlots s).foldl (fun s k => sendEvent s k code args) s

/-- R324 and Table 11.8: an export has ended. -/
def exportEnded (s : State) (chan : BitVec 8) (how : Nat) : State :=
  sendControl s 5 (byte1 chan.toNat ++ byte1 how)

end Sys2Proof.Machine
end

