-- ==== Sys2Proof/Machine/Ports.lean ====
section
/-! DEFINITION. The ports and banks of an SPM (R89, R91, R92): the element groups that instructions in flight read and
write, the requests that wait, and which of them a cycle grants. -/

namespace Sys2Proof.Machine

/-- R89: the bank of a line. -/
def spmBank (line : Nat) : Nat := (line % 16) ^^^ (line / 16 % 16) ^^^ (line / 256 % 16)

/-! ## Element groups -/

/-- The lines of the own SPM that a list of resources names, resource by resource. -/
def resLines : List Res → List (List Nat)
  | [] => []
  | .spm lo hi :: r => (linesOf lo (hi - lo)).map (·.1 / 4096) :: resLines r
  | _ :: r => resLines r

/-- The members of a list at even places, and at odd ones. -/
def evens {α : Type} : List α → List α
  | [] => []
  | [a] => [a]
  | a :: _ :: r => a :: evens r

/-- The lines that an instruction's groups ask of a port, in order: the first operand streams over read port 0 and the
second over read port 1 (log entry 62). -/
def Op.stream (o : Op) : SpmPort → List Nat
  | .read0 => (evens (resLines o.uses)).flatten
  | .read1 => (evens ((resLines o.uses).drop 1)).flatten
  | .write => (resLines o.defs).flatten

/-- How many of them have been granted. -/
def Op.done (o : Op) : SpmPort → Nat
  | .read0 => o.got0
  | .read1 => o.got1
  | .write => o.put

/-- The line that the instruction asks of a port in this cycle. -/
def Op.asks (o : Op) (k : SpmPort) : Option Nat := (o.stream k)[o.done k]?

/-- The instruction after a grant on a port. -/
def Op.grant (o : Op) : SpmPort → Op
  | .read0 => { o with got0 := o.got0 + 1 }
  | .read1 => { o with got1 := o.got1 + 1 }
  | .write => { o with put := o.put + 1 }

/-! ## What a cycle grants (R91, Table 3.6) -/

/-- The engines, highest priority first. -/
def engines : List FUnit := [.cells, .veu, .stu]

/-- The instruction of an engine that asks a port, and the line that it asks. -/
def unitAsk (x : PaState) (k : SpmPort) (u : FUnit) : Option (Nat × Nat) :=
  x.ops.findSome? fun o => if o.unit = u then (o.asks k).map fun l => (o.id, l) else none

/-- The engine that a port would grant. -/
def engineAsk (x : PaState) (k : SpmPort) : Option (Nat × Nat) := engines.findSome? (unitAsk x k)

/-- The line that another request has taken on a port in this cycle. -/
def taken (x : PaState) (k : SpmPort) : Option Nat := (x.grants.find? (·.1 = k)).map (·.2)

/-- The line that a port grants in this cycle, so far as engines and requests have asked. -/
def portLine (x : PaState) (k : SpmPort) : Option Nat := taken x k <|> (engineAsk x k).map (·.2)

/-- Ports whose grant wins a bank over one on this port. -/
def stronger : SpmPort → List SpmPort
  | .write => []
  | .read0 => [.write]
  | .read1 => [.write, .read0]

/-- R91: a grant on port `k` of a line loses its bank to a grant on a stronger port. -/
def bankLost (x : PaState) (k : SpmPort) (line : Nat) : Bool :=
  (stronger k).any fun j => (portLine x j).any fun l => spmBank l = spmBank line

/-- The ports that an engine's instruction asks in this cycle and is refused: another request holds the port, or a bank is
lost. -/
def Op.refused (x : PaState) (o : Op) : List SpmPort :=
  [SpmPort.read0, .read1, .write].filter fun k => match o.asks k with
    | none => false
    | some l => engineAsk x k ≠ some (o.id, l) || (taken x k).isSome || bankLost x k l

/-- Threads with an element group that loses in this cycle (R91). -/
def losers (x : PaState) : List Thr := (x.ops.filter fun o => engines.contains o.unit && o.refused x ≠ []).map (·.thr)

/-- The instruction after this cycle: every group that was granted has moved on. -/
def Op.streamed (x : PaState) (o : Op) : Op :=
  if engines.contains o.unit then
    let no := o.refused x
    [SpmPort.read0, .read1, .write].foldl (fun p k => if no.contains k then p else p.grant k) o
  else o

/-- A cycle ends: groups move on, and the ports are free again. -/
def portCycle (x : PaState) : PaState := { x with ops := x.ops.map (·.streamed x), grants := [] }

/-! ## The other requests -/

/-- The priority of Table 3.6, of a request that is no engine's. -/
def SpmAsk.priority : SpmAsk → Nat
  | .drain _ => 5
  | .correct _ => 5
  | .egress _ => 5
  | .remote _ _ _ => 6

/-- A request that reads. -/
def SpmAsk.reads : SpmAsk → Bool
  | .egress _ => true
  | .remote _ _ _ => true
  | _ => false

/-- A waiting request has been raised (R92). -/
def raisedAsk (x : PaState) (a : SpmAsk) : Bool := x.asks.any fun r => r.ask = a && r.raised

/-- Requests that wait for a read port before this one: those of a higher priority. -/
def readersBefore (x : PaState) (a : SpmAsk) : Nat :=
  (x.asks.filter fun r => r.ask.reads && r.ask ≠ a && (if r.raised then 1 else r.ask.priority) < a.priority).length

/-- R91: a port takes a request for a line in this cycle: no other request has the port, no engine asks it but a raised
request's, and no stronger port has its bank. -/
def portFree (x : PaState) (k : SpmPort) (line : Nat) (raised : Bool) : Bool :=
  (taken x k).isNone && (raised || (engineAsk x k).isNone) && !bankLost x k line

/-- The read port that takes a request, if one does. -/
def readPort (x : PaState) (line : Nat) (raised : Bool) (before : Nat) : Option SpmPort :=
  (([SpmPort.read0, .read1].filter fun k => portFree x k line raised).drop (if raised then 0 else before)).head?

/-- Take a port in this cycle. -/
def takePort (k : SpmPort) (line : Nat) (x : PaState) : PaState := { x with grants := x.grants ++ [(k, line)] }

/-- A waiting request for a line by a read port: the PA after its grant, or the PA in which it waits on. -/
def askRead (a : SpmAsk) (line : Nat) (x : PaState) : Option PaState × PaState :=
  match readPort x line (raisedAsk x a) (readersBefore x a) with
  | some k => (some (dropAsk a (takePort k line x)), x)
  | none => (none, askPort a x)

/-- PA_SPM_CFG.guard: values below 8 act as 8. -/
def guardCycles (s : State) (p : Pa) : Nat := max 8 (s.regField (.pa p .spmCfg) 16 8)

/-- R92: waiting request `n` has waited its guard cycles, and takes priority 1 for its next attempt. -/
def raiseAsk (guard n : Nat) (x : PaState) : PaState :=
  { x with asks := modifyAt (fun r => if guard + r.since ≤ x.cycle then { r with raised := true } else r) x.asks n }

end Sys2Proof.Machine
end

