-- ==== Sys2Proof/Machine/Mesh.lean ====
section
/-! DEFINITION. The Fretboard's mesh (R278 to R281, R293, R297, R299 to R303): places and routes, arbiters, and packets on
their way. -/

namespace Sys2Proof.Machine

/-! ## Places and routes (R21, R22, R280) -/

/-- The column of a PA. -/
def meshX (p : Pa) : Nat := 4 * (p.val / 16 % 4) + p.val % 16 % 4

/-- The row of a PA. -/
def meshY (p : Pa) : Nat := 4 * (p.val / 16 / 4) + p.val % 16 / 4

/-- Router 16y + x. -/
def routerAt (x y : Nat) : Fin 128 := Fin.ofNat 128 (16 * y + x)

/-- The hops from (x, y) to the router of (tx, ty), the row first for an XY route and the column first for a YX one,
without the last router's own output. -/
def walk (fuel x y tx ty : Nat) (yx : Bool) : List Hop :=
  match fuel with
  | 0 => []
  | f + 1 =>
    if x ≠ tx ∧ (!yx ∨ y = ty) then
      { router := routerAt x y, out := if x < tx then 2 else 4 } :: walk f (if x < tx then x + 1 else x - 1) y tx ty yx
    else if y ≠ ty then
      { router := routerAt x y, out := if y < ty then 3 else 1 } :: walk f x (if y < ty then y + 1 else y - 1) tx ty yx
    else []

/-- The hops from one PA to another, the last router's local output included; none to itself. -/
def paPath (p q : Pa) (yx : Bool) : List Hop :=
  if p = q then []
  else walk 24 (meshX p) (meshY p) (meshX q) (meshY q) yx ++ [{ router := routerAt (meshX q) (meshY q), out := 0 }]

/-- The edge row of a hub die, and its first column. -/
def hubRow (h : Hub) : Nat := if h.val < 2 then 0 else 7
def hubCol (h : Hub) : Nat := 8 * (h.val % 2)

/-- The column by which a PA reaches a hub die: its own, clamped to the die's range. -/
def stopCol (p : Pa) (h : Hub) : Nat := max (hubCol h) (min (hubCol h + 7) (meshX p))

/-- Stop 8h + column within the die's range. -/
def stopOf (h : Hub) (x : Nat) : Fin 32 := Fin.ofNat 32 (8 * h.val + (x - hubCol h))

/-- The hops from a PA out of a stop of a hub die. -/
def hubPath (p : Pa) (h : Hub) : List Hop :=
  walk 24 (meshX p) (meshY p) (stopCol p h) (hubRow h) false
    ++ [{ router := routerAt (stopCol p h) (hubRow h), out := if h.val < 2 then 1 else 3 }]

/-- The hops from that stop back to the PA. -/
def hubBack (p : Pa) (h : Hub) : List Hop :=
  walk 24 (stopCol p h) (hubRow h) (meshX p) (meshY p) false ++ [{ router := routerAt (meshX p) (meshY p), out := 0 }]

/-- The flits of a packet that carries `n` bytes: a request or an acknowledgement without data is one. -/
def flitsOf (n : Nat) : Nat := max 1 (ceilDiv n 512)

/-! ## Arbiters (R299 to R301) -/

/-- The key of an arbiter's own state. -/
def arbKey : Arb → Nat
  | .router r o => r.val * 5 + o.val
  | .stop k => 1000 + k.val

def arbFrozen (s : State) (a : Arb) : Bool :=
  match sget (fun _ => none) s.net.arbs (arbKey a) with
  | some x => x.frozen
  | none => false

/-- The freeze bit's register. -/
def freezeReg : Arb → Reg
  | .router r o => .frb (.rctl r o)
  | .stop k => .frb (.hctl k)

/-- The weights of an arbiter's requesters, in units per window. -/
def arbWeights (s : State) : Arb → List Nat
  | .router r o => (upFrom 0 5).map fun i => s.regField (.frb (.rw r o)) (10 * i) 10
  | .stop k => (upFrom 0 8).map fun i => 4 * s.regField (.frb (.hw k)) (8 * i) 8

/-- The priorities of an arbiter's requesters. -/
def arbPrios (s : State) : Arb → List Nat
  | .router r o => (upFrom 0 5).map fun i => s.regField (.frb (.rp r o)) (2 * i) 2
  | .stop k => (upFrom 0 8).map fun i => s.regField (.frb (.hp k)) (2 * i) 2

def noArb : Nat → Option Arbiter := fun _ => none

/-- An arbiter's credits and last winner; one with nothing listed has its credits whole. -/
def arbState (s : State) (a : Arb) : Arbiter :=
  match sget noArb s.net.arbs (arbKey a) with
  | some x => x
  | none => { credit := arbWeights s a }

def setArb (s : State) (a : Arb) (x : Arbiter) : State :=
  { s with net := { s.net with arbs := sput noArb s.net.arbs (arbKey a) (some x) } }

/-- The requester with the largest credit, the lowest index on a tie. -/
def mostCredit (credit : List Nat) : List Nat → Option Nat
  | [] => none
  | r :: l => match mostCredit credit l with
    | none => some r
    | some m => if credit.getD m 0 ≤ credit.getD r 0 then some r else some m

/-- R300: which of the candidates, in rising order, an arbiter grants. -/
def arbWinner (prio credit : List Nat) (last : Nat) (cand : List Nat) : Option Nat :=
  let top := cand.foldl (fun m r => max m (prio.getD r 0)) 0
  let best := cand.filter fun r => prio.getD r 0 = top
  match mostCredit credit (best.filter fun r => 0 < credit.getD r 0) with
  | some w => some w
  | none => best.find? (last < ·) <|> best.head?

/-- The arbiter whose state a key holds. -/
def arbOfKey (k : Nat) : Arb := if k < 1000 then .router (Fin.ofNat 128 (k / 5)) (Fin.ofNat 5 (k % 5)) else .stop (Fin.ofNat 32 (k - 1000))

/-- R300: at a window start every arbiter of the domain reloads its credits from the weights. -/
def reloadCredits (hub : Bool) (s : State) : State :=
  let f := fun (e : Nat × Option Arbiter) =>
    if decide (1000 ≤ e.1) = hub then (e.1, e.2.map fun x => { x with credit := arbWeights s (arbOfKey e.1) }) else e
  { s with net := { s.net with arbs := s.net.arbs.map f } }

/-- R301: a write to a weight does not change credits, so an arbiter that has them whole keeps them. -/
def holdCredits (s : State) (a : Arb) : State := setArb s a (arbState s a)

/-! ## Excluded links (R408) -/

/-- The router at the other end of an output's link; none where the output leads to a hub stop or off the mesh. -/
def linkEnd (r : Fin 128) (o : Nat) : Option (Fin 128) :=
  let x := r.val % 16
  let y := r.val / 16
  match o with
  | 1 => if 0 < y then some (routerAt x (y - 1)) else none
  | 2 => if x < 15 then some (routerAt (x + 1) y) else none
  | 3 => if y < 7 then some (routerAt x (y + 1)) else none
  | 4 => if 0 < x then some (routerAt (x - 1) y) else none
  | _ => none

/-- The output that leads back. -/
def outBack : Fin 5 → Fin 5
  | 0 => 0 | 1 => 3 | 2 => 4 | 3 => 1 | 4 => 2

/-- The link of an output is excluded, by either of its ends. -/
def linkOut (s : State) (r : Fin 128) (o : Fin 5) : Bool :=
  s.net.excl.contains (r.val, o.val) ||
  match linkEnd r o.val with
  | some q => s.net.excl.contains (q.val, (outBack o).val)
  | none => false

/-- The neighbour of place `i`, of the places `lo` to `hi`, that a detour takes. -/
def aside (low : Bool) (lo hi i : Nat) : Nat := if i = lo ∨ (!low ∧ i < hi) then i + 1 else i - 1

/-- A hop over an excluded link goes one row or column aside; a hop to a hub stop takes the neighbouring stop. -/
def detour (s : State) (h : Hop) : List Hop :=
  if h.out = 0 || !linkOut s h.router h.out then [h]
  else
    let x := h.router.val % 16
    let y := h.router.val / 16
    let low := Config.detourLow h.router.val h.out.val
    if h.out = 2 ∨ h.out = 4 then
      let y2 := aside low 0 7 y
      let go : Fin 5 := if y < y2 then 3 else 1
      let x2 := if h.out = 2 then x + 1 else x - 1
      [{ router := h.router, out := go }, { router := routerAt x y2, out := h.out },
        { router := routerAt x2 y2, out := outBack go }]
    else
      let lo := if (linkEnd h.router h.out.val).isNone then floorTo x 8 else 0
      let x2 := aside low lo (if (linkEnd h.router h.out.val).isNone then lo + 7 else 15) x
      let go : Fin 5 := if x < x2 then 2 else 4
      let first : List Hop := [{ router := h.router, out := go }, { router := routerAt x2 y, out := h.out }]
      match linkEnd h.router h.out.val with
      | none => first
      | some q => first ++ [{ router := routerAt x2 (q.val / 16), out := outBack go }]

/-! ## Links (R445) -/

/-- The input by which a packet enters the router that an output leads to. -/
def oppositePort : Fin 5 → Fin 5
  | 0 => 0 | 1 => 3 | 2 => 4 | 3 => 1 | 4 => 2

/-- R445: the router sends flits on a link. -/
def countLink (s : State) (h : Hop) (flits : Nat) : State :=
  if h.out = 0 then s
  else
    let r := Reg.ovt (.link h.router (Fin.ofNat 4 (h.out.val - 1)))
    s.setReg r (addCtr (s.reg r) flits)

/-! ## Packets (R278 to R281) -/

/-- The compute die on which a router lies. -/
def routerDie (r : Fin 128) : Nat := r.val / 16 / 4 * 4 + r.val % 16 / 4

/-- The router beside a hub stop. -/
def stopRouter (k : Fin 32) : Fin 128 :=
  let h : Hub := Fin.ofNat 4 (k.val / 8)
  routerAt (hubCol h + k.val % 8) (hubRow h)

/-- The clocks of an arbiter's domain, and of the domain that it takes from, run: a domain whose PLL has lost lock accepts and
delivers nothing (R32). -/
def arbClocked (s : State) : Arb → Bool
  | .router r _ => s.clk.live.getLsbD (routerDie r)
  | .stop k => s.clk.live.getLsbD (8 + k.val / 8) && s.clk.live.getLsbD (routerDie (stopRouter k))

/-- R32, R302: an arbiter makes no new grants. -/
def arbStopped (s : State) (a : Arb) : Bool := s.regBit (freezeReg a) 0 || !arbClocked s a

/-- The hops that a packet takes, with the detours of excluded links. -/
def routed (s : State) (l : List Hop) : List Hop := l.flatMap (detour s)

/-- A message of `n` flits leaves as packets of at most eight (R278). -/
def packetSizes (fuel n : Nat) : List Nat :=
  match fuel with
  | 0 => []
  | f + 1 => if n = 0 then [] else min n 8 :: packetSizes f (n - 8)

/-- The way along some hops. -/
def wayOf (l : List Hop) : Option Way := l.getLast?.map fun h => { dest := h, left := l }

/-- Packets of `n` flits in all leave a network interface: they enter at input `i` of the first router of their ways. -/
def inject (flow : Flow) (vn : Fin 4) (n : Nat) (i : Fin 5) (paths : List (List Hop)) (s : State) : State :=
  match paths.filterMap fun l => wayOf (routed s l) with
  | [] => s
  | w :: r =>
    let k := fun (f : Nat) => ({ flow := flow, vn := vn, flits := f, src := ((w.left.head?.map (·.router)).getD 0, i),
                                 input := i, ways := w :: r } : Pkt)
    { s with net := { s.net with pkts := s.net.pkts ++ (packetSizes n n).map k } }

/-- The packet wants an output of the router at which it stands. -/
def Pkt.wants (k : Pkt) (h : Hop) : Bool := k.ways.any fun w => w.left.head? = some h

/-- The router at which a packet stands. -/
def Pkt.place (k : Pkt) : Option (Fin 128) := k.ways.findSome? fun w => w.left.head?.map (·.router)

/-- The flits in the input buffer of a virtual network (R278). -/
def bufferUsed (s : State) (r : Fin 128) (i : Fin 5) (vn : Fin 4) : Nat :=
  ((s.net.pkts.filter fun k => k.entered && k.vn = vn && k.input = i && k.place = some r).map (·.flits)).foldl (· + ·) 0

/-- R279: the buffer after an output has credit for the packet; what leaves the mesh is always accepted. -/
def hasCredit (s : State) (k : Pkt) (h : Hop) : Bool :=
  match linkEnd h.router h.out.val with
  | some q => bufferUsed s q (oppositePort h.out) k.vn + k.flits ≤ 8
  | none => true

/-- The packets that ask for an output and can proceed (R300). -/
def outputAsks (s : State) (h : Hop) : List Pkt := s.net.pkts.filter fun k => k.wants h && hasCredit s k h

/-- A packet after it has taken an output: it goes on, and stays behind for its other destinations (R293). -/
def Pkt.hop (k : Pkt) (h : Hop) : List Pkt :=
  let on := k.ways.filter fun w => w.left.head? = some h
  let stay := k.ways.filter fun w => w.left.head? ≠ some h
  (if stay = [] then [] else [{ k with ways := stay }])
    ++ [{ k with input := oppositePort h.out, entered := true, ways := on.map fun w => { w with left := w.left.drop 1 } }]

/-- Replace the first packet that equals `k`. -/
def replacePkt (k : Pkt) (by_ : List Pkt) : List Pkt → List Pkt
  | [] => []
  | x :: r => if x = k then by_ ++ r else x :: replacePkt k by_ r

/-- The key of an input's record of the virtual network it served last. -/
def inputKey (r : Fin 128) (i : Fin 5) : Nat := r.val * 5 + i.val

/-- R299: of the packets of an input that can proceed, the oldest of the virtual network whose turn it is, network 1
first. -/
def turnOf (last : Option (Fin 4)) (l : List Pkt) : Option Pkt :=
  let order : List (Fin 4) := match last with
    | some v => [v + 1, v + 2, v + 3, v]
    | none => [1, 2, 3, 0]
  order.findSome? fun v => l.find? (·.vn = v)

/-- R300: an output is granted to a packet at one of its inputs: the arbiter's credits fall by its flits, the link carries
them, and the packet moves on. -/
def movePkt (s : State) (k : Pkt) (h : Hop) : State :=
  let a := Arb.router h.router h.out
  let x := arbState s a
  let s1 := setArb s a { x with credit := modifyAt (· - k.flits) x.credit k.input.val, last := k.input.val }
  let s2 := countLink s1 h k.flits
  { s2 with net := { s2.net with
      pkts := replacePkt k (k.hop h) s2.net.pkts
      served := sput (fun _ => none) s2.net.served (inputKey h.router k.input) (some k.vn) } }

/-- R299, R300: the packet that an output grants next. -/
def nextGrant (s : State) (h : Hop) : Option Pkt :=
  let a := Arb.router h.router h.out
  let x := arbState s a
  let l := outputAsks s h
  let cand := (upFrom 0 5).filter fun i => l.any fun k => k.input.val = i
  match arbWinner (arbPrios s a) x.credit x.last cand with
  | none => none
  | some w => turnOf (sget (fun _ => none) s.net.served (inputKey h.router (Fin.ofNat 5 w))) (l.filter fun k => k.input.val = w)

/-! ## Contributions that meet (R297) -/

/-- R296: two words combined. -/
def combineWord (s : State) (c : Cq) (a b : Word) : Word :=
  match c.op with
  | 0 => a + b
  | 1 => let q := modQ s c.mi; BitVec.ofNat 64 ((a.toNat % q + b.toNat % q) % q)
  | _ => if a.toNat ≤ b.toNat then b else a

/-- Combine two lists of words. -/
def combine (s : State) (c : Cq) : List Word → List Word → List Word
  | a :: l, b :: r => combineWord s c a b :: combine s c l r
  | [], r => r
  | l, [] => l

/-- The contribution that a packet carries. -/
def partOf (s : State) (f : Flow) : Option (Nat × Cq × CqPart) :=
  match f with
  | .part j id => (s.net.cqs[j]?).bind fun c => (c.flying.find? (·.id = id)).map fun k => (j, c, k)
  | _ => none

/-- Two packets carry contributions to one queue and round. -/
def sameRound (s : State) (a b : Flow) : Bool :=
  match partOf s a, partOf s b with
  | some (i, _, x), some (j, _, y) => i = j && x.round = y.round && x.id ≠ y.id
  | _, _ => false

/-- The second contribution is merged into the first, with the sum of their counts; its packet is no more. -/
def mergePart (keep gone : Flow) (s : State) : State :=
  match partOf s keep, partOf s gone with
  | some (j, c, x), some (_, _, y) =>
    let f := fun (k : CqPart) =>
      if k.id = x.id then { k with words := combine s c x.words y.words, count := x.count + y.count } else k
    { s with net := { s.net with
        cqs := modifyAt (fun c => { c with flying := (c.flying.filter (·.id ≠ y.id)).map f }) s.net.cqs j
        pkts := s.net.pkts.filter (·.flow ≠ gone) } }
  | _, _ => s

/-- R297: contributions that meet at an output are merged into the one that `keep` carries. -/
def mergeParts (keep : Flow) (h : Hop) (s : State) : State :=
  ((s.net.pkts.filter fun k => k.wants h && sameRound s keep k.flow).map (·.flow)).foldl (fun s f => mergePart keep f s) s

/-! ## A cycle, and a delivery -/

/-- The outputs that packets ask for. -/
def wantedOutputs (s : State) : List Hop := (s.net.pkts.flatMap fun k => k.ways.filterMap (·.left.head?)).eraseDups

/-- One output in one cycle (R300): it goes on with the packet that holds it, or grants another. -/
def cycleOutput (s : State) (h : Hop) : State :=
  let key := arbKey (.router h.router h.out)
  let left := sget (fun _ => 0) s.net.busy key
  if 0 < left then { s with net := { s.net with busy := sput (fun _ => 0) s.net.busy key (left - 1) } }
  else if arbStopped s (.router h.router h.out) then s
  else
    let s1 := match (outputAsks s h).head? with
      | some k => mergeParts k.flow h s
      | none => s
    match nextGrant s1 h with
    | some k =>
      let s2 := movePkt s1 k h
      { s2 with net := { s2.net with busy := sput (fun _ => 0) s2.net.busy key (k.flits - 1) } }
    | none => s1

/-- Outputs that a packet still holds and none asks for. -/
def idleOutputs (s : State) (asked : List Hop) : List Hop :=
  (s.net.busy.map fun e => ({ router := Fin.ofNat 128 (e.1 / 5), out := Fin.ofNat 5 (e.1 % 5) } : Hop)).filter fun h => !asked.contains h

/-- One cycle of the Fretboard. -/
def netCycle (s : State) : State :=
  let l := wantedOutputs s
  (l ++ idleOutputs s l).foldl cycleOutput s

/-- The packet of a flow that is still on its way to a destination. -/
def flying (s : State) (f : Flow) (d : Hop) : Option (Pkt × Hop) :=
  s.net.pkts.findSome? fun k =>
    if k.flow = f then (k.ways.find? fun w => w.dest = d && w.left ≠ []).bind fun w => w.left.head?.map fun h => (k, h) else none

/-- The output grants, in its order, until it has granted the flow's packet. -/
def grantUntil (fuel : Nat) (f : Flow) (d : Hop) (h : Hop) (s : State) : State :=
  match fuel with
  | 0 => s
  | n + 1 =>
    match flying s f d with
    | none => s
    | some (own, g) =>
      if g ≠ h then s
      else match nextGrant s h with
        | none => movePkt s own h
        | some k => if k = own then movePkt s own h else grantUntil n f d h (movePkt s k h)

/-- The flow's packets take their remaining hops to a destination. -/
def bring (fuel : Nat) (f : Flow) (d : Hop) (s : State) : State :=
  match fuel with
  | 0 => s
  | n + 1 => match flying s f d with
    | none => s
    | some (_, h) => bring n f d (grantUntil (s.net.pkts.length + 1) f d h (mergeParts f h s))

/-- The hops that a flow's packets have before a destination. -/
def hopsLeft (s : State) (f : Flow) (d : Hop) : List Hop :=
  s.net.pkts.flatMap fun k => if k.flow = f then k.ways.flatMap fun w => if w.dest = d then w.left else [] else []

/-- R281: nothing older from the same source, to the same destination and on the same network is still on its way. -/
def inOrder (s : State) (f : Flow) (d : Hop) : Bool :=
  let older := s.net.pkts.takeWhile fun k => !(k.flow = f && k.ways.any (·.dest = d))
  match s.net.pkts.find? fun k => k.flow = f && k.ways.any (·.dest = d) with
  | none => true
  | some k => older.all fun o => !(o.src = k.src && o.vn = k.vn && o.ways.any (·.dest = d))

/-- The flow's packets can arrive: nothing older is before them, and no output before them is frozen (R302). -/
def mayArrive (s : State) (f : Flow) (d : Hop) : Bool :=
  inOrder s f d && (hopsLeft s f d).all fun h => !arbStopped s (.router h.router h.out)

/-- The flow's packets go to a destination no more. -/
def cutWay (f : Flow) (d : Hop) (s : State) : State :=
  let cut := fun (k : Pkt) => if k.flow = f then { k with ways := k.ways.filter (·.dest ≠ d) } else k
  { s with net := { s.net with pkts := (s.net.pkts.map cut).filter (·.ways ≠ []) } }

/-- The flow's packets arrive at a destination, and are taken off. -/
def arrive (f : Flow) (d : Hop) (s : State) : State := cutWay f d (bring (hopsLeft s f d).length f d s)

/-- The packets of a flow are lost, or nobody awaits them any more. -/
def dropFlow (f : Flow) (s : State) : State := { s with net := { s.net with pkts := s.net.pkts.filter (·.flow ≠ f) } }

/-- The destination of some hops. -/
def destOf (l : List Hop) : Hop := l.getLast?.getD { router := 0, out := 0 }

/-- A packet leaves and arrives at once. -/
def passHops (vn : Fin 4) (n : Nat) (i : Fin 5) (l : List Hop) (s : State) : State :=
  arrive .now (destOf (routed s l)) (inject .now vn n i [l] s)

/-- No output of some hops is frozen. -/
def pathOpen (s : State) (l : List Hop) : Bool := (routed s l).all fun h => !arbStopped s (.router h.router h.out)

/-- Eight flits of a PA's own accesses wait in its network interface: the router's input buffer has no credit for another
(R30, R279). -/
def meshFull (s : State) (p : Pa) : Bool :=
  8 ≤ ((s.net.pkts.filter fun k => !k.entered && k.src = (routerAt (meshX p) (meshY p), 0) && (match k.flow with
    | .access _ _ => true
    | _ => false)).map (·.flits)).foldl (· + ·) 0

/-- R279: a PA's network interface reserves room for a response before its request leaves, and frees it as it takes the
response. -/
def reserve (p : Pa) (s : State) : State :=
  { s with net := { s.net with reserved := sput (fun _ => 0) s.net.reserved p.val (sget (fun _ => 0) s.net.reserved p.val + 1) } }

def unreserve (p : Pa) (s : State) : State :=
  { s with net := { s.net with reserved := sput (fun _ => 0) s.net.reserved p.val (sget (fun _ => 0) s.net.reserved p.val - 1) } }

/-! ## Hub stops -/

/-- The class of a request at a hub stop (Table 10.9). -/
def stopIndex : Requester → StreamClass → Nat
  | .threads _, _ => 0
  | .bow _, .key => 1
  | .bow _, .ciphertext => 2
  | .bow _, .plaintext => 3
  | .bow _, .scratch => 4
  | .host _, _ => 6
  | .bridge _, _ => 7
  | .cxl _, _ => 7
  | .soundpost, _ => 6

/-- The hub die at which a request enters (Table 1.1); a PA's enters at no hub die. -/
def entryHub : Requester → Option Hub
  | .host e => some (if e = 0 then 0 else 1)
  | .bridge n => some (Fin.ofNat 4 (n.val / 2))
  | .soundpost => some 0
  | .cxl i => some (if i = 0 then 1 else 3)
  | _ => none

/-- The requesting PA. -/
def requesterPa : Requester → Option Pa
  | .threads p => some p
  | .bow p => some p
  | _ => none

/-- The column of the stop of its own hub die by which a request that is no PA's enters the mesh, for an HBM unit. -/
def entryCol (h : Hub) (a : Nat) : Nat := hubCol h + hbmUnit a % 8

/-- The hops of a request to the slice of hub die `h`, with the input of the first, and the stop that admits it; a
request that enters at the slice's own die crosses no stop. -/
def slicePath (rq : Requester) (h : Hub) (a : Nat) : Option (Fin 32 × Nat × List Hop) :=
  match requesterPa rq, entryHub rq with
  | some p, _ => some (stopOf h (stopCol p h), 0, hubPath p h)
  | none, some g =>
    if g = h then none
    else
      let x := entryCol g a
      let tx := max (hubCol h) (min (hubCol h + 7) x)
      some (stopOf h tx, (if g.val < 2 then 1 else 3), walk 24 x (hubRow g) tx (hubRow h) false
        ++ [{ router := routerAt tx (hubRow h), out := if h.val < 2 then 1 else 3 }])
  | none, none => none

/-- The hops of the response, with the input of the first. -/
def sliceBack (rq : Requester) (h : Hub) (a : Nat) : Nat × List Hop :=
  let i := if h.val < 2 then 1 else 3
  match requesterPa rq, entryHub rq with
  | some p, _ => (i, hubBack p h)
  | none, some g =>
    let x := entryCol g a
    let tx := max (hubCol h) (min (hubCol h + 7) x)
    (i, walk 24 tx (hubRow h) x (hubRow g) false ++ [{ router := routerAt x (hubRow g), out := if g.val < 2 then 1 else 3 }])
  | none, none => (i, [])

/-- R408: the stop that serves for a stop, and the hop from there back to the stop's own column. -/
def useStop (s : State) (k : Fin 32) : Fin 32 × List Hop :=
  let h : Hub := Fin.ofNat 4 (k.val / 8)
  let r := routerAt (hubCol h + k.val % 8) (hubRow h)
  let o : Fin 5 := if h.val < 2 then 1 else 3
  if linkOut s r o then
    let c := aside (Config.detourLow r.val o.val) 0 7 (k.val % 8)
    (Fin.ofNat 32 (8 * h.val + c),
      [{ router := routerAt (hubCol h + c) (hubRow h), out := if c < k.val % 8 then 2 else 4 }])
  else (k, [])

/-! ## The way of a PA's access (R279, R280) -/

/-- The hub die of a CXL port. -/
def cxlHub (i : Fin 2) : Hub := if i = 0 then 1 else 3

/-- The hops of a request of PA `p` to the home of an address. -/
def homePath (s : State) (p : Pa) (a : Nat) : List Hop :=
  match region s a with
  | .spm q _ => paPath p q false
  | .hbm => hubPath p (hbmHub a)
  | .far i _ => hubPath p (cxlHub i)
  | _ => []

/-- The hops of the response, with the input of the first router. -/
def homeBack (s : State) (p : Pa) (a : Nat) : Fin 5 × List Hop :=
  let stopIn := fun (h : Hub) => if h.val < 2 then (1 : Fin 5) else 3
  match region s a with
  | .spm q _ => (0, paPath q p false)
  | .hbm => (stopIn (hbmHub a), hubBack p (hbmHub a))
  | .far i _ => (stopIn (cxlHub i), hubBack p (cxlHub i))
  | _ => (0, [])

/-- An access to the own SPM, to a Bridge window or to a control register goes no such way. -/
def travels (s : State) (p : Pa) (a : Nat) : Bool := !(homePath s p a).isEmpty

/-- A request leaves its PA, which reserves room for the response. -/
def sendRequest (p : Pa) (f : Flow) (a n : Nat) (wr : Bool) (s : State) : State :=
  let l := homePath s p a
  if !travels s p a then s else reserve p (inject f 0 (if wr then flitsOf n else 1) 0 [l] s)

/-- A request has its way to its home free (R281, R302). -/
def requestArrives (s : State) (p : Pa) (f : Flow) (a : Nat) : Bool := mayArrive s f (destOf (routed s (homePath s p a)))

/-- The request arrives at its home, and the response leaves. -/
def answerRequest (p : Pa) (f g : Flow) (a n : Nat) (wr : Bool) (s : State) : State :=
  let back := homeBack s p a
  let s1 := arrive f (destOf (routed s (homePath s p a))) s
  if back.2.isEmpty then s1 else inject g 1 (if wr then 1 else flitsOf n) back.1 [back.2] s1

/-- The response has its way free. -/
def responseArrives (s : State) (p : Pa) (g : Flow) (a : Nat) : Bool := mayArrive s g (destOf (routed s (homeBack s p a).2))

/-- The response arrives, and its reserved room is free. -/
def takeResponse (p : Pa) (g : Flow) (a : Nat) (s : State) : State :=
  if !travels s p a then s else unreserve p (arrive g (destOf (routed s (homeBack s p a).2)) s)


end Sys2Proof.Machine
end

