-- ==== Sys2Proof/Machine/Slice.lean ====
section
/-! DEFINITION. The package cache slices (R256 to R263), the queues of the HBM controllers (R264, R265), and the hub stops'
arbitration of requests (R299, R300). -/

namespace Sys2Proof.Machine

/-! ## Slices (R256 to R258) -/

def State.slice (s : State) (h : Hub) : Slice := s.st.slices[h.val]

def State.modSlice (s : State) (h : Hub) (f : Slice → Slice) : State :=
  { s with st := { s.st with slices := s.st.slices.set h.val (f (s.slice h)) } }

def State.modHbm (s : State) (n : Stack) (f : Hbm → Hbm) : State :=
  { s with st := { s.st with hbms := s.st.hbms.set n.val (f s.st.hbms[n.val]) } }

/-- The set and the cache bank of a slice unit. -/
def cacheSet (w : Nat) : Nat := (w ^^^ (w >>> 11)) % 2048

def cacheBank (w : Nat) : Fin 16 := Fin.ofNat 16 (cacheSet w % 16)

/-- The device address of unit `w` of the slice of hub die `h`. -/
def unitAddr (h : Hub) (w : Nat) : Nat := (w / 6 * 24 + (h.val * 6 + w % 6)) * 4096

def noLine : Nat → Option CLine := fun _ => none

/-- The way of unit `w`, and its line. -/
def lineOf (x : Slice) (w : Nat) : Option (Nat × CLine) :=
  (upFrom (cacheSet w * 16) 16).findSome? fun k =>
    match sget noLine x.lines k with
    | some l => if l.unit = w then some (k, l) else none
    | none => none

/-- The 128-byte sectors that `[a, a + n)` touches in its unit. -/
def sectorsOf (a n : Nat) : BitVec 32 :=
  let lo := a % 4096 / 128
  let hi := (a % 4096 + n - 1) / 128
  BitVec.ofNat 32 ((2 ^ (hi + 1 - lo) - 1) * 2 ^ lo)

/-- The number of sectors of a mask. -/
def sectorCount (m : BitVec 32) : Nat := ((upFrom 0 32).filter fun i => m.getLsbD i).length

/-- A request that the line holds whole. -/
def holds (l : CLine) (a n : Nat) : Bool := l.valid &&& sectorsOf a n = sectorsOf a n

/-- U(c): the use value of a class. -/
def useOf (s : State) (h : Hub) (c : StreamClass) : Nat :=
  s.regField (.slice h .use) (match c with | .scratch => 0 | .key => 4 | .plaintext => 8 | .ciphertext => 12) 4

def classRank : StreamClass → Nat
  | .scratch => 0 | .key => 1 | .ciphertext => 2 | .plaintext => 3

/-- R258: the rank of a line, compared field by field. -/
def lineRank (l : CLine) : Nat × Nat × Nat := (if 0 < l.count then 1 else 0, classRank l.cls, l.last)

def rankLess (a b : Nat × Nat × Nat) : Bool :=
  a.1 < b.1 || (a.1 = b.1 && (a.2.1 < b.2.1 || (a.2.1 = b.2.1 && a.2.2 < b.2.2)))

/-- The way with the smallest rank among lines, the lowest on a tie. -/
def leastRank : List (Nat × CLine) → Option Nat
  | [] => none
  | (k, l) :: r =>
    match leastRank r, r with
    | none, _ => some k
    | some j, _ =>
      match r.find? (·.1 = j) with
      | some (_, m) => if rankLess (lineRank m) (lineRank l) then some j else some k
      | none => some k

/-- R258: a line that the slice never evicts: it is being filled, or holds a pending atomic. What is being written back
lies in a bank that takes no line (R261). -/
def lineBusy (x : Slice) (l : CLine) : Bool := x.fills.any fun f => sliceUnit f.addr = l.unit

/-- R258: the victim of the set of unit `w`: the lowest-numbered invalid way, or the way with the smallest rank of those
that may be evicted. -/
def victim (x : Slice) (w : Nat) : Option Nat :=
  let ways := upFrom (cacheSet w * 16) 16
  match ways.find? fun k => (sget noLine x.lines k).isNone with
  | some k => some k
  | none => leastRank (ways.filterMap fun k => (sget noLine x.lines k).bind fun l => if lineBusy x l then none else some (k, l))

/-! ## HBM (R264, R265) -/

/-- The bank, the row and the column of an HBM address. -/
def hbmBank (a : Nat) : Nat := ((hbmUnit a / 8) ^^^ (hbmUnit a / 512)) % 64

def hbmRow (a : Nat) : Nat := hbmUnit a / 512

def hbmCol (a : Nat) : Nat := hbmUnit a % 8 * 128 + a % 128

/-- The pseudo-channel of an address, and the pseudo-channels of a sector mask: one per sector of the unit. -/
def hbmChannel (a : Nat) : Nat := a / 128 % 32

def maskChannels (m : BitVec 32) : List Nat := (upFrom 0 32).filter fun i => m.getLsbD i

/-- Controller cycles since reset release: the domain runs at 1.2 GHz. -/
def State.hbmCycles (s : State) : Nat := s.now * 3 / 20

/-- HBM_CFG: age_max, wq_hi and wq_lo, as their values act. -/
def ageMax (s : State) (n : Stack) : Nat := max 64 (s.regField (.hbm n .cfg) 0 10)

def wqHi (s : State) (n : Stack) : Nat := s.regField (.hbm n .cfg) 16 6

def wqLo (s : State) (n : Stack) : Nat :=
  let lo := s.regField (.hbm n .cfg) 24 6
  if lo < wqHi s n then lo else wqHi s n - 1

/-- The queue of a pseudo-channel. -/
def chanQueue (x : Hbm) (pc : Nat) (wr : Bool) : List HbmReq := x.queue.filter fun q => q.pc = pc && q.write = wr

/-- A queue has room. -/
def chanRoom (x : Hbm) (pc : Nat) (wr : Bool) : Bool := (chanQueue x pc wr).length < 64

/-- R265: write mode before a choice. -/
def writeModeNow (s : State) (n : Stack) (pc : Nat) : Bool :=
  let x := s.st.hbms[n.val]
  let rd := (chanQueue x pc false).length
  let wr := (chanQueue x pc true).length
  if sget (fun _ => false) x.writeMode pc then !(wr ≤ wqLo s n || wr = 0)
  else wqHi s n ≤ wr && 0 < wr || rd = 0 && 0 < wr

/-- A request hits its bank's open row. -/
def rowHit (x : Hbm) (q : HbmReq) : Bool :=
  sget (fun _ => none) x.openRow (q.pc * 64 + hbmBank q.addr) = some (hbmRow q.addr)

/-- R265: the request that a pseudo-channel's scheduler picks. -/
def pickReq (s : State) (n : Stack) (pc : Nat) : Option HbmReq :=
  let x := s.st.hbms[n.val]
  let cand := chanQueue x pc (writeModeNow s n pc)
  (cand.find? fun q => ageMax s n + q.since ≤ s.hbmCycles) <|> (cand.find? fun q => rowHit x q) <|> cand.head?

/-- The oldest request of the pseudo-channel for the picked one's address: reads and writes to one address keep the order
in which the slice issued them. -/
def sameFirst (x : Hbm) (q : HbmReq) : HbmReq := (x.queue.find? fun r => r.pc = q.pc && r.addr = q.addr).getD q

/-- One choice of a pseudo-channel's scheduler: the request is performed, and its bank holds its row open. -/
def scheduleOne (s : State) (n : Stack) (pc : Nat) : State :=
  let mode := writeModeNow s n pc
  let s1 := s.modHbm n fun x => { x with writeMode := sput (fun _ => false) x.writeMode pc mode }
  match pickReq s n pc with
  | none => s1
  | some q => s1.modHbm n fun x =>
      let r := sameFirst x q
      { x with queue := x.queue.erase r
               openRow := sput (fun _ => none) x.openRow (pc * 64 + hbmBank r.addr) (some (hbmRow r.addr)) }

/-- The scheduler goes on until a condition holds of its stack. -/
def scheduleUntil (fuel : Nat) (n : Stack) (pc : Nat) (done : Hbm → Bool) (s : State) : State :=
  match fuel with
  | 0 => s
  | f + 1 => if done s.st.hbms[n.val] then s else scheduleUntil f n pc done (scheduleOne s n pc)

/-- A write enters its queue, once that has room. -/
def queueWrite (n : Stack) (a : Nat) (s : State) : State :=
  let pc := hbmChannel a
  let s1 := scheduleUntil 129 n pc (fun x => chanRoom x pc true) s
  s1.modHbm n fun x => { x with queue := x.queue ++ [{ pc := pc, write := true, addr := a, since := s1.hbmCycles }] }

/-- The sectors of a unit that a mask names, as addresses. -/
def sectorAddrs (a : Nat) (m : BitVec 32) : List Nat := (maskChannels m).map fun i => floorTo a 4096 + i * 128

/-- R256: sectors of a unit are written to HBM. -/
def writeSectors (s : State) (a : Nat) (m : BitVec 32) : State :=
  let n := hbmStack a
  ((sectorAddrs a m).foldl (fun s b => queueWrite n b s) s).portBytes (Fin.ofNat 76 (12 + n.val)) true (128 * sectorCount m)

/-- Reads enter the queues of their pseudo-channels for fill `id`. -/
def queueReads (id : Option Nat) (a : Nat) (m : BitVec 32) (s : State) : State :=
  s.modHbm (hbmStack a) fun x => { x with queue := x.queue ++ (sectorAddrs a m).map fun b =>
    { pc := hbmChannel b, write := false, addr := b, fill := id, since := s.hbmCycles } }

/-- The controllers perform the reads of fill `id`. -/
def finishReads (id : Nat) (a : Nat) (m : BitVec 32) (s : State) : State :=
  let n := hbmStack a
  (maskChannels m).foldl (fun s pc =>
    scheduleUntil 129 n pc (fun x => !(x.queue.any fun q => q.pc = pc && q.fill = some id)) s) s

/-- The reads of fill `id` are no longer awaited. -/
def dropReads (id : Nat) (a : Nat) (s : State) : State :=
  s.modHbm (hbmStack a) fun x => { x with queue := x.queue.filter fun q => q.fill ≠ some id }

/-- A queue of a pseudo-channel that sectors of a unit need is full: the slice issues nothing to it. -/
def queuesFull (s : State) (a : Nat) (m : BitVec 32) (wr : Bool) : Bool :=
  (maskChannels m).any fun i => !chanRoom s.st.hbms[(hbmStack a).val] i wr

/-! ## Lines -/

/-- R256: a dirty line is written to HBM as it leaves the slice. -/
def writeBack (s : State) (h : Hub) (l : CLine) : State := if l.dirty = 0 then s else writeSectors s (unitAddr h l.unit) l.dirty

/-- Put a line at its way, and the line that it replaces back to HBM. -/
def putLine (s : State) (h : Hub) (k : Nat) (l : CLine) : State :=
  let s1 := match sget noLine (s.slice h).lines k with
    | some old => if old.unit = l.unit then s else writeBack s h old
    | none => s
  s1.modSlice h fun x => { x with lines := sput noLine x.lines k (some { l with last := x.clock }), clock := x.clock + 1 }

/-- A line becomes invalid, with what it holds. -/
def loseLine (h : Hub) (k : Nat) (s : State) : State := s.modSlice h fun x => { x with lines := sput noLine x.lines k none }

/-- The bank of a unit takes new lines. -/
def allocates (x : Slice) (w : Nat) : Bool := x.banks[(cacheBank w).val] = .on

/-- The way that a new line of unit `w` takes. -/
def newWay (x : Slice) (w : Nat) : Option Nat := if allocates x w then victim x w else none

/-- R258: a read hit. -/
def hitRead (s : State) (h : Hub) (k : Nat) (l : CLine) : State := putLine s h k { l with count := l.count - 1 }

/-- R258: a write sets the class and the count, and marks its sectors dirty; a miss allocates, or is performed at HBM. -/
def noteWrite (s : State) (h : Hub) (c : StreamClass) (a n : Nat) : State :=
  let w := sliceUnit a
  let m := sectorsOf a n
  match lineOf (s.slice h) w with
  | some (k, l) =>
    putLine s h k { l with cls := c, count := useOf s h c, valid := l.valid ||| m, dirty := l.dirty ||| m }
  | none =>
    match newWay (s.slice h) w with
    | some k => putLine s h k { unit := w, cls := c, count := useOf s h c, valid := m, dirty := m, last := 0 }
    | none => writeSectors s a m

/-- A fill brings sectors of a unit into a line (R258), unless its class does not allocate. -/
def noteFill (s : State) (h : Hub) (c : StreamClass) (a n count : Nat) (keep : Bool) : State :=
  let w := sliceUnit a
  let s1 := s.portBytes (Fin.ofNat 76 (12 + (hbmStack a).val)) false (128 * sectorCount (sectorsOf a n))
  if !keep then s1
  else match lineOf (s.slice h) w with
    | some (k, l) => putLine s1 h k { l with cls := c, count := count, valid := l.valid ||| sectorsOf a n }
    | none => match newWay (s.slice h) w with
      | some k => putLine s1 h k { unit := w, cls := c, count := count, valid := sectorsOf a n, dirty := 0, last := 0 }
      | none => s1

/-! ## Words of the cache (R259) -/

/-- Cache words that were corrected. -/
def countCorrected (s : State) (h : Hub) (n : Nat) : State := s.countSat (.slice h .eccCnt) 0 32 n

/-- An uncorrectable word in a clean line: the line is invalid, and its unit is read again. -/
def noteRefetch (s : State) (h : Hub) (a : Nat) : State := (s.countSat (.slice h .eccCnt) 32 16 1).logRec 3 1 2 a 0

/-- An uncorrectable word in a dirty line is lost. -/
def noteLost (s : State) (h : Hub) (a : Nat) : State := (s.countSat (.slice h .eccCnt) 48 16 1).logRec 3 2 3 a 0

/-- A read meets an uncorrectable word of a line. -/
def noteCacheBad (s : State) (a : Nat) : State :=
  let h := hbmHub a
  match lineOf (s.slice h) (sliceUnit a) with
  | some (k, l) => if l.dirty = 0 then noteRefetch (loseLine h k s) h a else noteLost s h a
  | none => noteRefetch s h a

/-- Count and record a read that met an uncorrectable word, at its home (R94, R259, R267, R273). -/
def noteBad (s : State) (a : Nat) : State :=
  match region s a with
  | .spm p off => noteSpmBad s p off
  | .hbm => if s.mem.uncBurst.any (fun u => overlap a 1 u 32) then noteHbmBad s (floorTo a 32) false else noteCacheBad s a
  | .far i _ => noteFarBad s i a true
  | _ => s

/-! ## Trackers (R260) -/

/-- The slice follows streams of a requester's class. -/
def prefetches (s : State) (h : Hub) (rq : Requester) (c : StreamClass) : Bool :=
  let bow := match rq with
    | .bow _ => true
    | _ => false
  s.regBit (.slice h .cfg) 0 && s.regField (.slice h .cfg) 2 6 ≠ 0 && useOf s h c ≠ 0 && (!bow || s.regBit (.slice h .cfg) 1)

/-- pf_depth: values above 32 act as 32. -/
def prefetchDepth (s : State) (h : Hub) : Nat := min 32 (s.regField (.slice h .cfg) 2 6)

/-- A unit within a tracker's stream. -/
def inStream (t : Tracker) (w : Nat) : Bool := t.lastDemand ≤ w && w ≤ t.next

/-- A tracker's slot: a free one, or the least recently used. -/
def trackerSlot (x : Slice) : Fin 32 :=
  match (List.finRange 32).find? fun k => x.trackers[k.val].isNone with
  | some k => k
  | none => (List.finRange 32).foldl (fun b k =>
      match x.trackers[b.val], x.trackers[k.val] with
      | some u, some v => if v.used < u.used then k else b
      | _, _ => b) 0

/-- A demand access moves its requester's stream on. -/
def trackAccess (rq : Requester) (w : Nat) (x : Slice) : Slice :=
  let f := fun (t : Tracker) =>
    if t.rq = rq && inStream t w then { t with lastDemand := w, next := max t.next (w + 1), used := x.clock } else t
  { x with trackers := x.trackers.map fun o => o.map f }

/-- A demand miss ends the requester's trackers whose stream it leaves, and starts one at the second unit of a run. -/
def trackMiss (start : Bool) (rq : Requester) (c : StreamClass) (w : Nat) (x : Slice) : Slice :=
  let on := x.trackers.toList.any fun o => match o with | some t => t.rq = rq && inStream t w | none => false
  let g := fun (o : Option Tracker) => o.bind fun t => if t.rq = rq && !inStream t w then none else some t
  let x1 := trackAccess rq w { x with trackers := x.trackers.map g }
  let run := x.lastMiss.any fun e => e.1 = rq && e.2 + 1 = w
  let x2 := { x1 with lastMiss := (rq, w) :: x1.lastMiss.filter fun e => e.1 ≠ rq }
  if start && run && !on then
    let t : Tracker := { rq := rq, cls := c, lastDemand := w, next := w + 1, issued := 0, used := x.clock }
    { x2 with trackers := x2.trackers.set (trackerSlot x2).val (some t) }
  else x2

/-- A demand access of a requester at a unit, and whether it hits. -/
def noteDemand (s : State) (h : Hub) (rq : Requester) (c : StreamClass) (w : Nat) (hit : Bool) : State :=
  s.modSlice h (if hit then trackAccess rq w else trackMiss (prefetches s h rq c) rq c w)

/-! ## Slots and stops (R263, R299, R300) -/

/-- The bytes of an access. -/
def accLen : Access → Nat
  | .read n => n
  | .write bs => bs.length
  | .atomic _ _ => 8

def accWrites : Access → Bool
  | .write _ => true
  | _ => false

/-- R257: the class of a request. -/
def requestClass (rq : Requester) (c : StreamClass) : StreamClass :=
  match rq with
  | .bow _ => c
  | .host _ => c
  | _ => .scratch

/-- Requests that hold a slot of a cache bank. -/
def slotsUsed (s : State) (h : Hub) (b : Fin 16) : Nat :=
  let x := s.slice h
  (x.fills.filter fun f => f.acc.isSome && cacheBank (sliceUnit f.addr) = b).length
    + (x.waiting.filter fun f => cacheBank (sliceUnit f.addr) = b).length
    + (s.net.stops.filter fun q => q.granted && hbmHub q.addr = h && cacheBank (sliceUnit q.addr) = b).length

/-- The bank of an address has a free slot and accepts requests. -/
def slotFree (s : State) (a : Nat) : Bool :=
  let h := hbmHub a
  let b := cacheBank (sliceUnit a)
  (s.slice h).banks[b.val] ≠ .forced && slotsUsed s h b < 32

/-- The stop that admits a request, if it crosses one. -/
def stopFor (s : State) (rq : Requester) (a : Nat) : Option (Fin 32) :=
  (slicePath rq (hbmHub a) a).map fun e => (useStop s e.1).1

/-- The request waits at its stop. -/
def stopReq (k : Fin 32) (index : Nat) (rq : Requester) (a : Nat) (acc : Access) : StopReq :=
  { stop := k, index := index, rq := rq, addr := a, acc := acc }

def joinStop (q : StopReq) (s : State) : State :=
  if s.net.stops.any fun r => r.rq = q.rq && r.addr = q.addr && r.acc = q.acc then s
  else { s with net := { s.net with stops := s.net.stops ++ [q] } }

/-- Requests of a stop that can proceed now: each bank's waiting queue is its own. -/
def stopAsks (s : State) (k : Fin 32) : List StopReq := s.net.stops.filter fun q => q.stop = k && !q.granted && slotFree s q.addr

/-- One grant of a stop: a request takes its bank's slot. -/
def grantStop (s : State) (k : Fin 32) : State :=
  let a := Arb.stop k
  let x := arbState s a
  let l := stopAsks s k
  let cand := (upFrom 0 8).filter fun i => l.any (·.index = i)
  if arbStopped s a then s
  else match arbWinner (arbPrios s a) x.credit x.last cand with
    | none => s
    | some w => match l.find? (·.index = w) with
      | none => s
      | some q =>
        let s1 := setArb s a { x with credit := modifyAt (· - 1) x.credit w, last := w }
        { s1 with net := { s1.net with stops := s1.net.stops.map fun r => if r = q then { r with granted := true } else r } }

/-- A request holds its slot. -/
def holdsSlot (s : State) (rq : Requester) (a : Nat) (acc : Access) : Bool :=
  s.net.stops.any fun r => r.granted && r.rq = rq && r.addr = a && r.acc = acc

/-- The stop grants, in its order, until the request has its slot or no request can proceed. -/
def grantFor (fuel : Nat) (k : Fin 32) (rq : Requester) (a : Nat) (acc : Access) (s : State) : State :=
  match fuel with
  | 0 => s
  | f + 1 => if holdsSlot s rq a acc then s else grantFor f k rq a acc (grantStop s k)

/-- The request leaves its stop. -/
def leaveStop (rq : Requester) (a : Nat) (acc : Access) (s : State) : State :=
  { s with net := { s.net with stops := s.net.stops.filter fun r => !(r.rq = rq && r.addr = a && r.acc = acc) } }

/-- A request of a class at its stop: it is admitted, or waits in the queue of its bank; beside, the state in which it
stands there. -/
def admitAt (q : StopReq) (s : State) : Option State × State :=
  let s1 := joinStop q s
  let s2 := grantFor (s1.net.stops.length + 1) q.stop q.rq q.addr q.acc s1
  (if holdsSlot s2 q.rq q.addr q.acc then some (leaveStop q.rq q.addr q.acc s2) else none, s2)

/-- A request at its stop. One that crosses no stop needs the slot alone. -/
def offer (s : State) (rq : Requester) (c : StreamClass) (a : Nat) (acc : Access) : Option State × State :=
  match slicePath rq (hbmHub a) a with
  | none => (if slotFree s a then some s else none, s)
  | some (k, _, _) => admitAt (stopReq (useStop s k).1 (stopIndex rq c) rq a acc) s

/-- Requests of a requester to an address wait at no stop. -/
def quitStops (rq : Requester) (a : Nat) (s : State) : State :=
  { s with net := { s.net with stops := s.net.stops.filter fun r => !(r.rq = rq && r.addr = a) } }

/-- The bytes of a request and of its response cross the stop (R444). -/
def countStop (s : State) (rq : Requester) (a n : Nat) (wr : Bool) : State :=
  match stopFor s rq a with
  | some k => s.portBytes (Fin.ofNat 76 (36 + k.val)) (!wr) n
  | none => s

/-- The request and the response of a requester that is no PA cross the mesh (R280). -/
def crossMesh (s : State) (rq : Requester) (a n : Nat) (wr : Bool) : State :=
  match requesterPa rq, slicePath rq (hbmHub a) a with
  | none, some (k, i, l) =>
    let s1 := passHops 0 (if wr then flitsOf n else 1) (Fin.ofNat 5 i) l s
    let back := sliceBack rq (hbmHub a) a
    passHops 1 (if wr then 1 else flitsOf n) (Fin.ofNat 5 back.1) ((useStop s k).2 ++ back.2) s1
  | _, _ => s

/-! ## An access at its slice (R256) -/

/-- A fill for a request of the unit is outstanding: what follows it at the unit waits. -/
def fillPending (x : Slice) (w : Nat) : Bool := x.fills.any fun f => f.acc.isSome && sliceUnit f.addr = w

/-- A read of bytes of one unit: a hit, or a miss whose unit is filled. -/
def readUnit (s : State) (h : Hub) (rq : Requester) (c : StreamClass) (a n : Nat) : State :=
  let w := sliceUnit a
  match lineOf (s.slice h) w with
  | some (k, l) =>
    if holds l a n then noteDemand (hitRead s h k l) h rq c w true
    else noteFill (noteDemand s h rq c w false) h c a n (useOf s h c - 1) (useOf s h c ≠ 0)
  | none => noteFill (noteDemand s h rq c w false) h c a n (useOf s h c - 1) (useOf s h c ≠ 0)

/-- A write of bytes of one unit. -/
def writeUnit (s : State) (h : Hub) (rq : Requester) (c : StreamClass) (a n : Nat) : State :=
  noteWrite (noteDemand s h rq c (sliceUnit a) (lineOf (s.slice h) (sliceUnit a)).isSome) h c a n

/-- The slice cannot perform an access of the unit yet: an earlier request of the unit waits there. -/
def unitWaits (s : State) (a : Nat) : Bool :=
  let x := s.slice (hbmHub a)
  fillPending x (sliceUnit a) || x.waiting.any fun k => sliceUnit k.addr = sliceUnit a

/-- An access is performed at the slices of its units. -/
def atSlices (s : State) (rq : Requester) (c : StreamClass) (a n : Nat) (wr : Bool) : State :=
  (linesOf a n).foldl (fun s e =>
    let h := hbmHub e.1
    let s1 := countStop (crossMesh s rq e.1 e.2 wr) rq e.1 e.2 wr
    if wr then writeUnit s1 h rq c e.1 e.2 else readUnit s1 h rq c e.1 e.2) s

/-- Some unit of an access waits. -/
def slicesHeld (s : State) (a n : Nat) : Bool := (linesOf a n).any fun e => unitWaits s e.1 || !slotFree s e.1

/-! ## The far tier's layout (R271) -/

def State.modCxl (s : State) (i : Fin 2) (f : CxlPort → CxlPort) : State :=
  { s with st := { s.st with cxl := s.st.cxl.set i.val (f s.st.cxl[i.val]) } }

/-- The device address of a byte of an expander: none while the layout leaves it out (R271). -/
def farAddr (s : State) (i : Fin 2) (off : Nat) : Option Nat :=
  let c0 := s.st.cxl[0]
  let c1 := s.st.cxl[1]
  let a :=
    if s.regBit (.cxl .cfg) 0 && c0.mapped && c1.mapped then farBase + off / 4096 * 8192 + i.val * 4096 + off % 4096
    else farBase + i.val * 0x20000000000 + off
  if farRegion s (a - farBase) = .far i off then some a else none

/-- The bytes, and the uncorrectable words, of the expanders that device addresses reach. -/
def farBytes (s : State) : List (Fin 2 × Nat × Byte) :=
  s.mem.bytes.filterMap fun e => match region s e.1 with
    | .far i off => some (i, off, e.2)
    | _ => none

def farBad (s : State) : List (Fin 2 × Nat) :=
  s.mem.unc.filterMap fun a => match region s a with
    | .far i off => some (i, off)
    | _ => none

/-- Memory without the expanders. -/
def withoutFar (m : Mem) : Mem :=
  { m with bytes := m.bytes.filter fun e => !inside e.1 1 farBase 0x40000000000
           unc := m.unc.filter fun a => !inside a 1 farBase 0x40000000000 }

/-- A byte of an expander where the layout has it, or aside. -/
def putFarByte (s : State) (e : Fin 2 × Nat × Byte) : State :=
  match farAddr s e.1 e.2.1 with
  | some a => { s with mem := { s.mem with bytes := sput noByte s.mem.bytes a e.2.2 } }
  | none => s.modCxl e.1 fun x => { x with aside := sput noByte x.aside e.2.1 e.2.2 }

def putFarBad (s : State) (e : Fin 2 × Nat) : State :=
  match farAddr s e.1 e.2 with
  | some a => { s with mem := { s.mem with unc := nins s.mem.unc a } }
  | none => s.modCxl e.1 fun x => { x with asideBad := nins x.asideBad e.2 }

/-- R271: a change of the far tier's layout: the bytes of each expander appear at the addresses that the new one gives them. -/
def relayout (s : State) (f : State → State) : State :=
  let aside := fun (i : Fin 2) => (s.st.cxl[i.val].aside.map fun e => (i, e.1, e.2), s.st.cxl[i.val].asideBad.map fun o => (i, o))
  let bytes := farBytes s ++ (aside 0).1 ++ (aside 1).1
  let bad := farBad s ++ (aside 0).2 ++ (aside 1).2
  let bare := (f { s with mem := withoutFar s.mem })
  let bare1 := { bare with st := { bare.st with cxl := bare.st.cxl.map fun x => { x with aside := [], asideBad := [] } } }
  bad.foldl putFarBad (bytes.foldl putFarByte bare1)

/-- R277: as the host reloads or resets the device, the range of a port whose link is down is unmapped. -/
def unmapDown (s : State) : State :=
  relayout s fun s => { s with st := { s.st with cxl := s.st.cxl.map fun x => if x.linkUp then x else { x with mapped := false } } }


end Sys2Proof.Machine
end

