-- ==== Sys2Proof/Machine/Needs.lean ====
section
/-! DEFINITION. What an instruction waits for before it issues (R98, R129, R130, R133, R233), and the cycle of a PA: its
slot, its threads' stalls and its counters (R434 to R438). -/

namespace Sys2Proof.Machine

/-! ## Earlier instructions (R129) -/

/-- Two pieces of state meet; SPM footprints meet in whole lines. -/
def Res.meets : Res → Res → Bool
  | .spm lo hi, .spm lo' hi' =>
    lo < hi && lo' < hi' && lo / 4096 ≤ (hi' - 1) / 4096 && lo' / 4096 ≤ (hi - 1) / 4096
  | .s i, .s j => i = j && i ≠ 0
  | x, y => decide (x = y)

/-- Tiles and accumulators belong to the PA, so their accesses take effect in issue order of all threads (R73). -/
def Res.shared : Res → Bool
  | .tile _ => true
  | .acc _ => true
  | _ => false

/-- An earlier instruction that has yet to write one of `rs`. -/
def lateFor (t : Thr) (rs : List Res) (o : Op) : Bool :=
  o.defs.any fun d => rs.any fun r => (o.thr = t || r.shared) && d.meets r

/-- Some earlier instruction has yet to write one of `rs`. -/
def dataLate (x : PaState) (t : Thr) (rs : List Res) : Bool := x.ops.any (lateFor t rs)

/-- An atomic, whose return is awaited as sync (Table 4.19). -/
def Op.isAmo (o : Op) : Bool :=
  match o.acc with
  | some m => match m.kind with
    | .amo _ _ _ => true
    | _ => false
  | none => false

/-- The thread has eight write footprints in flight. -/
def footprintsFull (x : PaState) (t : Thr) : Bool := 8 ≤ (x.ops.filter fun o => o.thr = t && o.defs ≠ []).length

/-! ## Landings of the Bow (R233) -/

/-- The lines of the PA's SPM that a unit writes. -/
def unitLines (p : Pa) (u : BowUnit) : List Nat :=
  if u.fetch && !u.stream then
    (u.pieces.flatMap fun k => if ownSpm p k.dst k.len then (linesOf (k.dst - spmAddr p 0) k.len).map (·.1 / 4096) else [])
      |>.eraseDups
  else []

/-- R233: the pending count of a line. -/
def landingCount (x : PaState) (p : Pa) (line : Nat) : Nat :=
  ((x.bow.queue.map fun c => (c.left.filter fun u => (unitLines p u).contains line).length).foldl (· + ·) 0)
    + (x.bow.tags.filter fun g => (unitLines p g.unit).contains line).length

/-- R233: what an instruction that touches the SPM ranges `rs` waits for: Bow-empty while a unit it awaits has not
been requested, data-late once all have. -/
def landingWait (x : PaState) (p : Pa) (rs : List (Nat × Nat)) : Option Nat :=
  let lines := rs.flatMap fun r => (linesOf r.1 r.2).map (·.1 / 4096)
  if lines.any fun l => x.bow.queue.any fun c => c.left.any fun u => (unitLines p u).contains l then some 3
  else if lines.any fun l => x.bow.tags.any fun g => (unitLines p g.unit).contains l then some 1
  else none

/-- A thread's Bow has commands queued or units requested. -/
def bowBusy (x : PaState) (t : Thr) : Bool :=
  x.bow.queue.any (·.thr = t) || x.bow.tags.any (·.thr = t)

/-- Queue entries one thread may hold. -/
def bowQuota (s : State) (p : Pa) : Nat :=
  let q := s.regField (.pa p .bowCfg) 0 10
  if q = 0 || 512 < q then 512 else q

/-- R233: the command would raise some line's pending count beyond 15. -/
def landingFull (x : PaState) (p : Pa) (us : List BowUnit) : Bool :=
  (us.flatMap (unitLines p)).any fun l => 15 ≤ landingCount x p l

/-- A command needs room in the queue and its quota, and in the landing map. -/
def queueFull (s : State) (p : Pa) (t : Thr) (us : List BowUnit) : Bool :=
  let x := s.pa p
  512 ≤ x.bow.queue.length || bowQuota s p ≤ (x.bow.queue.filter (·.thr = t)).length || landingFull x p us

/-! ## Fences (Table 4.18) -/

/-- The bytes of an SPM that an instruction in flight has yet to write. -/
def Op.writesSpm (o : Op) : Bool := o.defs.any fun d => match d with
  | .spm _ _ => true
  | _ => false

/-- A unit whose data will be written when it completes. -/
def Tag.writes (g : Tag) : Bool := !g.cancelled

/-- Bit 0: the thread's writes to the own SPM are committed. -/
def fenceSpm (x : PaState) (t : Thr) : Bool :=
  !(x.merge.any fun e => e.writers.contains t) && !(x.ops.any fun o => o.thr = t && o.writesSpm)
    && !(x.bow.queue.any fun c => c.thr = t && c.left.any (·.fetch))
    && !(x.bow.tags.any fun g => g.thr = t && g.unit.fetch && g.writes)

/-- An access in flight that writes and has not been performed. -/
def Op.owesWrite (o : Op) : Bool :=
  match o.acc with
  | some m => !m.done && (match m.kind with
    | .load _ _ => false
    | .loadDesc _ => false
    | _ => true)
  | none => o.writesSpm

/-- Bit 1: every store, atomic and DMA write of the thread is performed at its home. -/
def fenceMem (x : PaState) (t : Thr) : Bool :=
  !(x.ops.any fun o => o.thr = t && o.owesWrite) && !(x.bow.queue.any fun c => c.thr = t && c.left ≠ [])
    && !(x.bow.tags.any fun g => g.thr = t && g.writes)

/-- Bit 2: every earlier Bow command of the thread has completed (R249). -/
def fenceSrc (x : PaState) (t : Thr) : Bool := !bowBusy x t

/-- Bit 3: every issued instruction has completed. -/
def fenceUnit (x : PaState) (t : Thr) : Bool := !(x.ops.any fun o => o.thr = t)

def fenceHolds (x : PaState) (t : Thr) (bits : Nat) : Bool :=
  (!bits.testBit 0 || fenceSpm x t) && (!bits.testBit 1 || fenceMem x t) && (!bits.testBit 2 || fenceSrc x t)
    && (!bits.testBit 3 || fenceUnit x t)

/-! ## Units and issue limits (R74, R175, R269, R427) -/

/-- The unit still takes in an earlier instruction. -/
def unitTakes (x : PaState) (u : FUnit) : Bool := x.ops.any fun o => o.unit = u && x.cycle < o.busyTo

/-- The unit accepts no other instruction. A keyed instruction holds the cells from its start to its end (R193; DEDUCED, log
entry 65). -/
def unitBusy (x : PaState) (u : FUnit) : Bool := unitTakes x u || u = .cells && x.ops.any (·.keyed.isSome)

/-- A die that Soundpost treats as at warn (R367). -/
def dieWarn (s : State) (i : Nat) : Bool := s.spt.alertLow || s.spt.warn.toArray.getD i false

/-- Some stack of hub die `h` is in a thermal state. -/
def hubTherm (s : State) (h k : Nat) : Bool :=
  (upFrom (h * 6) 6).any fun n => (s.st.hbms.toArray.getD n {}).therm.val = k

/-- Table 15.4: the limit of compute die `d`, in sixteenths, with the sources that contribute. -/
def limitHbm (s : State) (d : Nat) : Nat :=
  if (upFrom 0 4).any fun h => hubTherm s h 3 then 4 else if hubTherm s (d / 2) 2 then 12 else 16

def limitThermal (s : State) (d : Nat) : Nat :=
  if dieWarn s d then 8 else if dieWarn s (8 + d / 2) then 12 else 16

/-- R429: the halt ends once every die is 3 °C below trip and no stack is Critical. -/
def settleTrip (s : State) : State :=
  if s.spt.trip.toList.any id || s.st.hbms.toList.any (·.therm = 3) then s
  else { s with capo := { s.capo with tripHalt := false } }

def dieLimit (s : State) (d : Nat) : Nat :=
  if s.capo.tripHalt || s.capo.uv then 0
  else min (min s.capo.plimF 16) (min (limitHbm s d) (limitThermal s d))

/-- R427: cell-grid issue of a PA is limited to `f` of every 16 cycles; the model withholds the last ones. -/
def throttledNow (s : State) (p : Pa) : Bool := dieLimit s (p.val / 16) ≤ (s.pa p).cycle % 16

/-- R219: an SSTAT in flight holds a record that one of these SPM offsets meets. -/
def recordHeld (x : PaState) (rs : List (Nat × Nat)) : Bool :=
  x.ops.any fun o => match o.record with
    | some r => rs.any fun g => overlap g.1 g.2 r 32
    | none => false

/-! ## Keyed instructions (R193) -/

/-- The group's issues that still wait: those of threads that stand at them. -/
def liveIssues (s : State) (g : Fin 4) : List ChordIssue :=
  (s.rp.chords[g.val]).filter fun i => (s.thr i.pa i.thr).wait = .chord && (s.thr i.pa i.thr).pc = i.fpc

/-- R193: keyed instructions of a member that are in flight or wait. -/
def keyedHeld (s : State) (g : Fin 4) (p : Pa) : Nat :=
  ((s.pa p).ops.filter (·.keyed.isSome)).length + ((liveIssues s g).filter (·.pa = p)).length

/-- The instruction still waits for key blocks (R192, R199). -/
def Op.keyLate (x : PaState) (o : Op) : Bool :=
  match o.keyCmd with
  | some k => x.bow.queue.any (·.id = k)
  | none => false

/-! ## Channels and queues (R290, R291, R296) -/

/-- The sender's view of a channel: the receiver that holds it back. -/
def chanUsed (c : Chan) : Nat := (c.recvs.filter (·.live)).foldl (fun m r => max m r.usedSeen) 0

def chanRp (c : Chan) : Nat :=
  match (c.recvs.filter (·.live)).find? fun r => r.usedSeen = chanUsed c with
  | some r => r.rpSeen
  | none => c.wp

/-- R290: where a message of `m` bytes goes in a ring, and the bytes of the pad marker before it; nothing when the
sender blocks. -/
def placeAt (size wp rp used m : Nat) : Option (Nat × Nat) :=
  if used + m ≤ size ∧ (rp ≤ wp ∨ used = 0) then
    if m ≤ size - wp then some (wp, 0)
    else if m ≤ rp then some (0, size - wp)
    else none
  else if wp < rp ∧ m ≤ rp - wp then some (wp, 0)
  else none

def Chan.size (c : Chan) : Nat := 2 ^ c.rlog

/-- The place of a message by the sender's view, which follows the live receiver furthest behind. -/
def chanPlace (c : Chan) (m : Nat) : Option (Nat × Nat) := placeAt c.size c.wp (chanRp c) (chanUsed c) m

def State.chan? (s : State) (i : Nat) : Option Chan := s.net.chans[i]?

/-- The receiver of a channel on a PA. -/
def Chan.recv? (c : Chan) (p : Pa) : Option ChRecv := c.recvs.find? (·.pa = p)

/-- R291, R294: a receive at a PA would end: a message has arrived, or a dropped receiver's last one has been taken. -/
def recvEnds (c : Chan) (p : Pa) : Bool :=
  match c.recv? p with
  | some r => r.arrived.any (!·.pad) || (!r.live && r.flying.isEmpty)
  | none => true

/-- The thread number of a contributor. -/
def cqThread (p : Pa) (t : Thr) : Nat := p.val * 8 + t.val

/-- The round of a thread's next CQADD. -/
def cqRound (c : Cq) (p : Pa) (t : Thr) : Nat := sget (fun _ => 0) c.sent (cqThread p t)

/-- R296: the CQADD waits: its round is two beyond the oldest open round. -/
def cqHeld (c : Cq) (p : Pa) (t : Thr) : Bool := c.written + 2 ≤ cqRound c p t

/-- Round `k` has been written to its slot. -/
def roundWritten (c : Cq) (k : Nat) : Bool := k < c.written || (c.early && k = c.written + 1)

/-! ## A thread's needs (R98, R133) -/

/-- How a thread waits: stalled with a cause of Table 4.19, for a busy unit, or withheld by an issue limit. -/
inductive Waits where
  | stall (cause : Nat)
  | unit
  | limit
  deriving DecidableEq, Repr

def waitIf (b : Bool) (w : Waits) : Option Waits := if b then some w else none

/-- How a thread waits for a need; not at all once it is met. -/
def Need.now (s : State) (p : Pa) (t : Thr) : Need → Option Waits
  | .regs l =>
    waitIf (dataLate (s.pa p) t l) (.stall (if (s.pa p).ops.any fun o => !o.isAmo && lateFor t l o then 1 else 7))
  | .landings l => (landingWait (s.pa p) p l).map .stall
  | .slot => waitIf (footprintsFull (s.pa p) t) (.stall 7)
  | .room off n => waitIf ((linesOf off n).any fun e => e.2 ≠ 4096 && !mergeRoom (s.pa p) (e.1 / 4096)) (.stall 5)
  | .fence bits => waitIf (!fenceHolds (s.pa p) t bits) (.stall 7)
  | .masks => waitIf (4 ≤ (s.pa p).barriers.length) (.stall 7)
  | .unit u => waitIf (unitBusy (s.pa p) u) .unit
  | .divider => waitIf ((s.pa p).cycle < (s.pa p).divTo) .unit
  | .limit => waitIf (throttledNow s p) .limit
  | .record l => waitIf (recordHeld (s.pa p) l) .unit
  | .members g =>
    waitIf (2 ≤ keyedHeld s g p) (if (s.pa p).ops.any fun o => o.keyLate (s.pa p) then .stall 2 else .unit)
  | .keyedCells => waitIf (unitTakes (s.pa p) .cells) .unit
  | .keyBlocks id => waitIf ((s.pa p).bow.queue.any (·.id = id)) (.stall 2)
  | .bow us => waitIf (queueFull s p t us) (.stall 3)
  | .ring c m => waitIf (match s.chan? c with
      | some k => !k.broken && (chanPlace k m).isNone
      | none => false) (.stall 4)
  | .round j => waitIf (match s.net.cqs[j]? with
      | some k => !k.lost && cqHeld k p t
      | none => false) (.stall 4)
  | .message c => waitIf (match s.chan? c with
      | some k => !k.broken && !recvEnds k p
      | none => false) (.stall 7)
  | .result j => waitIf (match s.net.cqs[j]? with
      | some k => !k.lost && !roundWritten k k.waits
      | none => false) (.stall 7)
  | .mesh a => waitIf (meshFull s p || (match region s a with
      | .hbm => (stopFor s (.threads p) a).any fun k => arbStopped s (.stop k)
      | _ => false)) (.stall 6)
  | .bank a => waitIf (decide (a < hbmEnd) && (!slotFree s a || queuesFull s a (sectorsOf a 8) false)) (.stall 5)
  | .issuing => waitIf ((s.pa p).cycle < (s.thr p t).holdTo) (.stall 7)

/-- The needs of a list that are not met. -/
def unmet (s : State) (p : Pa) (t : Thr) (l : List Need) : List Need := l.filter fun n => (n.now s p t).isSome

/-- Whether a thread is in run or handler state. -/
def Thread.active (t : Thread) : Bool := t.st = .run || t.st = .handler

/-- The causes of a thread's stall in this cycle. -/
def stallCauses (s : State) (p : Pa) (t : Thr) : List Nat :=
  let y := s.thr p t
  if !y.active then []
  else
    (if y.wait = .none then [] else [7]) ++ (if (losers (s.pa p)).contains t then [5] else [])
      ++ y.needs.filterMap fun n => match n.now s p t with
        | some (.stall c) => some c
        | _ => none

/-- R133: the cause that a stalled thread's cycle counts against, the lowest; 0 when it is not stalled. -/
def stallCause (s : State) (p : Pa) (t : Thr) : Nat :=
  match stallCauses s p t with
  | [] => 0
  | c :: r => r.foldl min c

/-- R98: the thread waits only for a busy unit, or is only withheld by an issue limit. -/
def waitsUnit (s : State) (p : Pa) (t : Thr) : Bool :=
  (s.thr p t).active && stallCause s p t = 0 && (s.thr p t).needs.any fun n => n.now s p t = some .unit

def waitsLimit (s : State) (p : Pa) (t : Thr) : Bool :=
  (s.thr p t).active && stallCause s p t = 0 && !waitsUnit s p t && (s.thr p t).needs.any fun n => n.now s p t = some .limit

/-- The thread is stalled: its instruction cannot issue yet (R98). -/
def stalled (s : State) (p : Pa) (t : Thr) : Bool :=
  let y := s.thr p t
  y.wait ≠ .none || y.needs.any fun n => match n.now s p t with
    | some (.stall _) => true
    | _ => false

/-! ## The sequencer (R97) -/

/-- A thread that can go on: it is in run or handler state, has not issued TEND and waits for nothing. -/
def threadReady (s : State) (p : Pa) (t : Thr) : Bool :=
  let y := s.thr p t
  y.active && !y.ending && y.wait = .none && unmet s p t y.needs = []

/-- The first ready thread in ascending order after the current one, which comes last. -/
def nextReady (s : State) (p : Pa) : Option Thr :=
  ((upFrom 1 8).map fun k => ((s.pa p).cur + Fin.ofNat 8 k : Fin 8)).find? (threadReady s p)

/-- Another thread than the current one is ready. -/
def otherReady (s : State) (p : Pa) : Bool := (nextReady s p).any fun t => t ≠ (s.pa p).cur

/-- The current thread keeps issue: it has not stalled, and can still go on. -/
def keepsIssue (s : State) (p : Pa) : Bool :=
  let x := s.pa p
  let y := x.thr x.cur
  !x.seeking && y.active && !y.ending && !stalled s p x.cur

/-- The thread that may attempt an instruction now: the current one while it keeps issue, until its 256 cycles are over and
another is ready; else the next ready one. -/
def holder (s : State) (p : Pa) : Option Thr :=
  if keepsIssue s p then (if 256 ≤ (s.pa p).runLen && otherReady s p then none else some (s.pa p).cur)
  else nextReady s p

/-! ## The cycle of a PA (R434 to R438) -/

/-- R435: the category of a cycle in which no instruction issues. A cycle in which the current thread could issue
and no command has it do so counts as unit-wait (log entry 6). -/
def slotCategory (s : State) (p : Pa) : Fin 13 :=
  let x := s.pa p
  if !(x.threads.toList.any Thread.active) then 1
  else if s.regBit (.pa p .ctrl) 0 then 2
  else if x.threads.toList.any (fun t => t.delivering && x.cycle < t.holdTo) then 3
  else if waitsLimit s p x.cur then 4
  else if stallCause s p x.cur ≠ 0 then Fin.ofNat 13 (4 + stallCause s p x.cur)
  else 12

/-- Count one in a counter of a PA. -/
def bump (s : State) (p : Pa) (r : PaReg) : State := s.setReg (.pa p r) (addCtr (s.reg (.pa p r)) 1)

/-- What thread `t` counts in a cycle (R437), as state `v` has it at its start, and the events that go with it. -/
def countThread (p : Pa) (v : State) (s : State) (t : Thr) : State :=
  let h := (v.thr p t).st = .handler
  let c := stallCause v p t
  if c ≠ 0 then
    (bump s p (.ovtTh t (Fin.ofNat 10 c))).event p { code := 0x08, amount := 1, arg := c, thr := some t, handler := some h }
  else if waitsUnit v p t then
    (bump s p (.ovtTh t 8)).event p { code := 0x09, amount := 1, thr := some t, handler := some h }
  else if waitsLimit v p t then (bump s p (.ovtTh t 9)).event p { code := 0x0A, amount := 1, thr := some t }
  else s

/-- The event of a cycle in which a unit holds an instruction. -/
def countBusy (p : Pa) (x : PaState) (u : FUnit) (code : Nat) (s : State) : State :=
  match x.ops.find? (·.unit = u) with
  | some o => s.event p { code := code, amount := 1, thr := some o.thr }
  | none => s

/-- The requests of instructions that lose arbitration in a cycle (R91). -/
def lossCount (x : PaState) : Nat :=
  (x.ops.map fun o => if engines.contains o.unit then (o.refused x).length else 0).foldl (· + ·) 0

/-- The counters of one PA cycle, whose slot falls in category `c` and which found the state as `v` has it. -/
def countEvents (p : Pa) (c : Fin 13) (v s : State) : State :=
  let x := v.pa p
  let s3 := bump s p (.ovtSlot c)
  let s4 := (List.finRange 8).foldl (countThread p v) s3
  let s5 := s4.event p { code := 0x01, amount := 1 }
  let s6 := s5.event p { code := 0x26, amount := x.bow.tags.length }
  let s7 := if lossCount x = 0 then s6 else s6.event p { code := 0x12, amount := lossCount x, master := some 0 }
  countBusy p x .cells 0x04 (countBusy p x .veu 0x05 (countBusy p x .stu 0x06 s7))

/-- The PA after a cycle: ports are free again, element groups have moved on, and a run of issues that this cycle does not
go on with is over. -/
def cyclePa (issues : Bool) (x : PaState) : PaState :=
  { portCycle x with cycle := x.cycle + 1, draining := false, runLen := if issues then x.runLen else 0 }

/-- One PA cycle of the PA, whose slot falls in category `c` (R434 to R438). -/
def countCycle (p : Pa) (c : Fin 13) (s : State) : State :=
  let s1 := (s.setReg (.pa p .ovtCycle) (addCycle (s.reg (.pa p .ovtCycle)) 1)).modPa p (cyclePa (c = 0))
  if s1.regBit (.pa p .ovtCtl) 0 then countEvents p c s s1 else s1

end Sys2Proof.Machine
end

