-- ==== Sys2Proof/Machine/Link.lean ====
section
/-! DEFINITION. The link layer of a Bridge port: flits and their CRC (R339), the flit slots that packets and reduction data
share (R359), the replay buffer (R340), and packets as flits (Tables 12.5 and 12.6). -/

namespace Sys2Proof.Machine

/-! ## CRC-32C -/

/-- One bit of CRC-32C, reflected. -/
def crcBit (c : BitVec 32) : BitVec 32 := if bit c 0 then (c >>> 1) ^^^ 0x82F63B78 else c >>> 1

def crcByte (c : BitVec 32) (b : Byte) : BitVec 32 :=
  (upFrom 0 8).foldl (fun c _ => crcBit c) (c ^^^ b.setWidth 32)

/-- CRC-32C of a byte string: the bits and the preset of the standard, which the spec names and does not spell out (PRESUMED,
log entry 84). -/
def crc32c (bs : List Byte) : BitVec 32 := ~~~ bs.foldl crcByte (BitVec.allOnes 32)

/-- Bits [95:0] of a trailer, as 12 bytes. -/
def trailerBytes (f : Flit) : List Byte :=
  leBytes 4 (f.seq.toNat + f.ack.toNat * 2 ^ 12 + (if f.ackV then 2 ^ 24 else 0) + (if f.nak then 2 ^ 25 else 0)
    + f.vc.toNat * 2 ^ 26 + f.ftype.toNat * 2 ^ 28) ++ leBytes 8 f.side.toNat

/-- R339: the CRC of a flit. -/
def flitCrc (f : Flit) : BitVec 32 := crc32c (f.payload ++ trailerBytes f)

end Sys2Proof.Machine

namespace Sys2Proof

/-- A flit that arrives whole. -/
def Flit.crcOk (f : Flit) : Bool := f.payload.length = 256 && f.crc = Machine.flitCrc f

end Sys2Proof

namespace Sys2Proof.Machine

/-- A flit with its CRC. -/
def sealed (f : Flit) : Flit := { f with crc := flitCrc f }

def State.modBrg (s : State) (n : BPort) (f : Bridge → Bridge) : State :=
  { s with brg := { s.brg with ports := s.brg.ports.set n.val (f s.brg.ports[n.val]) } }

/-! ## Flits of this device -/

/-- A flit that waits for its slot: what it carries (Table 12.3). -/
def newFlit (vc : BitVec 2) (ty : BitVec 4) (side : Word) (payload : List Byte) : Flit where
  crc := 0
  seq := 0
  ack := 0
  ackV := true
  nak := false
  vc := vc
  ftype := ty
  side := side
  payload := payload

/-- A flit takes the next sequence number, and acknowledges what has come in order. -/
def stamp (x : Bridge) (f : Flit) : Flit := sealed { f with seq := x.txSeq, ack := x.rxSeq - 1 }

/-- BRG_PORT_CFG.red_weight; 0 acts as 1. -/
def redWeight (s : State) (n : BPort) : Nat := max 1 (s.regField (.brg n .cfg) 2 3)

/-- The virtual channel that takes the next flit slot: with both waiting, reduction data takes `w` of every 8 (R359). -/
def slotVc (w : Nat) (x : Bridge) : Bool := x.wait1 ≠ [] && (x.wait0 = [] || decide (x.slot % 8 < w))

/-- One flit leaves: it stays in the replay buffer until it is acknowledged (R340). -/
def sendNext (w : Nat) (x : Bridge) : Bridge :=
  if slotVc w x then
    { x with replay := x.replay ++ (x.wait1.take 1).map (stamp x), wait1 := x.wait1.drop 1, txSeq := x.txSeq + 1, slot := x.slot + 1 }
  else
    { x with replay := x.replay ++ (x.wait0.take 1).map (stamp x), wait0 := x.wait0.drop 1, txSeq := x.txSeq + 1, slot := x.slot + 1 }

/-- Flits leave as long as the replay buffer of 512 has room. -/
def fillReplay (fuel w : Nat) (x : Bridge) : Bridge :=
  match fuel with
  | 0 => x
  | k + 1 => if 512 ≤ x.replay.length || (x.wait0 = [] && x.wait1 = []) then x else fillReplay k w (sendNext w x)

/-- What a port can send leaves. -/
def runSlots (s : State) (n : BPort) : State := s.modBrg n (fillReplay 512 (redWeight s n))

/-- Flits of a virtual channel wait for their slots, and leave as they can. -/
def pushFlits (s : State) (n : BPort) (l : List Flit) : State :=
  runSlots (s.modBrg n fun x =>
    { x with wait0 := x.wait0 ++ l.filter (·.vc = 0), wait1 := x.wait1 ++ l.filter (·.vc ≠ 0) }) n

/-! ## Packets as flits -/

/-- The packet types of Table 12.6 that this device sends. -/
inductive PktKind where
  | rd | wr | rdr | wack | assign | endTok | commit | cend | announce | withdraw | winack | rhdr | abort | restart
  deriving DecidableEq, Repr

def PktKind.code : PktKind → BitVec 8
  | .rd => 0x01 | .wr => 0x02 | .rdr => 0x03 | .wack => 0x04 | .assign => 0x10 | .endTok => 0x11 | .commit => 0x12
  | .cend => 0x13 | .announce => 0x20 | .withdraw => 0x21 | .winack => 0x22 | .rhdr => 0x30 | .abort => 0x31 | .restart => 0x32

/-- The 32-byte header of a packet (Table 12.5). -/
def headerBytes (k : BitVec 8) (p : Packet) : List Byte :=
  [k, p.dst, p.src, p.ttl] ++ leBytes 4 p.tag.toNat ++ leBytes 8 p.addr.toNat ++ leBytes 4 p.len.toNat
    ++ leBytes 4 p.status.toNat ++ leBytes 8 p.arg.toNat

/-- 256 bytes from offset `o`, zero-padded. -/
def flitPayload (bs : List Byte) (o : Nat) : List Byte :=
  let l := (bs.drop o).take 256
  l ++ List.replicate (256 - l.length) 0

/-- The flits of a packet: a start, and its continuations. -/
def packetFlits (k : BitVec 8) (p : Packet) : List Flit :=
  let bs := headerBytes k p ++ p.data
  (upFrom 0 (ceilDiv bs.length 256)).map fun i => newFlit 0 (if i = 0 then 1 else 2) 0 (flitPayload bs (256 * i))

/-- The flits of a reduction block: 16 of its data, with their place in the side word, then one whose side word is the block's
checksum (R354, DEDUCED, log entry 85). -/
def blockFlits (b : RoundBlock) : List Flit :=
  let bs := b.words.flatMap fun w => leBytes 8 w.toNat
  let side := fun (i : Nat) => b.index.setWidth 64 ||| BitVec.ofNat 64 (b.ctx.val * 2 ^ 32 + b.attempt.toNat * 2 ^ 34 + i * 2 ^ 37)
  (upFrom 0 16).map (fun i => newFlit 1 3 (side i) (flitPayload bs (256 * i))) ++ [newFlit 1 4 b.checksum (flitPayload [] 0)]

/-- An IDENT flit: the serial in its side word, the port's number and GLB_DEVADDR at the front of its payload (R341; their
places in it are the model's, DESIGN CHOICE, log entry 85). -/
def identFlit (s : State) (n : BPort) : Flit :=
  let x := s.brg.ports[n.val]
  sealed { newFlit 0 5 Config.serial (flitPayload (leBytes 1 n.val ++ leBytes 2 s.brg.devaddr.toNat) 0) with
    seq := x.txSeq, ack := x.rxSeq - 1 }

/-- A port enters Ident: its IDENT flit leaves. -/
def enterIdent (s : State) (n : BPort) (f : Bridge → Bridge) : State :=
  let s1 := s.modBrg n fun x => { f x with st := .ident }
  s1.emit (.flit n (identFlit s1 n))

/-! ## The packets of a reduction round -/

/-- A packet of the reduction engine to the neighbour at a port. Where its fields stand is not stated: the arguments of its
header and the bytes of its entries are free (log entry 85). -/
def roundPacket (s : State) (n : BPort) (k : PktKind) (fields : List Nat) (data : List Byte) : Packet where
  dst := s.brg.ports[n.val].peerAddr
  src := BitVec.ofNat 8 s.brg.devaddr.toNat
  ttl := 255
  tag := 0
  addr := Config.roundArg k.code.toNat fields 0
  len := BitVec.ofNat 32 data.length
  status := 0
  arg := Config.roundArg k.code.toNat fields 1
  data := data

/-- The 16 bytes of an entry of a round header. -/
def entryBytes (e : RoundEntry) : List Byte :=
  (upFrom 0 16).map (Config.roundByte
    [e.lgn.toNat, e.limbs.toNat, e.level.toNat, e.scheme.toNat, if e.form then 1 else 0, e.tag.toNat, e.scale.toNat,
      e.noise.toNat, e.count, if e.unreliable then 1 else 0])

end Sys2Proof.Machine
end

