-- ==== Sys2Proof/Machine/Rounds.lean ====
section
/-! DEFINITION. The Bridge's trees (R337), and the failure of a reduction round (R357, R358). -/

namespace Sys2Proof.Machine

/-- This device's address in the cascade, when it is enumerated. -/
def ownAddr (s : State) : Option Nat := if bit s.brg.devaddr 8 then some (s.brg.devaddr.toNat % 256) else none

/-- A port that packets and reduction data may use. -/
def portUsable (s : State) (n : BPort) : Bool := s.brg.ports[n.val].st = .up && !s.brg.ports[n.val].miswired

/-- The tree parent of an address. -/
def treeParent (a : Nat) : Nat := (a - 1) / 2

/-- The ports of a tree: parent, left child, right child (Table 12.1). -/
def treePort (treeB : Bool) (k : Nat) : BPort :=
  match treeB, k with
  | false, 0 => 2 | false, 1 => 3 | false, _ => 6
  | true, 0 => 4 | true, 1 => 5 | true, _ => 7

/-- The trees that a context uses: tree B is true (BRG_RC_CFG.trees). -/
def usedTrees (s : State) (j : Fin 4) : List Bool :=
  match s.regField (.sys (.rcCfg j)) 10 2 with
  | 1 => [false]
  | 2 => [true]
  | _ => [false, true]

/-- The child ports of device `a` in a tree of `n` devices that R337 connects. -/
def childPorts (a n : Nat) (treeB : Bool) : List BPort :=
  ([1, 2].filter fun k => 2 * a + k < n).map (treePort treeB)

def parentPorts (a : Nat) (treeB : Bool) : List BPort := if a = 0 then [] else [treePort treeB 0]

/-- The child ports, and the parent ports, of this device over the trees of a context. -/
def redChildren (s : State) (j : Fin 4) : List BPort :=
  match ownAddr s with
  | some a => (usedTrees s j).flatMap (childPorts a s.brg.sysCount)
  | none => []

def redParents (s : State) (j : Fin 4) : List BPort :=
  match ownAddr s with
  | some a => (usedTrees s j).flatMap (parentPorts a)
  | none => []

def State.red (s : State) (j : Fin 4) : RedCtx := s.brg.reds[j.val]

def State.modRed (s : State) (j : Fin 4) (f : RedCtx → RedCtx) : State :=
  { s with brg := { s.brg with reds := s.brg.reds.set j.val (f s.brg.reds[j.val]) } }

/-- ABORT on every port of the context's trees but one. Code 0 is an acknowledgement (log entry 21). -/
def sendAborts (s : State) (j : Fin 4) (ports : List BPort) (code : Nat) : State :=
  (ports.filter (portUsable s)).foldl (fun s n =>
    (pushFlits s n (packetFlits PktKind.abort.code (roundPacket s n .abort [j.val, code] []))).emit
      (.roundAbort n j (BitVec.ofNat 8 code))) s

/-- A running round. -/
def RedCtx.running (c : RedCtx) : Bool := c.phase ≠ .idle

/-- A round that may still fail. -/
def RedCtx.live (c : RedCtx) : Bool := c.phase ≠ .idle && c.phase ≠ .failing

/-- A round fails: ABORT carries the code to every device; the done word follows (R357, R358). -/
def failRound (code : Nat) (from_ : Option BPort) (s : State) (j : Fin 4) : State :=
  if (s.red j).live then
    let s1 := s.modRed j fun c => { c with phase := .failing, fail := BitVec.ofNat 8 code, parts := [], hdrs := [], acks := [], sent := [] }
    sendAborts s1 j ((redParents s j ++ redChildren s j).filter fun n => some n ≠ from_) code
  else s

/-- Table 12.9, code 7: the program is cancelled or unloaded; a held arm goes with it. -/
def failRounds (code : Nat) (s : State) : State :=
  (List.finRange 4).foldl (fun s j => (failRound code none s j).modRed j fun c => { c with held := none }) s

end Sys2Proof.Machine
end

