-- ==== Sys2Proof/Machine/Threads.lean ====
section
/-! DEFINITION. Threads (chapter 4): the next pc and hardware loops, exceptions, cancellation, barriers among a PA's
threads, program completion, and the attempt of an instruction. -/

namespace Sys2Proof.Machine

/-! ## The next pc (R126 to R128) -/

/-- R127: the pc after the word at `pc`, and the loops after it: every loop that ends at that word steps, innermost
first, until one goes round. -/
def stepLoops (pc : Nat) : List Loop → Nat × List Loop
  | [] => (pc + 1, [])
  | l :: r =>
    if l.last = pc then
      if 1 < l.remaining then (l.start, { l with remaining := l.remaining - 1, index := l.index + 1 } :: r)
      else stepLoops pc r
    else (pc + 1, l :: r)

/-- R136: in handler state the loop stack is frozen. -/
def nextPc (y : Thread) : Nat × List Loop :=
  if y.st = .handler then (y.pc + 1, y.loops) else stepLoops y.pc y.loops

/-- R128: the loops that a taken branch leaves: those whose body holds the target, and all that enclose them. -/
def loopsAt (target : Nat) : List Loop → List Loop
  | [] => []
  | l :: r => if l.start ≤ target ∧ target ≤ l.last then l :: r else loopsAt target r

/-- A release that the thread has had for its instruction is used up as that instruction issues. -/
def Thread.spend (y : Thread) : Option Nat := if y.released = some y.pc then none else y.released

/-- The thread after its instruction has issued in sequence. -/
def Thread.advance (y : Thread) : Thread :=
  { y with pc := (nextPc y).1, loops := (nextPc y).2, needs := [], released := y.spend, delivering := false }

/-- The thread after a taken branch or jump. -/
def Thread.jump (y : Thread) (target : Nat) : Thread :=
  { y with pc := target, loops := if y.st = .handler then y.loops else loopsAt target y.loops, needs := []
           released := y.spend, delivering := false }

/-! ## The Bow's run-ahead (R250) -/

/-- The command fetches the key blocks of an instruction in flight, which it ends with. -/
def feeds (x : PaState) (id : Nat) : Bool := x.ops.any (·.keyCmd = some id)

/-- The units of a command that have been requested are discarded as they land. -/
def dropTags (which : Tag → Bool) (l : List Tag) : List Tag :=
  l.map fun g => if which g && g.unit.fetch then { g with cancelled := true } else g

/-- R250: the thread's commands that have not had all their units requested leave the queue; the data of its requested
fetch units will be discarded, and its key blocks that nothing has consumed are discarded. -/
def cancelBow (t : Thr) (x : PaState) : PaState :=
  let hit := fun (c : BowCmd) => c.thr = t && !feeds x c.id
  { x with bow := { x.bow with
      queue := (x.bow.queue.filter fun c => !(hit c && c.left ≠ [])).map fun c =>
        if hit c && c.key.isSome then { c with aborted := true } else c
      tags := dropTags (fun g => g.thr = t && !feeds x g.cmd) x.bow.tags
      keys := x.bow.keys.filter fun k => k.1 ≠ t } }

/-- R195: the key blocks of an instruction that is aborted: no more are requested, and those in flight are discarded. -/
def dropFeed (cmd : Option Nat) (x : PaState) : PaState :=
  match cmd with
  | none => x
  | some id => { x with bow := { x.bow with
      queue := (x.bow.queue.filter fun c => !(c.id = id && c.out = 0)).map fun c =>
        if c.id = id then { c with left := [], aborted := true } else c
      tags := dropTags (fun g => g.cmd = id) x.bow.tags } }

/-- R185: member `i`'s issue of a keyed instruction no longer waits for the others. -/
def dropChord (g : Fin 4) (s : State) (keep : ChordIssue → Bool) : State :=
  { s with rp := { s.rp with chords := s.rp.chords.set g.val ((s.rp.chords[g.val]).filter keep) } }

/-! ## Exceptions (R134 to R139) -/

/-- Table 0.5. -/
def Exc.code : Exc → BitVec 8
  | .illegal => 0x01 | .priv => 0x02 | .cancel => 0x05 | .level => 0x11 | .noise => 0x12 | .scale => 0x13
  | .keytag => 0x14 | .poison => 0x15 | .overlap => 0x21 | .window => 0x22 | .align => 0x23 | .deadlock => 0x31
  | .ecc => 0x41

/-- Table 0.5: the priority, lowest first. -/
def Exc.priority : Exc → Nat
  | .illegal => 2 | .priv => 3 | .cancel => 4 | .level => 7 | .noise => 9 | .scale => 8 | .keytag => 6 | .poison => 5
  | .overlap => 11 | .window => 12 | .align => 10 | .deadlock => 13 | .ecc => 1

/-- R18: the code reported when several conditions hold. -/
def worst : List Exc → Option Exc
  | [] => none
  | e :: r => match worst r with
    | none => some e
    | some f => if e.priority ≤ f.priority then some e else some f

/-- Register files of Table 4.23. -/
inductive RegFile where
  | none | s | a | c | k | q | m
  deriving DecidableEq, Repr

def RegFile.code : RegFile → BitVec 3
  | .none => 0 | .s => 1 | .a => 2 | .c => 3 | .k => 4 | .q => 5 | .m => 6

/-- What an exception latches beside its pc: the code, the register and the data address (R134). -/
structure Cause where
  exc : Exc
  file : RegFile := .none
  reg : Nat := 0
  addr : Nat := 0
  deriving DecidableEq, Repr

/-- The exception registers that a cause latches; `overrun` is sticky. -/
def latch (old : ExcRegs) (c : Cause) (deferred double : Bool) (fpc epc : Nat) : ExcRegs :=
  { code := c.exc.code, deferred := deferred, double := double, overrun := old.overrun, reg := BitVec.ofNat 5 c.reg,
    file := c.file.code, epc := BitVec.ofNat 14 epc, fpc := BitVec.ofNat 14 fpc, addr := BitVec.ofNat 48 c.addr }

/-- A handler takes an exception of a thread (R136). -/
def handled (y : Thread) (e : Exc) (lol : Bool) : Bool :=
  y.st = .run && y.handlerOn && e ≠ .cancel && !(e = .ecc && lol)

/-- The thread enters handler state; its first instruction can issue 3 cycles later (R136). -/
def enterHandler (now : Nat) (y : Thread) : Thread :=
  { y with st := .handler, pc := y.handlerPc.toNat, needs := [], wait := .none, undelivered := false, lossOfLock := false
           holdTo := now + 3, delivering := true }

/-- The thread enters faulted state (R138). -/
def enterFault (y : Thread) : Thread :=
  { y with st := .faulted, needs := [], wait := .none, undelivered := false, lossOfLock := false, cancelled := false
           held := [], released := none, delivering := false, ending := false }

/-- R131: a thread leaves the barrier it waits at. -/
def leaveBarrier (t : Thr) (x : PaState) : PaState :=
  match (x.thr t).wait with
  | .barpa m =>
    let left := x.barriers.map fun b => if b.1 = m then (b.1, b.2 &&& ~~~ bitAt 8 t.val true) else b
    { x with barriers := left.filter (·.2 ≠ 0) }
  | _ => x

/-- The thread's exception takes it to its handler or to faulted state, on its PA alone. -/
def settleThread (e : Exc) (lol : Bool) (t : Thr) (x : PaState) : PaState :=
  let x1 := leaveBarrier t x
  if handled (x.thr t) e lol then x1.modThr t (enterHandler x.cycle)
  else cancelBow t (x1.modThr t enterFault)

/-- R131: waiters of a barrier whose mask names an ended or faulted thread, in ascending order. -/
def deadlocked (x : PaState) : List Thr :=
  (List.finRange 8).filter fun t =>
    match (x.thr t).wait with
    | .barpa m => (List.finRange 8).any fun u => bit m u.val && ((x.thr u).st = .ended || (x.thr u).st = .faulted)
    | _ => false

/-- Count an exception as it latches (Table 16.3, EXC). -/
def countExc (s : State) (p : Pa) (t : Thr) (e : Exc) : State :=
  s.event p { code := 0x0B, amount := 1, arg := e.code.toNat, thr := some t,
              handler := some ((s.thr p t).st = .handler) }

/-- R134, R136, R138: the thread's exception registers latch a precise exception at its pc, and it goes to its handler
or to faulted state. -/
def takeException (s : State) (p : Pa) (t : Thr) (c : Cause) : State :=
  let s1 := countExc s p t c.exc
  let s2 := s1.modThr p t fun y => { y with exc := latch y.exc c false (y.st = .handler) y.pc y.pc }
  s2.modPa p (settleThread c.exc false t)

/-- Waiters that a fault or an end dooms receive EXC_DEADLOCK, a precise exception of the blocked instruction (R131, R139),
until none is left: a PA has eight threads. -/
def settleBarriers (fuel : Nat) (s : State) (p : Pa) : State :=
  match fuel with
  | 0 => s
  | f + 1 => match deadlocked (s.pa p) with
    | [] => s
    | l => settleBarriers f (l.foldl (fun s t => takeException s p t { exc := .deadlock }) s) p

/-! ## Program completion and cancellation (R113, R138) -/

/-- The destination of one write holds an undefined value. -/
def abortWrite (s : State) (p : Pa) (t : Thr) : Wr → State
  | .s i _ => let (v, s1) := s.draw; s1.ws p t i.val v
  | .flags _ _ => s
  | .a i _ => let (v, s1) := s.draw; s1.modThr p t fun y => y.wa i.val v
  | .c _ _ => s
  | .mem a bs => s.scramble a bs.length
  | .tile i _ => let (v, s1) := s.draw; s1.modPa p fun x => { x with tiles := sput (fun _ => 0) x.tiles i v }
  | .acc i _ =>
    let (v, s1) := s.draw
    let (u, s2) := s1.draw
    s2.modPa p fun x => { x with accs := sput (fun _ => 0) x.accs i (v ++ u) }
  | .accOvf i _ => let (v, s1) := s.draw; s1.modPa p fun x => { x with accOvf := x.accOvf.set i.val v }
  | .accMi i row _ =>
    let (v, s1) := s.draw
    s1.modPa p fun x => { x with accMi := sput (fun _ => 0) x.accMi (i.val * 64 + row) (v.toNat % 64) }

/-- One write of an instruction, beside those to memory. -/
def applyWr (p : Pa) (t : Thr) (s : State) : Wr → State
  | .s i v => s.ws p t i.val v
  | .flags i v => s.ws p t i.val v
  | .a i v => s.modThr p t fun y => y.wa i.val v
  | .c i v => s.modThr p t fun y => y.wc i.val v
  | .mem a bs => (s.write a bs).modPa p (noteWritten (a - spmAddr p 0) bs.length)
  | .tile i v => s.modPa p fun x => { x with tiles := sput (fun _ => 0) x.tiles i v }
  | .acc i v => s.modPa p fun x => { x with accs := sput (fun _ => 0) x.accs i v }
  | .accOvf i v => s.modPa p fun x => { x with accOvf := x.accOvf.set i.val v }
  | .accMi i row v => s.modPa p fun x => { x with accMi := sput (fun _ => 0) x.accMi (i.val * 64 + row) v }

/-- R67: the poisoned bit of a thread's descriptor register. -/
def poisonReg (s : State) (p : Pa) (t : Thr) (i : Fin 16) : State :=
  s.modThr p t fun y => { y with c := y.c.set i.val (poison y.c[i.val]) }

/-- R176: the writes of an instruction's element groups before the one that read address `a`; before the one that it has
come to, where no group is known to have read `a`. -/
def Op.kept (o : Op) (a : Nat) : Nat :=
  let n := match o.groups.findIdx? fun g => g.1.any fun r => overlap r.1 r.2 (floorTo a 8) 8 with
    | some k => k
    | none => o.put
  ((o.groups.take n).map (·.2)).foldl (· + ·) 0

/-- The destination of an access in flight. -/
def abortAcc (s : State) (p : Pa) (o : Op) : State :=
  match o.acc with
  | none => s
  | some m =>
    let s0 := quitStops (.threads p) m.addr (dropFlow (.answer p o.id) (dropFlow (.access p o.id) s))
    let s1 := if travels s p m.addr then unreserve p s0 else s0
    match m.kind with
    | .load r _ => abortWrite s1 p o.thr (.s r 0)
    | .amo _ _ r => (abortWrite s1 p o.thr (.s r 0)).cloud m.addr 8
    | .loadDesc r => poisonReg s1 p o.thr r
    | .store _ => s1.cloud m.addr m.size
    | .storeDesc _ => s1.cloud m.addr 32

/-- The SPM bytes that an instruction writes, as device addresses. -/
def Op.footprint (p : Pa) (o : Op) : List (Nat × Nat) := o.defs.filterMap fun d => match d with
  | .spm lo hi => some (spmAddr p lo, hi - lo)
  | _ => none

/-- R67, R176: an instruction in flight is aborted: its first `keep` writes stand, the rest of its destination is undefined,
and its descriptor register is poisoned. The parts of a keyed instruction are known by its footprint alone. -/
def abortOp (s : State) (p : Pa) (o : Op) (keep : Nat := 0) : State :=
  let s1 := s.modPa p fun x => dropFeed o.keyCmd { x with ops := x.ops.filter (·.id ≠ o.id) }
  let s2 := (o.writes.take keep).foldl (applyWr p o.thr) s1
  let s3 := (o.writes.drop keep).foldl (fun s w => abortWrite s p o.thr w) s2
  let s4 := if o.keyed.isSome then (o.footprint p).foldl (fun s r => s.scramble r.1 r.2) s3 else s3
  let s5 := abortAcc s4 p o
  match o.poison with
  | some i => poisonReg s5 p o.thr i
  | none => s5

/-- A keyed instruction that has started is awaited no longer. -/
def dropRuns (which : ChordRun → Bool) (s : State) : State :=
  { s with rp := { s.rp with runs := s.rp.runs.filter fun r => !which r } }

/-- R195: every member's part of a group's keyed instruction, and every issue that waits for the others. -/
def abortGroup (s : State) (g : Fin 4) : State :=
  (List.finRange 128).foldl (fun s p =>
    ((s.pa p).ops.filter fun o => o.keyed.map (·.1) = some g).foldl (fun s o => abortOp s p o) s)
    ((liveIssues s g).foldl (fun s i => poisonReg s i.pa i.thr i.cd) (dropChord g (dropRuns (·.group = g) s) fun _ => false))

/-- PA p is in pa_mask. -/
def Program.has (q : Program) (p : Pa) : Bool := q.mask.getLsbD p.val

/-- R113: no thread of any PA of the program is in run or handler state. -/
def quietProgram (s : State) (q : Program) : Bool :=
  (List.finRange 128).all fun p => !q.has p || !((s.pa p).threads.toList.any Thread.active)

/-- Table 11.8: the arguments of event 1. -/
def completionArgs (q : Program) (c : Completion) : List Byte :=
  let src := match q.cancelSrc with | some k => k.val | none => 0
  match c with
  | .faulted p t code fpc =>
    byte1 2 ++ byte1 src ++ byte1 p.val ++ byte1 t.val ++ byte1 code.toNat ++ byte1 0 ++ bytes2 fpc.toNat
  | .cancelled => byte1 3 ++ byte1 src
  | _ => byte1 1

/-- The status of a program that no host, unload or timeout has cancelled. -/
def faultOf (q : Program) : Completion :=
  match q.firstFault with
  | some (p, t, code, fpc) => .faulted p t code fpc
  | none => .ended

/-- R113: which status a complete program reports. A cancel by fault_stop (source 2) leaves it faulted; any other
cancel makes it cancelled (log entry 17). -/
def completionOf (q : Program) : Completion :=
  match q.cancelSrc with
  | some k => if k = 2 then faultOf q else .cancelled
  | none => faultOf q

/-- R113: the program completes when none of its threads is in run or handler state. -/
def checkComplete (s : State) : State :=
  match s.rp.prog with
  | none => s
  | some q =>
    if q.status = .running ∧ quietProgram s q then
      let c := completionOf q
      let s1 := { s with rp := { s.rp with prog := some { q with status := c } } }
      sendAll (s1.logRec 13 0 3 (match c with | .running => 0 | .ended => 1 | .faulted _ _ _ _ => 2 | .cancelled => 3) 0) 1
        (completionArgs q c)
    else s

/-- One thread is cancelled (R138): its instructions in flight are aborted, and EXC_CANCEL ends it at its next issue
boundary, which PA_CTRL.quiesce puts off (R134). -/
def cancelThread (s : State) (p : Pa) (t : Thr) : State :=
  if (s.thr p t).active then
    let s1 := ((s.pa p).ops.filter fun o => o.thr = t).foldl (fun s o => abortOp s p o) s
    if s1.regBit (.pa p .ctrl) 0 then s1.modThr p t fun y => { y with cancelled := true }
    else
      let s2 := (countExc s1 p t .cancel).modThr p t fun y =>
        { y with exc := latch y.exc { exc := .cancel } true (y.st = .handler) y.pc y.pc }
      s2.modPa p fun x => settleThread .cancel false t x
  else s

/-- Exports that a cancel withdraws (R203): the host hears of each, and their CXPT has ended. -/
def withdrawExports (s : State) : State :=
  let l := s.rp.exports
  l.foldl (fun s e => exportEnded (poisonReg s e.pa e.thr e.cd) e.chan 3) { s with rp := { s.rp with exports := [] } }

/-- R138: a cancel of the program, from a host, an unload, fault_stop or the timeout. -/
def cancelProgram (s : State) (src : Fin 4) : State :=
  match s.rp.prog with
  | none => s
  | some q =>
    let q1 := if q.cancelSrc.isSome then q else { q with cancelSrc := some src }
    let s1 := withdrawExports <| failRounds 7 { s with rp := { s.rp with prog := some q1 } }
    let s2 := (List.finRange 4).foldl abortGroup s1
    let s3 := (List.finRange 128).foldl (fun s p =>
      if q.has p then
        settleBarriers 8 ((List.finRange 8).foldl (fun s t => cancelThread s p t) s) p
      else s) s2
    checkComplete s3

/-- R113: the first fault of the program, once a thread has entered faulted state. -/
def noteFault (s : State) (p : Pa) (t : Thr) : State :=
  let y := s.thr p t
  match s.rp.prog with
  | none => s
  | some q =>
    if y.st ≠ .faulted ∨ q.firstFault.isSome ∨ y.exc.code = Exc.cancel.code then s
    else
      let s1 := { s with rp := { s.rp with prog := some { q with firstFault := some (p, t, y.exc.code, y.exc.fpc) } } }
      if q.faultStop ∧ q.cancelSrc = none then cancelProgram s1 2 else s1

/-- After threads of PAs have taken exceptions, or ended: their barriers, the first fault, and the program. -/
def settlePas (l : List (Pa × Thr)) (s : State) : State :=
  let all := l ++ l.flatMap fun e => (List.finRange 8).map fun u => (e.1, u)
  checkComplete (all.foldl (fun s e => noteFault s e.1 e.2) (l.foldl (fun s e => settleBarriers 8 s e.1) s))

def settlePa (s : State) (p : Pa) (t : Thr) : State := settlePas [(p, t)] s

/-- R134: a precise exception of thread `t`, at its pc; then barriers and the program settle. -/
def raisePrecise (s : State) (p : Pa) (t : Thr) (c : Cause) : State := settlePa (takeException s p t c) p t

/-- Deliver a latched deferred exception (R134, R136), and then a cancel that waits. -/
def deliver (s : State) (p : Pa) (t : Thr) : State :=
  let y := s.thr p t
  let s1 :=
    if y.undelivered then
      let e : Exc := if y.exc.code = Exc.cancel.code then .cancel else if y.exc.code = Exc.window.code then .window else .ecc
      settlePa (s.modPa p (settleThread e y.lossOfLock t)) p t
    else s
  if (s1.thr p t).cancelled then
    let s2 := (s1.modThr p t fun y => { y with cancelled := false })
    checkComplete (cancelThread s2 p t)
  else s1

/-- R134, R135: a deferred exception arrives for thread `t`, of its instruction at `fpc`. -/
def raiseDeferred (s : State) (p : Pa) (t : Thr) (c : Cause) (fpc : Nat) (lol : Bool) : State :=
  let y := s.thr p t
  if y.st ≠ .run ∨ y.undelivered then
    s.modThr p t fun y => { y with exc := { y.exc with overrun := true } }
  else
    let s1 := countExc s p t c.exc
    let s2 := s1.modThr p t fun y =>
      { y with exc := latch y.exc c true false fpc y.pc, undelivered := true, lossOfLock := lol }
    if stalled s p t ∧ !s.regBit (.pa p .ctrl) 0 then deliver s2 p t else s2

/-! ## The attempt of an instruction (R97, R98, R115) -/

/-- What an instruction's meaning answers. -/
inductive Issue where
  /-- it issues, and the thread goes on in sequence -/
  | next (s : State)
  /-- it issues, and its thread's pc and loops are as the state has them -/
  | jumped (s : State)
  /-- it issues, and issue moves to the next ready thread (R124) -/
  | yield (s : State)
  /-- it cannot issue yet: its thread waits for what the list names, and the state is as given -/
  | wait (needs : List Need) (s : State)
  /-- it does not issue, and its thread has taken an exception in the state as given -/
  | taken (s : State)
  /-- it is refused with a precise exception; a destination descriptor register is poisoned (R66) -/
  | refuse (c : Cause) (dest : Option (Fin 16))

/-- PLL of the compute die of a PA (Table 1.14). -/
def paPll (p : Pa) : Nat := p.val / 16

/-- The PA's clock runs: it is online, the device is in P0 and its die's PLL is locked (R424, R434). -/
def paClocked (s : State) (p : Pa) : Bool :=
  (s.pa p).online && s.capo.state = 0 && s.clk.live.getLsbD (paPll p) && !s.clk.inReset && s.clk.powered

/-- Time passes by one PA cycle (log entry 1): every clocked PA counts it, and the Fretboard moves its packets. -/
def tick (s : State) : State :=
  netCycle ((List.finRange 128).foldl (fun s p => if paClocked s p then countCycle p (slotCategory s p) s else s)
    { s with now := s.now + 4 })

/-- Issue goes on unless some need is unmet (R98, R133). -/
def unlessWaits (s : State) (p : Pa) (t : Thr) (l : List Need) (k : Issue) : Issue :=
  match unmet s p t l with
  | [] => k
  | u => .wait u s

/-- The PA issues instructions: its clock runs, and PA_CTRL.quiesce is clear. -/
def paIssues (s : State) (p : Pa) : Bool := paClocked s p && !s.regBit (.pa p .ctrl) 0

/-- The thread may attempt an instruction: it is in run or handler state, has not issued TEND, waits for nothing and holds
issue (R97). -/
def mayAttempt (s : State) (p : Pa) (t : Thr) : Bool :=
  paIssues s p && (s.thr p t).active && !(s.thr p t).ending && (s.thr p t).wait = .none && holder s p = some t

/-- The current thread stands stalled and no other is ready: a cycle passes in which nothing issues. -/
def standsIdle (s : State) (p : Pa) (t : Thr) : Bool :=
  paIssues s p && (s.pa p).cur = t && (s.thr p t).active && !keepsIssue s p && (nextReady s p).isNone

/-- The cycle of an attempt at which nothing issues; the thread becomes the current one (R435). -/
def noIssue (s : State) (p : Pa) (t : Thr) (f : PaState → PaState) : State :=
  let s1 := s.modPa p fun x => f { x with cur := t, seeking := false }
  countCycle p (slotCategory s1 p) s1

/-- The cycle in which an instruction issues. -/
def issued (s : State) (p : Pa) (t : Thr) (h : Bool) : State :=
  let s1 := s.modPa p fun x => { x with cur := t, seeking := false, runLen := if x.cur = t then x.runLen + 1 else 1 }
  let s2 := countCycle p 0 s1
  if s2.regBit (.pa p .ovtCtl) 0 then
    (bump s2 p (.ovtTh t 0)).event p { code := 0x02, amount := 1, thr := some t, handler := some h }
  else s2

/-- Issue moves on to the next ready thread. -/
def seek (x : PaState) : PaState := { x with seeking := true }

/-- The thread has attempted an instruction that waits: issue moves on if it is stalled (R97). -/
def standAt (p : Pa) (t : Thr) (u : List Need) (s : State) : State :=
  let stall := u.any fun n => match n.now s p t with
    | some (.stall _) => true
    | _ => false
  noIssue s p t fun x => { x.modThr t (fun y => { y with needs := u }) with seeking := stall }

/-- op and grp of an instruction word (R114). -/
def wOp (w : IWord) : Nat := (field w 0 8).toNat
def wGrp (w : IWord) : Nat := (field w 8 4).toNat
def wFmt (w : IWord) : Nat := (field w 12 3).toNat
def wExt (w : IWord) : Bool := bit w 15

/-- A word spells the instruction of a group and op (R114), ext clear. -/
def spells (w : IWord) (grp op : Nat) : Bool := wGrp w = grp && wOp w = op && !wExt w

/-- Thread `t` of PA `p` attempts an instruction with meaning `body`. A thread that cannot attempt leaves the state as
it is; a latched exception is delivered in place of the instruction; issue beyond IMEM word 16,383 is illegal. -/
def attempt (p : Pa) (t : Thr) (body : State → Issue) (s : State) : State :=
  if !mayAttempt s p t then (if standsIdle s p t then countCycle p (slotCategory s p) s else s)
  else
    let y := s.thr p t
    if y.undelivered || y.cancelled then noIssue (deliver s p t) p t id
    else if (s.pa p).cycle < y.holdTo then noIssue s p t id
    else if 16384 ≤ y.pc then noIssue (raisePrecise s p t { exc := .illegal }) p t id
    else match body s with
      | .next s' => issued (s'.modThr p t Thread.advance) p t (y.st = .handler)
      | .jumped s' => issued s' p t (y.st = .handler)
      | .yield s' => (issued (s'.modThr p t Thread.advance) p t (y.st = .handler)).modPa p seek
      | .wait u s' => standAt p t u s'
      | .taken s' => noIssue s' p t id
      | .refuse c d =>
        let s1 := match d with
          | some i => poisonReg s p t i
          | none => s
        noIssue (raisePrecise s1 p t c) p t id

/-- The word is one that the version of the resident program's image reserves (R142; DESIGN CHOICE, log entry 63). -/
def reservedWord (s : State) (w : IWord) : Bool :=
  match s.rp.prog with
  | some q => q.version.toNat < 0x0102 && Config.reservedIn q.version w
  | none => false

/-- The meaning of a row whose word must spell `grp` and `op`. -/
def attemptOf (grp op : Nat) (p : Pa) (t : Thr) (w : IWord) (body : State → Issue) (s : State) : State :=
  if spells w grp op then
    attempt p t (fun s => if reservedWord s w then .refuse { exc := .illegal } none else body s) s
  else s

end Sys2Proof.Machine
end

