-- ==== Sys2Proof/Machine/Operands.lean ====
section
/-! DEFINITION. Operands: the fields of the instruction formats (Tables 4.9, 5.1, 5.2), the registers they name, the
operand kinds of format 7 and their footprints (R146 to R153), and what an instruction waits for before it issues
(R129, R233). -/

namespace Sys2Proof.Machine

/-! ## Fields of formats 0 to 5 (Table 4.9) -/

def wRd (w : IWord) : Nat := (field w 16 5).toNat
def wRs1 (w : IWord) : Nat := (field w 21 5).toNat
def wRs2 (w : IWord) : Nat := (field w 26 5).toNat
/-- Format 1: the 64-bit immediate. -/
def wImm64 (w : IWord) : Word := field w 64 64
/-- Formats 2 and 3: the target, and the end word. -/
def wTarget (w : IWord) : Nat := (field w 64 14).toNat
def wCond (w : IWord) : Nat := (field w 16 5).toNat
/-- Format 3. -/
def wLoopSrc (w : IWord) : Bool := bit w 21
def wLoopImm (w : IWord) : Nat := (field w 96 32).toNat
/-- Format 4. -/
def wMemAb (w : IWord) : Fin 16 := Fin.ofNat 16 (field w 21 4).toNat
def wMemSize (w : IWord) : Nat := (field w 25 3).toNat
def wMemSx (w : IWord) : Bool := bit w 28
def wMemRc (w : IWord) : Nat := (field w 29 5).toNat
/-- The signed 48-bit offset, as a word. -/
def wMemOff (w : IWord) : Word := (field w 64 48).signExtend 64
/-- Format 5. -/
def wArg (w : IWord) : Nat := (field w 16 8).toNat

/-- R115: the reserved bits of formats 0 to 5 are zero. -/
def rsvdZero (w : IWord) : Bool :=
  match wFmt w with
  | 0 => field w 31 97 = 0
  | 1 => field w 26 38 = 0
  | 2 => field w 31 33 = 0 && field w 78 50 = 0
  | 3 => field w 22 42 = 0 && field w 78 18 = 0
  | 4 => field w 34 30 = 0 && field w 112 16 = 0
  | 5 => field w 24 104 = 0
  | _ => true

/-- R115 for a word of groups 0 to 5 whose op takes one of the formats `fs`. -/
def formOk (fs : List Nat) (w : IWord) : Bool := fs.contains (wFmt w) && rsvdZero w

def illegal : Issue := .refuse { exc := .illegal } none

/-- The refusal of an instruction whose destination is descriptor register `d` (R66). -/
def refuse (e : Exc) (d : Option (Fin 16)) : Issue := .refuse { exc := e } d

/-- The descriptor register that a word's rd names. -/
def cDest (w : IWord) : Option (Fin 16) := if wRd w < 16 then some (Fin.ofNat 16 (wRd w)) else none

/-- R66: the refusal of a word whose destination is descriptor register rd: one of another format names none. -/
def illegalAt (fmts : List Nat) (w : IWord) : Issue := refuse .illegal (if fmts.contains (wFmt w) then cDest w else none)

/-- Of several causes, the one that R18 reports; of equal ones the first. -/
def pickCause : List (Option Cause) → Option Cause
  | [] => none
  | none :: r => pickCause r
  | some c :: r => match pickCause r with
    | none => some c
    | some d => if c.exc.priority ≤ d.exc.priority then some c else some d

/-- A cause when a condition holds. -/
def causeIf (b : Bool) (e : Exc) (file : RegFile := .none) (reg : Nat := 0) (addr : Nat := 0) : Option Cause :=
  if b then some { exc := e, file := file, reg := reg, addr := addr } else none

/-- Go on unless some condition refuses the instruction. -/
def unlessRefused (l : List (Option Cause)) (d : Option (Fin 16)) (k : Issue) : Issue :=
  match pickCause l with
  | some c => .refuse c d
  | none => k

/-! ## Waiting for earlier instructions (R129), landings (R233) and units (R74) -/

/-- Wait until the registers of an instruction are produced. -/
def needRegs (p : Pa) (t : Thr) (rs : List Res) (s : State) (k : Issue) : Issue := unlessWaits s p t [.regs rs] k

/-- What an instruction that reads and writes SPM ranges, as offsets, waits for: landings, earlier writes, and a free
footprint slot when it will write. -/
def spmNeeds (reads writes : List (Nat × Nat)) (slot : Bool) : List Need :=
  let all := reads ++ writes
  .landings all :: .regs (all.map fun r => .spm r.1 (r.1 + r.2)) :: if slot then [.slot] else []

/-- Wait for the SPM ranges of an instruction that will be in flight. -/
def needSpm (p : Pa) (t : Thr) (reads writes : List (Nat × Nat)) (s : State) (k : Issue) : Issue :=
  unlessWaits s p t (spmNeeds reads writes true) k

/-- Wait for a unit; cell-grid instructions also follow the issue limit. -/
def needUnit (p : Pa) (t : Thr) (u : FUnit) (s : State) (k : Issue) : Issue :=
  unlessWaits s p t (.unit u :: if u = .cells then [.limit] else []) k

/-- Send an instruction on its way. -/
def launch (s : State) (p : Pa) (o : Op) : State :=
  s.modPa p fun x => { x with ops := x.ops ++ [{ o with id := x.nextOp }], nextOp := x.nextOp + 1 }

/-! ## Format 6 (Table 5.1) -/

structure PFields where
  ip : Bool
  lazy : Bool
  cd : Fin 16
  cs1 : Fin 16
  cs2 : Fin 16
  ab : Fin 16
  ad : Fin 16
  as1 : Fin 16
  as2 : Fin 16
  lw : Nat
  lc : Nat
  comp : Nat
  kh : Fin 8
  imm : Nat
  /-- bits [63] and [127:82] -/
  rsvd : Bool
  deriving DecidableEq, Repr

def pFields (w : IWord) : PFields where
  ip := bit w 16
  lazy := bit w 17
  cd := fa (field w 18 4).toNat
  cs1 := fa (field w 22 4).toNat
  cs2 := fa (field w 26 4).toNat
  ab := fa (field w 30 4).toNat
  ad := fa (field w 34 4).toNat
  as1 := fa (field w 38 4).toNat
  as2 := fa (field w 42 4).toNat
  lw := (field w 46 6).toNat
  lc := (field w 52 6).toNat
  comp := (field w 58 2).toNat
  kh := Fin.ofNat 8 (field w 60 3).toNat
  imm := (field w 64 18).toNat
  rsvd := bit w 63 || field w 82 46 ≠ 0

/-! ## Format 7 (Table 5.2) -/

structure VFields where
  ip : Bool
  lazy : Bool
  mode : Nat
  d : Nat
  s1 : Nat
  s2 : Nat
  s3 : Nat
  msk : Fin 4
  rf : Fin 32
  type : Nat
  cnt : Nat
  csrc : Bool
  mi : Nat
  nl : Nat
  xa : Fin 16
  imm : Nat
  deriving DecidableEq, Repr

def vFields (w : IWord) : VFields where
  ip := bit w 16
  lazy := bit w 17
  mode := (field w 18 4).toNat
  d := (field w 22 8).toNat
  s1 := (field w 30 8).toNat
  s2 := (field w 38 8).toNat
  s3 := (field w 46 8).toNat
  msk := Fin.ofNat 4 (field w 54 2).toNat
  rf := fs (field w 56 5).toNat
  type := (field w 61 3).toNat
  cnt := (field w 64 17).toNat
  csrc := bit w 81
  mi := (field w 82 6).toNat
  nl := (field w 88 6).toNat
  xa := fa (field w 94 4).toNat
  imm := (field w 98 30).toNat

/-- Table 5.3. -/
inductive Operand where
  | none
  | vec (r : Fin 16)
  | idx (r : Fin 16)
  | tile (i : Fin 8)
  | acc (i : Fin 4) (high : Bool)
  | scalar (i : Fin 32)
  deriving DecidableEq, Repr

/-- R146: the operand that a specifier names; nothing for a reserved kind or a register out of range. -/
def Operand.of (v : Nat) : Option Operand :=
  let r := v % 32
  match v / 32 with
  | 0 => if r = 0 then some .none else Option.none
  | 1 => if r < 16 then some (.vec (fa r)) else Option.none
  | 2 => if r < 16 then some (.idx (fa r)) else Option.none
  | 3 => if r < 8 then some (.tile (Fin.ofNat 8 r)) else Option.none
  | 4 => if r < 8 then some (.acc (Fin.ofNat 4 (r % 4)) (4 ≤ r)) else Option.none
  | 5 => some (.scalar (fs r))
  | _ => Option.none

/-- The kind code of an operand. -/
def Operand.kind : Operand → Nat
  | .none => 0 | .vec _ => 1 | .idx _ => 2 | .tile _ => 3 | .acc _ _ => 4 | .scalar _ => 5

/-- The address register of an SPM vector. -/
def Operand.base? : Operand → Option (Fin 16)
  | .vec r => some r
  | .idx r => some r
  | _ => Option.none

/-- What an operand reads of the registers and of the PA's own files (R129). -/
def Operand.regs : Operand → List Res
  | .none => []
  | .vec r => [.a r]
  | .idx r => [.a r]
  | .tile i => [.tile i]
  | .acc i _ => [.acc i]
  | .scalar i => [.s i]

/-- The registers whose values an operand's address or value is taken from at issue. -/
def Operand.reads : Operand → List Res
  | .vec r => [.a r]
  | .idx r => [.a r]
  | .scalar i => [.s i]
  | _ => []

/-- R148: the limb stride of `n` elements of `sz` bytes. -/
def limbStride (n sz : Nat) : Nat := ceilTo (n * sz) 4096

/-- R148: the byte ranges of a vector of `limbs` limbs of `n` elements of `sz` bytes at an address. -/
def vecRanges (base n sz limbs : Nat) : List (Nat × Nat) :=
  if n = 0 then [] else (upFrom 0 limbs).map fun l => (base + l * limbStride n sz, n * sz)

/-- R68: what a destination's ranges and a source's ranges make of each other. -/
def overlapBad (ip : Bool) (dst src : List (Nat × Nat)) : Bool :=
  (dst.any fun a => src.any fun b => overlap a.1 a.2 b.1 b.2) && !(ip && dst == src)

/-- R109: an address register value is used as an address only with bits [63:48] zero. -/
def addrOk (v : Word) : Bool := field v 48 16 = 0

/-- R75: ranges of device addresses lie in the own SPM. -/
def rangesOwn (p : Pa) (rs : List (Nat × Nat)) : Bool := rs.all fun r => ownSpm p r.1 r.2

/-- Ranges as SPM offsets. -/
def spmOffsets (p : Pa) (rs : List (Nat × Nat)) : List (Nat × Nat) := rs.map fun r => (r.1 - spmAddr p 0, r.2)

/-- R152: entry `e` of the index tensor. -/
def indexEntry (s : State) (xa : Nat) (e : Nat) : Nat := s.num (xa + e * 4) 4

/-- Tile element `e` of tile `i`. -/
def tileAt (x : PaState) (i : Fin 8) (e : Nat) : Word := sget (fun _ => 0) x.tiles (i.val * 4096 + e)

def accAt (x : PaState) (i : Fin 4) (e : Nat) : BitVec 128 := sget (fun _ => 0) x.accs (i.val * 4096 + e)

def accRowMi (x : PaState) (i : Fin 4) (row : Nat) : Nat := sget (fun _ => 0) x.accMi (i.val * 64 + row)

/-- R148, R149, R152: the word of element `e` of limb `l` of an operand whose limbs hold `n` elements, and whether
an index was clamped. -/
def Operand.get (o : Operand) (s : State) (p : Pa) (t : Thr) (xa : Nat) (n l e : Nat) : Word × Bool :=
  let x := s.pa p
  let y := x.thr t
  match o with
  | .none => (0, false)
  | .vec r => (s.word ((y.ra r).toNat + l * limbStride n 8 + e * 8), false)
  | .idx r =>
    let i := indexEntry s xa (l * n + e)
    (s.word ((y.ra r).toNat + l * limbStride n 8 + (min i (n - 1)) * 8), n ≤ i)
  | .tile i => (tileAt x i (l * n + e), false)
  | .acc i high => (if high then (accAt x i (l * n + e)).extractLsb' 64 64 else (accAt x i (l * n + e)).extractLsb' 0 64,
                    false)
  | .scalar i => (y.rs i, false)

/-- Where element `e` of limb `l` of a destination goes: the write that puts a word there, or nothing when an index
drops it. -/
def Operand.put (o : Operand) (s : State) (p : Pa) (t : Thr) (xa : Nat) (n l e : Nat) (v : Word) : Option Wr :=
  let x := s.pa p
  let y := x.thr t
  match o with
  | .none => Option.none
  | .vec r => some (.mem ((y.ra r).toNat + l * limbStride n 8 + e * 8) (leBytes 8 v.toNat))
  | .idx r =>
    let i := indexEntry s xa (l * n + e)
    if n ≤ i then Option.none
    else some (.mem ((y.ra r).toNat + l * limbStride n 8 + i * 8) (leBytes 8 v.toNat))
  | .tile i => some (.tile (i.val * 4096 + (l * n + e)) v)
  | .acc i high =>
    let k := l * n + e
    let old := accAt x i k
    some (.acc (i.val * 4096 + k)
      (if high then v ++ old.extractLsb' 0 64 else old.extractLsb' 64 64 ++ v))
  | .scalar i => some (.s i v)

/-- Whether an index of a destination drops the element (R152). -/
def Operand.drops (o : Operand) (s : State) (xa : Nat) (n l e : Nat) : Bool :=
  match o with
  | .idx _ => n ≤ indexEntry s xa (l * n + e)
  | _ => false

/-- R147: the element count of a word. -/
def countOf (f : VFields) (y : Thread) : Nat := if f.csrc then (y.rs (f.cnt % 32)).toNat else f.cnt

end Sys2Proof.Machine
end

