-- ==== Sys2Proof/Machine/Track.lean ====
section
/-! DEFINITION. Ciphertexts, moduli and noise tracking (chapter 2): the modulus table, the checks of a descriptor, and
the level, scale, tag and noise rules of Tables 2.6 to 2.8. Scales and log2 q are Q8.4 numbers, noise Q8.8. -/

namespace Sys2Proof.Machine

/-! ## The modulus table (R45 to R48) -/

/-- R48, R78: entry `i` serves ring dimension 2^lg. -/
def entryFits (s : State) (i lg : Nat) : Bool := match modEntry s i with | some e => lg ≤ e.2.2 | none => false

/-- log2 q to the nearest sixteenth, ties up: the largest k with 2^(2k - 1) ≤ q^32. -/
def log2q16 (q : Nat) : Nat := (Nat.log2 (q ^ 32) + 1) / 2

def entryLog (s : State) (i : Nat) : Nat := match modEntry s i with | some e => log2q16 e.1 | none => 0

/-- B(k), capped at 255.9375. -/
def bOf (s : State) (k : Nat) : Nat := min 4095 (((upFrom 0 k).map (entryLog s)).foldl (· + ·) 0)

/-! ## Noise arithmetic (R59) -/

/-- A result below 0 becomes 0, one above 255.99609375 becomes 0xFFFF. -/
def satNoise (i : Int) : Nat := if i < 0 then 0 else min i.toNat 0xFFFF

/-- The integer parts of 2^(48 + 2^-i), i = 1 to 8: each is the square root of 2^48 times the one before. -/
def pow2Root : Nat → Nat
  | 1 => 398065729532860 | 2 => 334732044999536 | 3 => 306950638654743 | 4 => 293936938588304 | 5 => 287638476118102
  | 6 => 284540038248453 | 7 => 283003357999922 | 8 => 282238132792267 | _ => 281474976710656

/-- One factor of 2^(r/256): bit `8 - i` of `r`. -/
def pow2Factor (r : Nat) (v i : Nat) : Nat := if r.testBit (8 - i) then v * pow2Root i / 2 ^ 48 else v

/-- 2^(48 + r/256) for r up to 256, to within 2^-40 of itself. -/
def pow2At (r : Nat) : Nat :=
  if 256 ≤ r then 2 ^ 49 else [1, 2, 3, 4, 5, 6, 7, 8].foldl (pow2Factor r) (2 ^ 48)

/-- The least m above `lo`, at most `hi`, with 2^(48 + m/256) ≥ `v`. -/
def leastPow (fuel lo hi v : Nat) : Nat :=
  match fuel with
  | 0 => hi
  | f + 1 =>
    if hi ≤ lo + 1 then hi
    else let m := (lo + hi) / 2; if v ≤ pow2At m then leastPow f lo m v else leastPow f m hi v

/-- ceil256(log2(1 + 2^(-d/256))), for d below 4,096. No value comes nearer than 2^-20 to a multiple of 1/256 (d = 0 is
exact), so 40 bits decide. -/
def lseAdd (d : Nat) : Nat :=
  if d = 0 then 256
  else
    let q := 4096 - d
    leastPow 9 0 256 (2 ^ 48 + (pow2At (q % 256) * 2 ^ (q / 256)) / 2 ^ 16)

/-- lse(a, b), a bound on log2(2^a + 2^b). -/
def lse (a b : Nat) : Nat :=
  let d := max a b - min a b
  min 0xFFFF (max a b + if 4096 ≤ d then 1 else lseAdd d)

/-! ## The checks of a descriptor (R49 to R56) -/

/-- R49, R50, R56: a field outside its legal values. -/
def malformed (s : State) (d : Desc) : Bool :=
  dRsvd d ≠ 0 || 5 < dLgn d || 4 < dScheme d || (dScheme d = 3 && dEval d) || (dScheme d = 4 && dScale d ≠ 0)
  || modC s < dLimbs d
  || (if dScheme d = 0 || dScheme d = 2 then dLimbs d ≠ baseLimbs s + dLevel d * modLpl s else dLevel d ≠ 0)
  || dBase d % 4096 ≠ 0 || !populated s (dBase d) (objBytes s d) false

/-- R48: every entry that the object needs serves its ring dimension. -/
def entriesFit (s : State) (k lg : Nat) : Bool := (upFrom 0 k).all fun i => entryFits s i lg

/-- R50, R69: what reading descriptor register `i` raises. -/
def readChecks (s : State) (d : Desc) (i : Fin 16) : List (Option Cause) :=
  [causeIf (malformed s d) .illegal .c i.val, causeIf (dPoisoned d) .poison .c i.val]

/-- R42: a base for a footprint of `n` bytes. -/
def baseChecks (s : State) (a n : Nat) (wr : Bool) (i : Fin 16) : List (Option Cause) :=
  [causeIf (a % 4096 ≠ 0) .align .c i.val a, causeIf (!populated s a n wr) .window .c i.val a]

/-- The checks of a descriptor whose object an operation works on: R50, R69 and R48. -/
def objChecks (s : State) (d : Desc) (i : Fin 16) : List (Option Cause) :=
  readChecks s d i ++ [causeIf (!entriesFit s (dLimbs d) (12 + dLgn d)) .illegal .c i.val]

/-! ## Results (R57 to R63) -/

/-- What tracking forms of a result, all but its base. -/
structure Tracked where
  lgn : Nat
  k : Nat
  level : Nat
  scheme : Nat
  eval : Bool
  tag : BitVec 48
  scale : Nat
  noise : Nat
  unreliable : Bool
  deriving DecidableEq, Repr

/-- Table 2.5: the descriptor of a result at a base, poisoned clear. -/
def Tracked.pack (r : Tracked) (base : Nat) : Desc :=
  BitVec.ofNat 256 (base % 2 ^ 48 + r.lgn * 2 ^ 48 + (r.k - 1) * 2 ^ 52 + r.level * 2 ^ 58 + r.scheme * 2 ^ 64
    + (if r.eval then 2 ^ 67 else 0) + r.tag.toNat * 2 ^ 68 + r.scale * 2 ^ 116 + r.noise * 2 ^ 128
    + (if r.unreliable then 2 ^ 145 else 0))

/-- The fields of a descriptor as a result. -/
def tracked (d : Desc) : Tracked where
  lgn := dLgn d
  k := dLimbs d
  level := dLevel d
  scheme := dScheme d
  eval := dEval d
  tag := dTag d
  scale := dScale d
  noise := dNoise d
  unreliable := dUnreliable d

/-- PA_NCONST of a scheme: kmul, kks, krs, kpt (Table 2.14); schemes 3 and 4 have none. -/
structure NoiseConst where
  kmul : Nat
  kks : Nat
  krs : Nat
  kpt : Nat
  deriving DecidableEq, Repr

def noiseConst (s : State) (p : Pa) (scheme : Nat) : NoiseConst :=
  if scheme < 3 then
    let w := s.reg (.pa p (.nconst (Fin.ofNat 3 scheme)))
    { kmul := (field w 0 16).toNat, kks := (field w 16 16).toNat, krs := (field w 32 16).toNat
      kpt := (field w 48 16).toNat }
  else { kmul := 0, kks := 0, krs := 0, kpt := 0 }

/-- Table 2.8: the noise limit of a result. -/
def noiseLimit (s : State) (p : Pa) (r : Tracked) : Nat :=
  let margin := s.regField (.pa p .ncfg) 8 16
  let prec := s.regField (.pa p .ncfg) 24 16
  if r.scheme = 0 then satNoise ((r.scale * 16 : Nat) - (prec : Nat))
  else if r.scheme = 4 then satNoise ((bOf s r.k * 16 : Nat) - (margin : Nat))
  else satNoise ((bOf s r.k * 16 : Nat) - (r.scale * 16 : Nat) - (margin : Nat))

/-- R61: a result has exceeded its budget. -/
def overBudget (s : State) (p : Pa) (r : Tracked) : Bool :=
  r.tag ≠ 0 && (0xFFFF ≤ r.noise || noiseLimit s p r ≤ r.noise)

/-- R62, R63: the unreliable bit of a result, and EXC_NOISE under policy raise. `unrel`: an operand is unreliable. -/
def budget (s : State) (p : Pa) (unrel : Bool) (r : Tracked) : Tracked × Option Cause :=
  if unrel then ({ r with unreliable := true }, none)
  else if overBudget s p r then
    if s.regBit (.pa p .ncfg) 0 then ({ r with unreliable := true }, none)
    else ({ r with unreliable := false }, some { exc := .noise })
  else ({ r with unreliable := false }, none)

/-- R134: the register of the noisiest operand, which PA_TH_EXC names for EXC_NOISE (log entry 64). -/
def noisiest (l : List (Desc × Fin 16)) : Fin 16 :=
  (l.foldl (fun (m : Nat × Fin 16) x => if m.1 < dNoise x.1 + 1 then (dNoise x.1 + 1, x.2) else m) (0, 0)).2

/-- EXC_NOISE of a result, with the register of an operand. -/
def noiseCause (s : State) (p : Pa) (unrel : Bool) (r : Tracked) (i : Fin 16) : Option Cause :=
  (budget s p unrel r).2.map fun c => { c with file := .c, reg := i.val }

/-- R53: the tag of a result of two operands, and whether they may not meet. -/
def joinTags (a b : BitVec 48) : BitVec 48 := if a = 0 then b else a

def tagsClash (a b : BitVec 48) : Bool := a ≠ 0 && b ≠ 0 && a ≠ b

/-- R58: dimension and scheme, then limb count and level, of the descriptors of registers `i` and `j`. PA_TH_EXC names the
second for a difference, and the lower for EXC_LEVEL (log entry 64). -/
def agreeChecks (a b : Desc) (i j : Fin 16 := 0) : List (Option Cause) :=
  [causeIf (dLgn a ≠ dLgn b || dScheme a ≠ dScheme b) .illegal .c j.val,
   causeIf (dLimbs a ≠ dLimbs b || dLevel a ≠ dLevel b) .level .c (if dLevel a < dLevel b then i else j).val]

/-- The sum D of the log2 q of limbs `lo` to `hi - 1`, Q8.4 (R57). -/
def droppedLog (s : State) (lo hi : Nat) : Nat := ((upFrom lo (hi - lo)).map (entryLog s)).foldl (· + ·) 0

/-- The product of the primes of limbs `lo` to `hi - 1`. -/
def limbProduct (s : State) (lo hi : Nat) : Nat := ((upFrom lo (hi - lo)).map (modQ s)).foldl (· * ·) 1

/-- Table 2.6, addition and subtraction. -/
def trackAdd (a b : Desc) (i j : Fin 16 := 0) : Tracked × List (Option Cause) :=
  ({ tracked a with tag := joinTags (dTag a) (dTag b), noise := lse (dNoise a) (dNoise b) },
   agreeChecks a b i j ++ [causeIf (dEval a ≠ dEval b) .illegal .c j.val,
     causeIf (tagsClash (dTag a) (dTag b)) .keytag .c j.val, causeIf (dScale a ≠ dScale b) .scale .c j.val])

/-- Table 2.6: the scale of a multiply, and what refuses it. -/
def mulScale (s : State) (a b : Desc) (i j : Fin 16 := 0) : Nat × List (Option Cause) :=
  if dScheme a = 0 then
    (dScale a + dScale b,
     [causeIf (dLevel a = 0) .level .c i.val,
      causeIf (bOf s (dLimbs a) < dScale a + dScale b + 16 || 4095 < dScale a + dScale b) .scale .c j.val])
  else (dScale a, [causeIf (dScale a ≠ dScale b) .scale .c j.val])

/-- Tables 2.6 and 2.7, multiply of a ciphertext `a` by a plaintext `b` (R158). -/
def trackMulp (s : State) (p : Pa) (a b : Desc) (i j : Fin 16 := 0) : Tracked × List (Option Cause) :=
  let c := noiseConst s p (dScheme a)
  let sc := mulScale s a b i j
  let noise :=
    if dScheme a = 0 then
      min 0xFFFF (lse (min 0xFFFF (dNoise a + dScale b * 16)) (min 0xFFFF (dNoise b + dScale a * 16)) + c.kpt)
    else min 0xFFFF (dNoise a + c.kpt)
  ({ tracked a with scale := min 4095 sc.1, noise := noise, eval := true },
   agreeChecks a b i j ++ sc.2 ++ [causeIf (dPlain a || !dEval a) .illegal .c i.val,
     causeIf (!dPlain b || !dEval b) .illegal .c j.val])

/-- Tables 2.6 and 2.7, relinearising multiply of two ciphertexts under a key-switch noise (R60). -/
def trackMul (s : State) (p : Pa) (kks : Nat) (a b : Desc) (i j : Fin 16 := 0) : Tracked × List (Option Cause) :=
  let c := noiseConst s p (dScheme a)
  let sc := mulScale s a b i j
  let noise :=
    if dScheme a = 0 then
      lse (min 0xFFFF (lse (min 0xFFFF (dNoise a + dScale b * 16)) (min 0xFFFF (dNoise b + dScale a * 16)) + c.kmul)) kks
    else if dScheme a = 1 then lse (min 0xFFFF (lse (dNoise a) (dNoise b) + c.kmul)) kks
    else lse (min 0xFFFF (dNoise a + dNoise b + c.kmul)) kks
  ({ tracked a with scale := min 4095 sc.1, noise := noise, eval := true },
   agreeChecks a b i j ++ sc.2 ++ [causeIf (tagsClash (dTag a) (dTag b)) .keytag .c j.val])

/-- The limbs that CRSC drops (R160). -/
def rescaleDrop (s : State) (a : Desc) : Nat := if dScheme a = 1 then 1 else modLpl s

/-- Tables 2.6 and 2.7, rescale, modulus switch and limb drop. -/
def trackRescale (s : State) (p : Pa) (a : Desc) (i : Fin 16 := 0) : Tracked × List (Option Cause) :=
  let c := noiseConst s p (dScheme a)
  let keep := dLimbs a - rescaleDrop s a
  let dd := droppedLog s keep (dLimbs a)
  ({ tracked a with
      k := max 1 keep
      level := if dScheme a = 1 then 0 else dLevel a - 1
      scale := if dScheme a = 0 then dScale a - dd else dScale a
      noise := lse (satNoise ((dNoise a : Nat) - (dd * 16 : Nat))) c.krs },
   [causeIf (dPlain a) .illegal .c i.val,
    causeIf (if dScheme a = 1 then dLimbs a = 1 else dLevel a = 0) .level .c i.val,
    causeIf (dScheme a = 0 && dScale a < dd + 16) .scale .c i.val])

end Sys2Proof.Machine
end

