-- ==== Sys2Proof/Machine/Flags.lean ====
section
/-! DEFINITION. Results and flags: the flags word (R154), the VEU's element types (R166, R167), shifts (R168), and the
arithmetic of a cell (R76). -/

namespace Sys2Proof.Machine

/-! ## The flags word (Table 5.5) -/

def flSat : Nat := 1
def flWrap : Nat := 2
def flEmpty : Nat := 4
def flClp : Nat := 8
def flAov : Nat := 16
def flOf : Nat := 32
def flNv : Nat := 64

/-- A flag when a condition holds. -/
def flagIf (b : Bool) (f : Nat) : Nat := if b then f else 0

/-- The OR of flags. -/
def orFlags (l : List Nat) : Nat := l.foldl (· ||| ·) 0

/-! ## Element types (Table 5.12) -/

/-- The width w of a type. -/
def typeW (ty : Nat) : Nat := 8 * 2 ^ (ty / 2)

def typeSigned (ty : Nat) : Bool := ty % 2 = 1

/-- The low w bits of a lane, as the type reads them. -/
def typeIn (ty : Nat) (v : Word) : Int :=
  if typeSigned ty then signedOf (typeW ty) v.toNat else (v.toNat % 2 ^ typeW ty : Nat)

def typeMin (ty : Nat) : Int := if typeSigned ty then -(2 ^ (typeW ty - 1) : Nat) else 0

def typeMax (ty : Nat) : Int := if typeSigned ty then (2 ^ (typeW ty - 1) : Nat) - 1 else (2 ^ typeW ty : Nat) - 1

/-- The low w bits of a result, extended to 64 bits by the type. -/
def typeOut (ty : Nat) (i : Int) : Word :=
  let m := (i % (2 ^ typeW ty : Nat)).toNat
  if typeSigned ty then wordOfInt (signedOf (typeW ty) m) else BitVec.ofNat 64 m

/-- R167: an exact result, wrapped or saturated, with its flag. -/
def fitInt (ty : Nat) (sat : Bool) (i : Int) : Word × Nat :=
  if sat then
    if i < typeMin ty then (typeOut ty (typeMin ty), flSat)
    else if typeMax ty < i then (typeOut ty (typeMax ty), flSat)
    else (typeOut ty i, 0)
  else (typeOut ty i, flagIf (i < typeMin ty || typeMax ty < i) flWrap)

/-- The w-bit pattern of a lane. -/
def typePat (ty : Nat) (v : Word) : Nat := v.toNat % 2 ^ typeW ty

/-- R168, VSHL: x × 2^a, wrapped or clamped. No amount above w changes what the result and the flags are. -/
def shiftLeft (ty : Nat) (sat : Bool) (x : Word) (a : Nat) : Word × Nat :=
  fitInt ty sat (typeIn ty x * (2 ^ min a (2 * typeW ty) : Nat))

/-- R168, VSHR. -/
def shiftRight (ty : Nat) (x : Word) (a : Nat) : Word :=
  typeOut ty (if typeW ty ≤ a then 0 else (typePat ty x / 2 ^ a : Nat))

/-- R168, VSRA: the sign bit of the w-bit pattern comes in, whatever the type's signedness. -/
def shiftArith (ty : Nat) (x : Word) (a : Nat) : Word :=
  typeOut ty (signedOf (typeW ty) x.toNat / (2 ^ min a (typeW ty) : Nat))

/-! ## Cell arithmetic (R76, R77) -/

inductive CellOp where
  | mad | mul | add | sub | neg
  deriving DecidableEq, Repr

/-- L, the bit length of q, and mu. -/
def bitLen (q : Nat) : Nat := if q = 0 then 0 else Nat.log2 q + 1

/-- The Barrett remainder, in [0, 2q), and the canonical one. -/
def barrett (q : Nat) (lazy : Bool) (x : Nat) : Nat :=
  let l := bitLen q
  let mu := 2 ^ (2 * l) / q
  let qhat := x * mu / 2 ^ (2 * l)
  let r := x - qhat * q
  if !lazy && q ≤ r then r - q else r

/-- The result of a cell. -/
def cellOp (op : CellOp) (q : Nat) (lazy : Bool) (a b c : Nat) : Nat :=
  let a1 := a % q
  let b1 := b % q
  let c1 := c % q
  barrett q lazy (match op with
    | .mad => a1 * b1 + c1
    | .mul => a1 * b1
    | .add => a1 + c1
    | .sub => a1 + (q - c1)
    | .neg => q - a1)

/-- Extended Euclid: the coefficient of the first number, within a bounded number of steps. -/
def egcd (fuel : Nat) (r0 r1 s0 s1 : Int) : Int × Int :=
  match fuel with
  | 0 => (r0, s0)
  | f + 1 => if r1 = 0 then (r0, s0) else egcd f r1 (r0 - r0 / r1 * r1) s1 (s0 - r0 / r1 * s1)

/-- R47: the inverse of a number modulo q, or 0 where none exists. -/
def invMod (a q : Nat) : Nat :=
  let g := egcd 512 (a % q : Nat) q 1 0
  if g.1 = 1 then (g.2 % (q : Int)).toNat else 0

/-- x^e modulo q by squaring; e below 2^fuel. -/
def powMod (fuel x e q : Nat) : Nat :=
  match fuel with
  | 0 => 1 % q
  | f + 1 =>
    let h := powMod f (x * x % q) (e / 2) q
    if e % 2 = 1 then h * x % q else h

end Sys2Proof.Machine
end

