-- ==== Sys2Proof/Machine/Vector.lean ====
section
/-! DEFINITION. What the format 7 instructions of groups 6 to 10 share: the form of their words (R145, R146), the checks
of counts, entries, operands and footprints (R147 to R152), the lanes of an element-wise instruction (R150), and
their issue (R175). -/

namespace Sys2Proof.Machine

/-! ## The form of a word -/

/-- The operands that a word names. -/
structure VOps where
  d : Operand
  s1 : Operand
  s2 : Operand
  s3 : Operand
  deriving DecidableEq, Repr

def opOf (v : Nat) : Operand := (Operand.of v).getD .none

def vOps (f : VFields) : VOps := { d := opOf f.d, s1 := opOf f.s1, s2 := opOf f.s2, s3 := opOf f.s3 }

/-- R146: the specifier's kind is among those a position accepts, and its register exists. -/
def kindOk (ks : List Nat) (v : Nat) : Bool :=
  match Operand.of v with
  | some o => ks.contains o.kind
  | none => false

/-- R152: how many operands are addressed through the index tensor. -/
def idxOperands (f : VFields) : Nat := ([f.d, f.s1, f.s2, f.s3].filter fun v => v / 32 = 2).length

/-- R145 to R147 and R152: format, kinds and count field; a word without a kind 2 operand has xa zero. -/
def vShape (w : IWord) (dk k1 k2 k3 : List Nat) : Bool :=
  let f := vFields w
  wFmt w = 7 && kindOk dk f.d && kindOk k1 f.s1 && kindOk k2 f.s2 && kindOk k3 f.s3 && idxOperands f ≤ 1
    && (!f.csrc || f.cnt / 32 = 0)
    && (idxOperands f ≠ 0 || f.xa = 0)

/-! ## Registers -/

/-- The registers and the PA's own files that a word reads or writes (R129). -/
def vRegs (f : VFields) (o : VOps) : List Res :=
  .s f.rf :: .m f.msk :: (if f.csrc then [.s (fs (f.cnt % 32))] else []) ++ (if idxOperands f = 0 then [] else [.a f.xa])
    ++ o.d.regs ++ o.s1.regs ++ o.s2.regs ++ o.s3.regs

/-- What a destination owes besides SPM bytes. -/
def Operand.owes : Operand → List Res
  | .tile i => [.tile i]
  | .acc i _ => [.acc i]
  | .scalar i => [.s i]
  | _ => []

/-! ## Checks -/

/-- R147. -/
def countCause (n : Nat) : Option Cause := causeIf (65536 < n) .illegal

/-- R147, R78: entries mi to mi + limbs - 1 are valid. -/
def entriesCause (s : State) (mi limbs : Nat) : Option Cause :=
  causeIf (!((upFrom mi limbs).all fun i => (modEntry s i).isSome)) .illegal

/-- Bytes of SPM from the base that an address register holds: alignment (R148), and the own SPM (R75, R109). -/
def spmCauses (p : Pa) (y : Thread) (r : Fin 16) (align : Nat) (rs : List (Nat × Nat)) : List (Option Cause) :=
  let b := y.ra r.val
  [causeIf (b.toNat % align ≠ 0) .align .a r.val b.toNat,
   causeIf (rs ≠ [] && (!addrOk b || !rangesOwn p rs)) .window .a r.val b.toNat]

/-- The SPM bytes of an operand of `limbs` limbs of `n` elements of `sz` bytes. -/
def Operand.spm (o : Operand) (y : Thread) (n sz limbs : Nat) : List (Nat × Nat) :=
  match o.base? with
  | some r => vecRanges (y.ra r.val).toNat n sz limbs
  | _ => []

/-- The checks of an operand. -/
def operandCauses (p : Pa) (y : Thread) (align n limbs : Nat) (o : Operand) : List (Option Cause) :=
  match o with
  | .vec r => spmCauses p y r align (o.spm y n 8 limbs)
  | .idx r => spmCauses p y r align (o.spm y n 8 limbs)
  | .tile _ => [causeIf (4096 < limbs * n) .illegal]
  | .acc _ _ => [causeIf (4096 < limbs * n) .illegal]
  | _ => []

/-- R152: the bytes of the index tensor. -/
def indexRanges (f : VFields) (y : Thread) (total : Nat) : List (Nat × Nat) :=
  if idxOperands f = 0 || total = 0 then [] else [((y.ra f.xa.val).toNat, total * 4)]

def indexCauses (p : Pa) (f : VFields) (y : Thread) (total : Nat) : List (Option Cause) :=
  if idxOperands f = 0 then [] else spmCauses p y f.xa 4096 (indexRanges f y total)

/-! ## Lanes (R150) -/

/-- The (limb, element) pairs of an instruction, in order. -/
def elements (limbs n : Nat) : List (Nat × Nat) := (upFrom 0 limbs).flatMap fun l => (upFrom 0 n).map fun e => (l, e)

/-- R150: the element is active under its mask. -/
def activeAt (mask : Word) (k : Nat) : Bool := bit mask (k % 64)

/-- The bytes of SPM that an operand's element is read from. -/
def Operand.touch (o : Operand) (s : State) (y : Thread) (xa n l e : Nat) : List (Nat × Nat) :=
  match o with
  | .vec r => [((y.ra r.val).toNat + l * limbStride n 8 + e * 8, 8)]
  | .idx r => [(xa + (l * n + e) * 4, 4),
      ((y.ra r.val).toNat + l * limbStride n 8 + min (indexEntry s xa (l * n + e)) (n - 1) * 8, 8)]
  | _ => []

/-- Table 5.5, AOV: an accumulator row that an operand reads has its overflow flag set. -/
def Operand.overflowed (o : Operand) (x : PaState) (k : Nat) : Bool :=
  match o with
  | .acc i _ => bit (x.accOvf[i.val]) (k / 64)
  | _ => false

/-- What the lanes of an instruction make: writes and flags. -/
structure LaneOut where
  wrs : List Wr
  flags : Nat
  deriving DecidableEq, Repr

/-- One lane. -/
def runLane (s : State) (p : Pa) (t : Thr) (f : VFields) (o : VOps) (n : Nat)
    (lane : Nat → Word → Word → Word → Word × Nat) (le : Nat × Nat) : LaneOut :=
  let x := s.pa p
  let xa := ((x.thr t).ra f.xa.val).toNat
  let l := le.1
  let e := le.2
  let k := l * n + e
  let a := o.s1.get s p t xa n l e
  let b := o.s2.get s p t xa n l e
  let c := o.s3.get s p t xa n l e
  let r := lane l a.1 b.1 c.1
  { wrs := (o.d.put s p t xa n l e r.1).toList
    flags := r.2 ||| flagIf (a.2 || b.2 || c.2 || o.d.drops s xa n l e) flClp
      ||| flagIf (o.s1.overflowed x k || o.s2.overflowed x k || o.s3.overflowed x k) flAov }

/-- The active elements of an instruction. -/
def activeElements (y : Thread) (f : VFields) (limbs n : Nat) : List (Nat × Nat) :=
  (elements limbs n).filter fun le => activeAt (y.rm f.msk.val) (le.1 * n + le.2)

/-- R89: the element groups of an instruction, 512 elements of a limb each. -/
def elementGroups (limbs n : Nat) : List (List (Nat × Nat)) :=
  (upFrom 0 limbs).flatMap fun l => (upFrom 0 (ceilDiv n 512)).map fun b =>
    (upFrom (b * 512) (min 512 (n - b * 512))).map fun e => (l, e)

/-- All lanes. -/
def runLanes (s : State) (p : Pa) (t : Thr) (f : VFields) (o : VOps) (limbs n : Nat)
    (lane : Nat → Word → Word → Word → Word × Nat) : LaneOut :=
  let l := (activeElements (s.thr p t) f limbs n).map (runLane s p t f o n lane)
  { wrs := l.flatMap (·.wrs), flags := orFlags (l.map (·.flags)) }

/-- The first uncorrectable word that the active elements' sources meet (R176). -/
def firstBad (s : State) (rs : List (Nat × Nat)) : Option Nat :=
  if s.mem.unc = [] && s.mem.uncBurst = [] then none else rs.findSome? fun r => badAt s r.1 r.2

/-- The index entry that a kind 2 destination reads for an element. -/
def Operand.entry (o : Operand) (xa n l e : Nat) : List (Nat × Nat) :=
  match o with
  | .idx _ => [(xa + (l * n + e) * 4, 4)]
  | _ => []

/-- What an element reads of the SPM. -/
def touchAt (s : State) (y : Thread) (f : VFields) (o : VOps) (n : Nat) (le : Nat × Nat) : List (Nat × Nat) :=
  let xa := (y.ra f.xa.val).toNat
  o.s1.touch s y xa n le.1 le.2 ++ o.s2.touch s y xa n le.1 le.2 ++ o.s3.touch s y xa n le.1 le.2 ++ o.d.entry xa n le.1 le.2

/-- What the active elements read. -/
def touches (s : State) (p : Pa) (t : Thr) (f : VFields) (o : VOps) (limbs n : Nat) : List (Nat × Nat) :=
  (activeElements (s.thr p t) f limbs n).flatMap (touchAt s (s.thr p t) f o n)

/-- The element groups of an element-wise instruction: what each reads, and how many results it writes (R176). -/
def laneGroups (s : State) (p : Pa) (t : Thr) (f : VFields) (o : VOps) (limbs n : Nat) : List (List (Nat × Nat) × Nat) :=
  let y := s.thr p t
  (elementGroups limbs n).map fun g =>
    let act := g.filter fun le => activeAt (y.rm f.msk.val) (le.1 * n + le.2)
    (act.flatMap (touchAt s y f o n),
      if o.d = .none then 0 else (act.filter fun le => !o.d.drops s (y.ra f.xa.val).toNat n le.1 le.2).length)

/-! ## Issue (R175) -/

/-- G: work divided by a rate of `num` per `den` cycles, at least one cycle. -/
def unitCycles (work num den : Nat) : Nat := max 1 (ceilDiv (work * den) num)

/-- R82: until a transform completes, its destination holds no defined value. -/
def clouded (workspace : Bool) (s : State) (rs : List (Nat × Nat)) : State :=
  if workspace then rs.foldl (fun s r => s.scramble r.1 r.2) s else s

/-- Everything an instruction does once its checks have passed. -/
structure VWork where
  unit : FUnit
  cycles : Nat
  /-- SPM footprints of each source, and of the destination -/
  reads : List (List (Nat × Nat))
  dst : List (Nat × Nat)
  owes : List Res
  wrs : List Wr
  flags : Nat
  bad : Option Nat
  groups : List (List (Nat × Nat) × Nat) := []
  /-- bytes that its sources read of the SPM, elements of its gather, and modular operations -/
  readBytes : Nat := 0
  gathered : Nat := 0
  ops : Nat := 0
  /-- R82: the destination is workspace until the instruction completes -/
  cloud : Bool := false
  /-- the statistics record that it updates (R219) -/
  record : Option Nat := none
  deriving DecidableEq, Repr

/-- The events of an instruction as it issues (Table 16.3). -/
def countWork (s : State) (p : Pa) (t : Thr) (rd gathered ops : Nat) : State :=
  let s1 := if rd = 0 then s else s.event p { code := 0x10, amount := rd, master := some 0 }
  let s2 := if gathered = 0 then s1 else s1.event p { code := 0x28, amount := gathered, thr := some t }
  if ops = 0 then s2 else s2.event p { code := 0x03, amount := ops, thr := some t }

/-- The ranges of SPM offsets as resources. -/
def spmRes (rs : List (Nat × Nat)) : List Res := rs.map fun r => .spm r.1 (r.1 + r.2)

/-- What a well-formed word of format 7 asks for: the registers that it names, what refuses it, and its work. -/
structure VPlan where
  regs : List Res
  causes : List (Option Cause)
  work : VWork
  deriving DecidableEq, Repr

/-- R68: a destination meets a source. -/
def VWork.overlaps (v : VWork) (f : VFields) : Option Cause := causeIf (v.reads.any (overlapBad f.ip v.dst)) .overlap

/-- The instruction in flight. Where a kind 5 destination and rf name one register, the flags word stands (DESIGN CHOICE, log
entry 76). -/
def vOp (s : State) (p : Pa) (t : Thr) (f : VFields) (v : VWork) : Op where
  thr := t
  fpc := (s.thr p t).pc
  unit := v.unit
  uses := spmRes (spmOffsets p v.reads.flatten)
  defs := .s f.rf :: v.owes ++ spmRes (spmOffsets p v.dst)
  writes := v.wrs ++ [.flags f.rf (BitVec.ofNat 64 v.flags)]
  bad := v.bad.map (BitVec.ofNat 48)
  groups := v.groups
  record := v.record
  busyTo := (s.pa p).cycle + v.cycles

/-- The instruction is on its way. -/
def vSend (s : State) (p : Pa) (t : Thr) (f : VFields) (v : VWork) : State :=
  launch (countWork (clouded v.cloud s v.dst) p t v.readBytes v.gathered v.ops) p (vOp s p t f v)

/-- What an instruction with checked operands waits for: landings and earlier writes (R129, R233), a record that statistics
hold (R219), and its unit (R74, R427). -/
def VWork.needs (p : Pa) (v : VWork) : List Need :=
  let rd := spmOffsets p v.reads.flatten
  let wr := spmOffsets p v.dst
  spmNeeds rd wr true ++ (if v.unit = .stu then [.record (rd ++ wr)] else [])
    ++ .unit v.unit :: if v.unit = .cells then [.limit] else []

/-- R68 and R129: refusals and waits; then the instruction is on its way. A word with no plan is illegal. -/
def vRun (p : Pa) (t : Thr) (w : IWord) (plan : State → Option VPlan) (s : State) : Issue :=
  let f := vFields w
  match plan s with
  | none => illegal
  | some v => needRegs p t v.regs s
      (unlessRefused (v.causes ++ [v.work.overlaps f]) none
        (unlessWaits s p t (v.work.needs p) (.next (vSend s p t f v.work))))

/-- An element-wise instruction: what is its own beside its lanes. -/
structure LaneSpec where
  unit : FUnit
  align : Nat
  limbs : Nat
  /-- elements per cycle, as `num` per `den` cycles -/
  num : Nat
  den : Nat
  /-- modular operations of each element -/
  ops : Nat
  deriving DecidableEq, Repr

/-- R148: a group 9 or 10 vector that is not 4 KiB aligned runs at half the rate. -/
def halved (y : Thread) (o : VOps) : Bool :=
  [o.d, o.s1, o.s2, o.s3].any fun x => match x.base? with
    | some r => (y.ra r.val).toNat % 4096 ≠ 0
    | _ => false

/-- R153, R175: the cycles of an element-wise instruction; a gather delivers at most 64 words per cycle. -/
def laneCycles (f : VFields) (y : Thread) (o : VOps) (v : LaneSpec) (n : Nat) : Nat :=
  let work := if v.align = 8 && halved y o then 2 * (v.limbs * n) else v.limbs * n
  let own := unitCycles work v.num v.den
  if idxOperands f = 0 then own else max own (unitCycles (v.limbs * n) 64 1)

/-- The work of an element-wise instruction. -/
def laneWork (s : State) (p : Pa) (t : Thr) (f : VFields) (o : VOps) (v : LaneSpec) (n : Nat)
    (lane : Nat → Word → Word → Word → Word × Nat) : VWork :=
  let y := s.thr p t
  let out := runLanes s p t f o v.limbs n lane
  let tch := touches s p t f o v.limbs n
  let active := (activeElements y f v.limbs n).length
  { unit := v.unit, cycles := laneCycles f y o v n
    reads := [o.s1.spm y n 8 v.limbs, o.s2.spm y n 8 v.limbs, o.s3.spm y n 8 v.limbs, indexRanges f y (v.limbs * n)]
    dst := o.d.spm y n 8 v.limbs
    owes := o.d.owes, wrs := out.wrs, flags := out.flags, bad := firstBad s tch
    groups := laneGroups s p t f o v.limbs n
    readBytes := (tch.map (·.2)).foldl (· + ·) 0
    gathered := if idxOperands f = 0 then 0 else active
    ops := v.ops * active }

/-- The checks of an element-wise instruction's operands. -/
def laneCauses (p : Pa) (y : Thread) (f : VFields) (o : VOps) (v : LaneSpec) (n : Nat) : List (Option Cause) :=
  countCause n :: ([o.d, o.s1, o.s2, o.s3].flatMap (operandCauses p y v.align n v.limbs))
    ++ indexCauses p f y (v.limbs * n)

/-- The plan of an element-wise instruction with further checks `more`. -/
def lanePlan (p : Pa) (t : Thr) (f : VFields) (v : LaneSpec) (more : List (Option Cause))
    (lane : Nat → Word → Word → Word → Word × Nat) (s : State) : VPlan :=
  let o := vOps f
  let y := s.thr p t
  let n := countOf f y
  { regs := vRegs f o, causes := laneCauses p y f o v n ++ more, work := laneWork s p t f o v n lane }

end Sys2Proof.Machine
end

