-- ==== Sys2Proof/Machine/Bcu.lean ====
section
/-! DEFINITION. The Basis Conversion Unit and the reads of an accumulator (R84 to R86, R164, R165). -/

namespace Sys2Proof.Machine

/-! ## Accumulating (Table 5.11) -/

/-- T and K of a word (R164). -/
def bcuT (f : VFields) : Nat := f.imm % 64 + 1
def bcuK (f : VFields) : Nat := f.imm / 64 % 64 + 1

/-- A destination accumulator: kind 4 with reg[2] = 0. -/
def accDest (v : Nat) : Option (Fin 4) :=
  match Operand.of v with
  | some (.acc i false) => some i
  | _ => none

/-- Σ M[t][i] × A[i][col], exact. -/
def bcuSum (s : State) (x : PaState) (m : Nat) (a : Fin 8) (k row col : Nat) : Nat :=
  ((upFrom 0 k).map fun i => (s.word (m + (row * k + i) * 8)).toNat * (tileAt x a (i * 64 + col)).toNat).foldl (· + ·) 0

/-- One element of an accumulate, from the sum it starts from: the wrapped sum, and whether it wrapped past 2^128.
A sum of 64 products of words wraps at most once for each of its additions, and any wrap sets the flag. -/
def bcuElem (s : State) (x : PaState) (m : Nat) (a : Fin 8) (k row col : Nat) (from_ : BitVec 128) : BitVec 128 × Bool :=
  let v := from_.toNat + bcuSum s x m a k row col
  (BitVec.ofNat 128 v, 2 ^ 128 ≤ v)

/-- A source accumulator, whichever half its specifier names. -/
def accSource (v : Nat) : Option (Fin 4) :=
  match Operand.of v with
  | some (.acc i _) => some i
  | _ => none

/-- A row's columns. -/
def bcuRow (s : State) (x : PaState) (m : Nat) (a : Fin 8) (acc : Fin 4) (clear : Bool) (k row : Nat) :
    List (BitVec 128 × Bool) :=
  (upFrom 0 64).map fun col => bcuElem s x m a k row col (if clear then 0 else accAt x acc (row * 64 + col))

/-- The writes of one row. -/
def bcuRowWrites (acc : Fin 4) (row : Nat) (l : List (BitVec 128 × Bool)) : List Wr :=
  (l.zip (upFrom 0 64)).map fun e => .acc (acc.val * 4096 + (row * 64 + e.2)) e.1.1

/-- The overflow flags after rows below `rows` accumulated: cleared first by the clear variant. -/
def bcuFlags (old : Word) (clear : Bool) (rows : List (List (BitVec 128 × Bool))) : Word :=
  let kept := if clear then old &&& ~~~ mask 0 rows.length else old
  (rows.zip (upFrom 0 rows.length)).foldl (fun w r => w ||| bitAt 64 r.2 (r.1.any (·.2))) kept

/-- BACC and BACCZ. -/
def baccPlan (clear : Bool) (p : Pa) (t : Thr) (w : IWord) (s : State) : Option VPlan :=
  let f := vFields w
  match accDest f.d, Operand.of f.s1, Operand.of f.s2 with
  | some acc, some (.tile a), some (.vec r) =>
    if !vShape w [4] [3] [1] [0] || f.lazy || f.mode ≠ 0 || f.msk ≠ 0 || f.type ≠ 0 || f.cnt ≠ 0 || f.csrc || f.nl ≠ 0
        || (!clear && f.mi ≠ 0) || 4096 ≤ f.imm then none
    else some
      (let x := s.pa p
       let y := x.thr t
       let m := (y.ra r.val).toNat
       let rg := [(m, bcuT f * bcuK f * 8)]
       let rows := (upFrom 0 (bcuT f)).map (bcuRow s x m a acc clear (bcuK f))
       let sums := (rows.zip (upFrom 0 (bcuT f))).flatMap fun e => bcuRowWrites acc e.2 e.1
       let mis := if clear then (upFrom 0 (bcuT f)).map fun i => Wr.accMi acc i ((f.mi + i) % 64) else []
       VPlan.mk (vRegs f (vOps f)) (spmCauses p y r 8 rg)
        { unit := .cells, cycles := max 1 (ceilDiv (bcuT f * bcuK f) 8), reads := [rg], dst := [], owes := [.acc acc]
          wrs := sums ++ mis ++ [.accOvf acc (bcuFlags (x.accOvf[acc.val]) clear rows)], flags := 0
          bad := firstBad s rg, readBytes := bcuT f * bcuK f * 8, ops := bcuT f * bcuK f * 64 })
  | _, _, _ => none

/-- ACLR. -/
def aclrPlan (w : IWord) (_ : State) : Option VPlan :=
  let f := vFields w
  match accDest f.d with
  | some acc =>
    if !vShape w [4] [0] [0] [0] || f.lazy || f.mode ≠ 0 || f.msk ≠ 0 || f.type ≠ 0 || f.cnt ≠ 0 || f.csrc || f.nl ≠ 0
        || f.imm ≠ 0 then none
    else some
      (VPlan.mk (vRegs f (vOps f)) []
        { unit := .cells, cycles := 8, reads := [], dst := [], owes := [.acc acc]
          wrs := ((upFrom 0 4096).map fun e => Wr.acc (acc.val * 4096 + e) 0)
            ++ ((upFrom 0 64).map fun i => Wr.accMi acc i ((f.mi + i) % 64)) ++ [.accOvf acc 0]
          flags := 0, bad := none })
  | none => none

/-! ## Reading an accumulator (R165) -/

/-- AREDQ: the entry of each row read is valid before anything is written. -/
def aredqPlan (p : Pa) (t : Thr) (w : IWord) (s : State) : Option VPlan :=
  let f := vFields w
  match accSource f.s1 with
  | some acc =>
    if !vShape w [1, 2, 3] [4] [0] [0] || f.lazy || f.mode ≠ 0 || f.type ≠ 0 || f.nl ≠ 0 || f.mi ≠ 0 || f.imm ≠ 0
    then none
    else
      let o := vOps f
      let v : LaneSpec := { unit := .cells, align := 8, limbs := 1, num := 256, den := 1, ops := 2 }
      some
        (let x := s.pa p
         let y := x.thr t
         let n := countOf f y
         let act := activeElements y f 1 n
         let outs := act.map fun le =>
           let e := le.2
           let q := modQ s (accRowMi x acc (e / 64))
           (o.d.put s p t ((y.ra f.xa.val).toNat) n 0 e (BitVec.ofNat 64 ((accAt x acc e).toNat % q))).toList
         let flags := orFlags (act.map fun le =>
           flagIf (bit (x.accOvf[acc.val]) (le.2 / 64)) flAov
             ||| flagIf (o.d.drops s ((y.ra f.xa.val).toNat) n 0 le.2) flClp)
         let rowsOk := (upFrom 0 (ceilDiv n 64)).all fun r => (modEntry s (accRowMi x acc r)).isSome
         VPlan.mk (vRegs f (vOps f)) (laneCauses p y f o v n ++ [causeIf (!rowsOk) .illegal])
          { unit := .cells, cycles := laneCycles f y o v n, reads := [indexRanges f y n], dst := o.d.spm y n 8 1
            owes := o.d.owes, wrs := outs.flatten, flags := flags
            bad := firstBad s (indexRanges f y n)
            gathered := if idxOperands f = 0 then 0 else act.length, ops := 2 * act.length })
  | none => none

/-- AOVF: a word of the overflow flags of the accumulator's rows, whatever the count (log entry 11); an accumulator takes a
count of at most 4,096 (R149). -/
def aovfPlan (p : Pa) (t : Thr) (w : IWord) (s : State) : Option VPlan :=
  let f := vFields w
  match Operand.of f.d, accSource f.s1 with
  | some (.scalar i), some acc =>
    if !vShape w [5] [4] [0] [0] || f.lazy || f.mode ≠ 0 || f.msk ≠ 0 || f.type ≠ 0 || f.nl ≠ 0 || f.mi ≠ 0 || f.imm ≠ 0
    then none
    else some
      (VPlan.mk (vRegs f (vOps f)) [countCause (countOf f (s.thr p t)), causeIf (4096 < countOf f (s.thr p t)) .illegal]
        { unit := .veu, cycles := unitCycles (countOf f (s.thr p t)) 512 1, reads := [], dst := [], owes := [.s i]
          wrs := [.s i ((s.pa p).accOvf[acc.val])], flags := 0, bad := none })
  | _, _ => none

/-! ## The rows -/

/-- BACC. -/
def execBacc (p : Pa) (t : Thr) (w : IWord) (s : State) : Host.Outcome State Fault Refusal :=
  .next (attemptOf 8 0x00 p t w (vRun p t w (baccPlan false p t w)) s)

/-- BACCZ. -/
def execBaccz (p : Pa) (t : Thr) (w : IWord) (s : State) : Host.Outcome State Fault Refusal :=
  .next (attemptOf 8 0x01 p t w (vRun p t w (baccPlan true p t w)) s)

/-- ACLR. -/
def execAclr (p : Pa) (t : Thr) (w : IWord) (s : State) : Host.Outcome State Fault Refusal :=
  .next (attemptOf 8 0x02 p t w (vRun p t w (aclrPlan w)) s)

/-- AREDQ. -/
def execAredq (p : Pa) (t : Thr) (w : IWord) (s : State) : Host.Outcome State Fault Refusal :=
  .next (attemptOf 9 0x3A p t w (vRun p t w (aredqPlan p t w)) s)

/-- AOVF. -/
def execAovf (p : Pa) (t : Thr) (w : IWord) (s : State) : Host.Outcome State Fault Refusal :=
  .next (attemptOf 9 0x3B p t w (vRun p t w (aovfPlan p t w)) s)

end Sys2Proof.Machine
end

