-- ==== Sys2Proof/Machine/Cells.lean ====
section
/-! DEFINITION. The cell grid's element mode (group 6): descriptor operations on a window of limbs (R155 to R160) and
limb operations (R162). -/

namespace Sys2Proof.Machine

/-! ## The window of a descriptor operation (R156) -/

/-- Components that a window covers: two for comp 0 of a ciphertext result, else one. -/
def windowComps (comp : Nat) (plain : Bool) : Nat := if comp = 0 && !plain then 2 else 1

/-- Words of limb `j` of component `i` in a staged window of w limbs. -/
def stagedAt (base w n i j : Nat) : Nat := base + (i * w + j) * n * 8

/-- A staged window: its address register, the components it holds, and the bytes it takes. -/
structure Staged where
  reg : Fin 16
  base : Word
  comps : Nat
  bytes : Nat
  deriving DecidableEq, Repr

/-- A window of `comps` components. -/
def staged (y : Thread) (r : Fin 16) (comps w n : Nat) : Staged :=
  { reg := r, base := y.ra r.val, comps := comps, bytes := comps * w * n * 8 }

def Staged.range (g : Staged) : Nat × Nat := (g.base.toNat, g.bytes)

/-- R156, R75, R109. -/
def Staged.causes (p : Pa) (g : Staged) : List (Option Cause) :=
  [causeIf (g.base.toNat % 4096 ≠ 0) .align .a g.reg.val g.base.toNat,
   causeIf (!addrOk g.base || !ownSpm p g.base.toNat g.bytes) .window .a g.reg.val g.base.toNat]

/-- A word of a staged window: a plaintext window supplies its one component to every component. -/
def Staged.word (s : State) (g : Staged) (w n i j e : Nat) : Nat :=
  (s.word (stagedAt g.base.toNat w n (if g.comps = 1 then 0 else i) j + e * 8)).toNat

/-- R155: schemes 0 to 2. -/
def schemeCause (d : Desc) (i : Fin 16) : Option Cause := causeIf (3 ≤ dScheme d) .illegal .c i.val

/-- What a descriptor operation is, beside its fields: its result and what refuses it, its source windows, and the
word it computes of component `i`, limb `lw + j`, element `e`. -/
structure DescOp where
  reads : List (Desc × Fin 16)
  result : Tracked
  causes : List (Option Cause)
  srcs : List Staged
  /-- the destination window is a source as well (R159) -/
  accumulates : Bool
  cycles : Nat
  /-- modular operations of each element -/
  ops : Nat
  data : Nat → Nat → Nat → Nat

/-- An operand's unreliable bit makes the result unreliable (R63). -/
def DescOp.unreliable (o : DescOp) : Bool := o.reads.any fun x => dUnreliable x.1

/-- R157: the window that writes c[cd]. -/
def finalWindow (f : PFields) (r : Tracked) : Bool := f.lw + f.lc + 1 = r.k && (f.comp ≠ 1 || r.tag = 0)

/-- R42: the base of a result. -/
def resultBase (s : State) (y : Thread) (f : PFields) (r : Tracked) : List (Option Cause) :=
  let b := (y.ra f.ab.val).toNat % 2 ^ 48
  baseChecks s b (objBytes s (r.pack b)) true f.cd

/-- The destination window. -/
def dstWindow (y : Thread) (f : PFields) (r : Tracked) : Staged :=
  staged y f.ad (windowComps f.comp (r.tag = 0)) (f.lc + 1) (2 ^ (12 + r.lgn))

/-- R68; CMACP's accumulator may not meet a source at all (R159). -/
def descOverlap (f : PFields) (o : DescOp) (dst : Staged) : Bool :=
  o.srcs.any fun g =>
    if o.accumulates then overlap dst.base.toNat dst.bytes g.base.toNat g.bytes
    else overlapBad f.ip [dst.range] [g.range]

/-- Every check of a descriptor operation. -/
def descCauses (s : State) (p : Pa) (t : Thr) (f : PFields) (o : DescOp) : List (Option Cause) :=
  let y := s.thr p t
  let dst := dstWindow y f o.result
  o.reads.map (fun x => schemeCause x.1 x.2) ++ o.reads.flatMap (fun x => objChecks s x.1 x.2) ++ o.causes
    ++ [causeIf (o.result.k < f.lw + f.lc + 1 || (f.comp = 2 && o.result.tag = 0)) .illegal,
        noiseCause s p o.unreliable o.result (noisiest o.reads), causeIf (descOverlap f o dst) .overlap]
    ++ resultBase s y f o.result ++ dst.causes p ++ o.srcs.flatMap (Staged.causes p)

/-- The words that the window writes, in order. -/
def descWrites (f : PFields) (o : DescOp) (dst : Staged) : List Wr :=
  let n := 2 ^ (12 + o.result.lgn)
  let w := f.lc + 1
  (upFrom 0 dst.comps).flatMap fun i => (upFrom 0 w).map fun j =>
    .mem (stagedAt dst.base.toNat w n i j) (wordBytes ((upFrom 0 n).map fun e => BitVec.ofNat 64 (o.data i j e)))

/-- Elements of the window (R175). -/
def descElements (f : PFields) (r : Tracked) : Nat :=
  windowComps f.comp (r.tag = 0) * (f.lc + 1) * 2 ^ (12 + r.lgn)

/-- The SPM ranges that a descriptor operation reads: its sources, and the window that it accumulates into. -/
def descReads (y : Thread) (f : PFields) (o : DescOp) : List (Nat × Nat) :=
  (o.srcs.map Staged.range) ++ if o.accumulates then [(dstWindow y f o.result).range] else []

/-- The instruction in flight of a descriptor operation whose window is written by `data`: the final window also writes
c[cd] (R157). -/
def descFlight (s : State) (p : Pa) (t : Thr) (f : PFields) (o : DescOp) (data : List Wr) : Op :=
  let y := s.thr p t
  let rd := descReads y f o
  let r := (budget s p o.unreliable o.result).1
  let last := finalWindow f r
  { thr := t, fpc := y.pc, unit := .cells, uses := spmRes (spmOffsets p rd)
    defs := (if last then [.c f.cd] else []) ++ spmRes (spmOffsets p [(dstWindow y f o.result).range])
    writes := data ++ (if last then [.c f.cd (r.pack ((y.ra f.ab.val).toNat % 2 ^ 48))] else [])
    poison := some f.cd
    bad := (firstBad s rd).map (BitVec.ofNat 48)
    busyTo := (s.pa p).cycle + o.cycles }

/-- The operation is on its way, with `ops` modular operations; `cloud` when its destination is workspace (R82). -/
def descSend (s : State) (p : Pa) (t : Thr) (f : PFields) (o : DescOp) (data : List Wr) (cloud : Bool) (ops : Nat) :
    State :=
  let y := s.thr p t
  launch (countWork (clouded cloud s [(dstWindow y f o.result).range]) p t
    (((descReads y f o).map (·.2)).foldl (· + ·) 0) 0 ops) p (descFlight s p t f o data)

/-- What a descriptor operation on the cells with checked operands waits for. -/
def cellNeeds (p : Pa) (reads writes : List (Nat × Nat)) : List Need :=
  spmNeeds (spmOffsets p reads) (spmOffsets p writes) true ++ [.unit .cells, .limit]

/-- A descriptor operation, its checks and its window (R155 to R157, R175). -/
def descRun (p : Pa) (t : Thr) (f : PFields) (o : DescOp) (data : List Wr) (cloud : Bool) (ops : Nat) (s : State) :
    Issue :=
  let y := s.thr p t
  unlessRefused (descCauses s p t f o) (some f.cd)
    (unlessWaits s p t (cellNeeds p (descReads y f o) [(dstWindow y f o.result).range])
      (.next (descSend s p t f o data cloud ops)))

/-- One of the cells, element by element. -/
def descIssue (p : Pa) (t : Thr) (f : PFields) (o : DescOp) (s : State) : Issue :=
  descRun p t f o (descWrites f o (dstWindow (s.thr p t) f o.result)) false (o.ops * descElements f o.result) s

/-- The registers of a descriptor operation. -/
def descRegs (f : PFields) (two : Bool) : List Res :=
  [.c f.cd, .c f.cs1, .a f.ab, .a f.ad, .a f.as1] ++ if two then [.c f.cs2, .a f.as2] else [.a f.as2]

/-- R145: the form of a descriptor word, whose fields that the operation does not use are zero. -/
def descOk (f : PFields) (unusedZero : Bool) : Bool := !(f.rsvd || f.comp = 3 || f.kh ≠ 0 || !unusedZero)

/-- A descriptor word of another form is illegal; a refusal of format 6 poisons its destination. -/
def descForm (w : IWord) (unusedZero : Bool) (p : Pa) (t : Thr) (two : Bool) (s : State) (k : PFields → Issue) : Issue :=
  let f := pFields w
  if wFmt w ≠ 6 then illegal
  else if !descOk f unusedZero then refuse .illegal (some f.cd)
  else needRegs p t (descRegs f two) s (k f)

/-! ## The operations of Table 5.6 -/

/-- Elements at 512 per cycle. -/
def fullRate (f : PFields) (r : Tracked) : Nat := unitCycles (descElements f r) 512 1

/-- How many components of a source window an operand stages. -/
def srcComps (f : PFields) (d : Desc) : Nat := windowComps f.comp (dPlain d)

/-- CADD, CSUB, CMULP: two sources, element by element. -/
def twoSource (s : State) (p : Pa) (t : Thr) (f : PFields) (op : CellOp) (r : Tracked × List (Option Cause)) : DescOp :=
  let y := s.thr p t
  let d1 := y.rc f.cs1.val
  let d2 := y.rc f.cs2.val
  let n := dN d1
  let w := f.lc + 1
  let g1 := staged y f.as1 (srcComps f d1) w n
  let g2 := staged y f.as2 (srcComps f d2) w n
  { reads := [(d1, f.cs1), (d2, f.cs2)], result := r.1, causes := r.2, srcs := [g1, g2], accumulates := false
    cycles := fullRate f r.1, ops := 1
    data := fun i j e =>
      let b := g2.word s w n i j e
      cellOp op (modQ s (f.lw + j)) f.lazy (g1.word s w n i j e) b b }

/-- CADD's and CSUB's operation, and CMULP's. -/
def addOp (op : CellOp) (s : State) (p : Pa) (t : Thr) (f : PFields) : DescOp :=
  twoSource s p t f op (trackAdd ((s.thr p t).rc f.cs1.val) ((s.thr p t).rc f.cs2.val) f.cs1 f.cs2)

def mulpOp (s : State) (p : Pa) (t : Thr) (f : PFields) : DescOp :=
  twoSource s p t f .mul (trackMulp s p ((s.thr p t).rc f.cs1.val) ((s.thr p t).rc f.cs2.val) f.cs1 f.cs2)

/-- CADD and CSUB. -/
def addBody (op : CellOp) (p : Pa) (t : Thr) (w : IWord) (s : State) : Issue :=
  descForm w ((pFields w).imm = 0) p t true s fun f => descIssue p t f (addOp op s p t f) s

/-- CMULP. -/
def cmulpBody (p : Pa) (t : Thr) (w : IWord) (s : State) : Issue :=
  descForm w ((pFields w).imm = 0) p t true s fun f => descIssue p t f (mulpOp s p t f) s

/-- CNEG's operation. -/
def negOp (s : State) (p : Pa) (t : Thr) (f : PFields) : DescOp :=
  let y := s.thr p t
  let d := y.rc f.cs1.val
  let n := dN d
  let g := staged y f.as1 (srcComps f d) (f.lc + 1) n
  { reads := [(d, f.cs1)], result := tracked d, causes := [], srcs := [g], accumulates := false
    cycles := fullRate f (tracked d), ops := 1
    data := fun i j e => cellOp .neg (modQ s (f.lw + j)) f.lazy (g.word s (f.lc + 1) n i j e) 0 0 }

/-- CNEG. -/
def cnegBody (p : Pa) (t : Thr) (w : IWord) (s : State) : Issue :=
  descForm w ((pFields w).imm = 0 && (pFields w).cs2 = 0 && (pFields w).as2 = 0) p t false s fun f =>
    descIssue p t f (negOp s p t f) s

/-- R159: tracking of a CMACP: a plaintext multiply, then an add into the accumulator. -/
def trackMac (s : State) (p : Pa) (acc a b : Desc) (d i j : Fin 16 := 0) : Tracked × List (Option Cause) :=
  let m := trackMulp s p a b i j
  ({ tracked acc with tag := joinTags (dTag acc) (dTag a), noise := lse (dNoise acc) m.1.noise },
   m.2 ++ agreeChecks a acc i d ++ [causeIf (dPlain acc || !dEval acc) .illegal .c d.val,
     causeIf (tagsClash (dTag acc) (dTag a)) .keytag .c d.val, causeIf (m.1.scale ≠ dScale acc) .scale .c d.val])

/-- CMACP's operation: its destination window is a source. -/
def macOp (s : State) (p : Pa) (t : Thr) (f : PFields) : DescOp :=
  let y := s.thr p t
  let d1 := y.rc f.cs1.val
  let d2 := y.rc f.cs2.val
  let dc := y.rc f.cd.val
  let r := trackMac s p dc d1 d2 f.cd f.cs1 f.cs2
  let n := dN d1
  let w := f.lc + 1
  let g1 := staged y f.as1 (srcComps f d1) w n
  let g2 := staged y f.as2 (srcComps f d2) w n
  let acc := dstWindow y f r.1
  { reads := [(d1, f.cs1), (d2, f.cs2), (dc, f.cd)], result := r.1, causes := r.2, srcs := [g1, g2]
    accumulates := true
    cycles := unitCycles (descElements f r.1) 1024 3, ops := 1
    data := fun i j e => cellOp .mad (modQ s (f.lw + j)) f.lazy (g1.word s w n i j e) (g2.word s w n i j e)
      (acc.word s w n i j e) }

/-- CMACP. -/
def cmacpBody (p : Pa) (t : Thr) (w : IWord) (s : State) : Issue :=
  descForm w ((pFields w).imm = 0 && (pFields w).ip) p t true s fun f => descIssue p t f (macOp s p t f) s

/-- CRSC's operation: the correction window has the layout of cs1's. -/
def rescaleOp (s : State) (p : Pa) (t : Thr) (f : PFields) : DescOp :=
  let y := s.thr p t
  let d := y.rc f.cs1.val
  let r := trackRescale s p d f.cs1
  let n := dN d
  let w := f.lc + 1
  let g1 := staged y f.as1 (srcComps f d) w n
  let g2 := staged y f.as2 (srcComps f d) w n
  let qd := limbProduct s (dLimbs d - rescaleDrop s d) (dLimbs d)
  { reads := [(d, f.cs1)], result := r.1, causes := r.2, srcs := [g1, g2], accumulates := false
    cycles := unitCycles (descElements f r.1) 256 1, ops := 2
    data := fun i j e =>
      let q := modQ s (f.lw + j)
      cellOp .mul q f.lazy (cellOp .sub q f.lazy (g1.word s w n i j e) 0 (g2.word s w n i j e)) (invMod qd q) 0 }

/-- CRSC. -/
def crscBody (p : Pa) (t : Thr) (w : IWord) (s : State) : Issue :=
  descForm w ((pFields w).imm = 0 && (pFields w).cs2 = 0) p t false s fun f => descIssue p t f (rescaleOp s p t f) s

/-! ## Limb operations (Table 5.9) -/

/-- Kind 1 and kind 2 sources of a word. -/
def vectorSources (o : VOps) : Nat := ([o.s1, o.s2, o.s3].filter fun x => x.base?.isSome).length

/-- A limb operation with `k2` and `k3` the kinds its second and third sources may take. -/
def limbPlan (op : CellOp) (k2 k3 : List Nat) (p : Pa) (t : Thr) (w : IWord) (s : State) : Option VPlan :=
  let f := vFields w
  if !vShape w [1, 2, 3] [1, 2, 3, 4, 5] k2 k3 || f.mode ≠ 0 || f.type ≠ 0 || f.imm ≠ 0 then none
  else
    let three := op = .mad && vectorSources (vOps f) = 3
    some (lanePlan p t f
      { unit := .cells, align := 4096, limbs := f.nl + 1, num := if three then 1024 else 512, den := if three then 3 else 1
        ops := 1 }
      [entriesCause s f.mi (f.nl + 1)]
      (fun l a b c =>
        let third := if op = .mad then c else b
        (BitVec.ofNat 64 (cellOp op (modQ s (f.mi + l)) f.lazy a.toNat b.toNat third.toNat), 0)) s)

/-! ## The rows -/

/-- CADD. -/
def execCadd (p : Pa) (t : Thr) (w : IWord) (s : State) : Host.Outcome State Fault Refusal :=
  .next (attemptOf 6 0x00 p t w (addBody .add p t w) s)

/-- CSUB. -/
def execCsub (p : Pa) (t : Thr) (w : IWord) (s : State) : Host.Outcome State Fault Refusal :=
  .next (attemptOf 6 0x01 p t w (addBody .sub p t w) s)

/-- CNEG. -/
def execCneg (p : Pa) (t : Thr) (w : IWord) (s : State) : Host.Outcome State Fault Refusal :=
  .next (attemptOf 6 0x02 p t w (cnegBody p t w) s)

/-- CMULP. -/
def execCmulp (p : Pa) (t : Thr) (w : IWord) (s : State) : Host.Outcome State Fault Refusal :=
  .next (attemptOf 6 0x03 p t w (cmulpBody p t w) s)

/-- CMACP. -/
def execCmacp (p : Pa) (t : Thr) (w : IWord) (s : State) : Host.Outcome State Fault Refusal :=
  .next (attemptOf 6 0x04 p t w (cmacpBody p t w) s)

/-- CRSC. -/
def execCrsc (p : Pa) (t : Thr) (w : IWord) (s : State) : Host.Outcome State Fault Refusal :=
  .next (attemptOf 6 0x05 p t w (crscBody p t w) s)

/-- LMAD. -/
def execLmad (p : Pa) (t : Thr) (w : IWord) (s : State) : Host.Outcome State Fault Refusal :=
  .next (attemptOf 6 0x10 p t w (vRun p t w (limbPlan .mad [1, 2, 3, 4, 5] [1, 2, 3, 4, 5] p t w)) s)

/-- LMUL. -/
def execLmul (p : Pa) (t : Thr) (w : IWord) (s : State) : Host.Outcome State Fault Refusal :=
  .next (attemptOf 6 0x11 p t w (vRun p t w (limbPlan .mul [1, 2, 3, 4, 5] [0] p t w)) s)

/-- LADD. -/
def execLadd (p : Pa) (t : Thr) (w : IWord) (s : State) : Host.Outcome State Fault Refusal :=
  .next (attemptOf 6 0x12 p t w (vRun p t w (limbPlan .add [1, 2, 3, 4, 5] [0] p t w)) s)

/-- LSUB. -/
def execLsub (p : Pa) (t : Thr) (w : IWord) (s : State) : Host.Outcome State Fault Refusal :=
  .next (attemptOf 6 0x13 p t w (vRun p t w (limbPlan .sub [1, 2, 3, 4, 5] [0] p t w)) s)

/-- LNEG. -/
def execLneg (p : Pa) (t : Thr) (w : IWord) (s : State) : Host.Outcome State Fault Refusal :=
  .next (attemptOf 6 0x14 p t w (vRun p t w (limbPlan .neg [0] [0] p t w)) s)

end Sys2Proof.Machine
end

