-- ==== Sys2Proof/Machine/Butterfly.lean ====
section
/-! DEFINITION. The Butterfly Network (group 7: R80 to R83, R163): transforms and automorphisms of limbs. -/

namespace Sys2Proof.Machine

/-! ## Transforms (R80) -/

/-- i with its `b` low bits reversed. -/
def brv : Nat → Nat → Nat
  | 0, _ => 0
  | b + 1, i => i % 2 * 2 ^ b + brv b (i / 2)

/-- ψ_N of an entry, for N = 2^lg. -/
def psiN (s : State) (i lg : Nat) : Nat :=
  match modEntry s i with
  | some e => powMod 64 e.2.1 (2 ^ (e.2.2 - lg)) e.1
  | none => 0

/-- Σ_j x_j · r^j modulo q, by Horner's rule from the last word. -/
def polyAt (q r : Nat) : List Nat → Nat
  | [] => 0
  | x :: l => (x + r * polyAt q r l) % q

/-- The forward transform of a limb. -/
def nttList (q psi lg : Nat) (l : List Nat) : List Nat :=
  (upFrom 0 (2 ^ lg)).map fun i => polyAt q (powMod 64 psi (2 * brv lg i + 1) q) (l.map (· % q))

/-- a_j of the inverse transform: N⁻¹ Σ_i y_i ψ^(-(2 brv(i) + 1) j). -/
def inttAt (q psiInv lg j : Nat) (l : List Nat) : Nat :=
  let sum := (l.zip (upFrom 0 (2 ^ lg))).foldl (fun acc yi =>
    (acc + yi.1 * powMod 64 psiInv ((2 * brv lg yi.2 + 1) * j) q) % q) 0
  sum * invMod (2 ^ lg) q % q

/-- The inverse transform of a limb. -/
def inttList (q psi lg : Nat) (l : List Nat) : List Nat :=
  let r := invMod psi q
  (upFrom 0 (2 ^ lg)).map fun j => inttAt q r lg j (l.map (· % q))

/-- Table 3.3: pass cycles of one limb of dimension 2^lg. -/
def passCycles (lg : Nat) : Nat :=
  match lg with
  | 12 => 48 | 13 => 112 | 14 => 224 | 15 => 512 | 16 => 1024 | _ => 2304

/-! ## Automorphisms (R83) -/

/-- Evaluation form: word i of the result is word i' of the source, 2·brv(i') + 1 ≡ (2·brv(i) + 1)·g mod 2N. -/
def autEval (lg g : Nat) (l : List Nat) : List Nat :=
  (upFrom 0 (2 ^ lg)).map fun i => l.getD (brv lg (((2 * brv lg i + 1) * g % (2 * 2 ^ lg) - 1) / 2)) 0

/-- Coefficient form: where a_j goes, and as what. -/
def autCoefAt (q lg g j a : Nat) : Nat × Nat :=
  let n := 2 ^ lg
  let t := j * g % (2 * n)
  if t < n then (t, a) else (t - n, (q - a % q) % q)

/-- Coefficient form: every source word goes to its place; g is odd, so every place receives one. -/
def autCoef (q lg g : Nat) (l : List Nat) : List Nat :=
  let moved := (l.zip (upFrom 0 (2 ^ lg))).map fun aj => autCoefAt q lg g aj.2 aj.1
  (upFrom 0 (2 ^ lg)).map fun t => match moved.find? (·.1 = t) with
    | some m => m.2
    | none => 0

/-- R83: g is odd and below 2N. -/
def galoisBad (g n : Nat) : Bool := g % 2 = 0 || 2 * n ≤ g

/-! ## Descriptor forms (R156, R157, R163) -/

/-- What a limb operation makes of a whole limb, for entry `i` and dimension 2^lg. -/
abbrev LimbOp := State → Nat → Nat → List Nat → List Nat

def nttOp : LimbOp := fun s i lg l => nttList (modQ s i) (psiN s i lg) lg l
def inttOp : LimbOp := fun s i lg l => inttList (modQ s i) (psiN s i lg) lg l
def autOp (eval : Bool) (g : Nat) : LimbOp := fun s i lg l =>
  if eval then autEval lg g l else autCoef (modQ s i) lg g l

/-- The bytes of a limb that a list of words makes. -/
def limbBytes (l : List Nat) : List Byte := wordBytes (l.map (BitVec.ofNat 64))

/-- The words of limb `j` of component `i` of a staged window. -/
def stagedLimb (s : State) (g : Staged) (w n i j : Nat) : List Nat :=
  (s.words (stagedAt g.base.toNat w n i j) n).map BitVec.toNat

/-- The source window of an operation of the Butterfly Network. -/
def limbSource (y : Thread) (f : PFields) : Staged :=
  staged y f.as1 (srcComps f (y.rc f.cs1.val)) (f.lc + 1) (dN (y.rc f.cs1.val))

/-- A descriptor operation of the Butterfly Network: one source, whose limbs it transforms whole. -/
def limbDescOp (y : Thread) (f : PFields) (result : Tracked) (causes : List (Option Cause)) (cycles : Nat) : DescOp where
  reads := [(y.rc f.cs1.val, f.cs1)]
  result := result
  causes := causes
  srcs := [limbSource y f]
  accumulates := false
  cycles := cycles
  ops := 0
  data := fun _ _ _ => 0

/-- The window that an operation of the Butterfly Network writes. -/
def limbWrites (s : State) (y : Thread) (f : PFields) (result : Tracked) (op : LimbOp) : List Wr :=
  let d := y.rc f.cs1.val
  let w := f.lc + 1
  let dst := dstWindow y f result
  (upFrom 0 dst.comps).flatMap fun i => (upFrom 0 w).map fun j =>
    Wr.mem (stagedAt dst.base.toNat w (dN d) i j)
      (limbBytes (op s (f.lw + j) (12 + dLgn d) (stagedLimb s (limbSource y f) w (dN d) i j)))

/-- Unused fields of a group 7 descriptor word. -/
def limbDescZero (f : PFields) (usesImm : Bool) : Bool :=
  !f.lazy && f.cs2 = 0 && f.as2 = 0 && (usesImm || f.imm = 0)

def limbDescForm (w : IWord) (usesImm : Bool) (p : Pa) (t : Thr) (s : State) (k : PFields → Issue) : Issue :=
  descForm w (limbDescZero (pFields w) usesImm) p t false s k

/-- Butterflies of a transform of dimension 2^lg. -/
def butterflies (lg : Nat) : Nat := 2 ^ lg / 2 * lg

/-- The operation of CNTT, or of CINTT: a source in one form, a result in the other. -/
def transformOp (inverse : Bool) (y : Thread) (f : PFields) : DescOp :=
  let d := y.rc f.cs1.val
  limbDescOp y f { tracked d with eval := !inverse } [causeIf (dEval d != inverse) .illegal .c f.cs1.val]
    (unitCycles (windowComps f.comp (dPlain d) * (f.lc + 1) * passCycles (12 + dLgn d)) 1 1)

/-- CNTT and CINTT. -/
def transformBody (inverse : Bool) (p : Pa) (t : Thr) (w : IWord) (s : State) : Issue :=
  limbDescForm w false p t s fun f =>
    let y := s.thr p t
    let d := y.rc f.cs1.val
    let o := transformOp inverse y f
    descRun p t f o (limbWrites s y f o.result (if inverse then inttOp else nttOp)) true
      (windowComps f.comp (dPlain d) * (f.lc + 1) * butterflies (12 + dLgn d)) s

/-- The operation of CAUT. -/
def autDescOp (y : Thread) (f : PFields) : DescOp :=
  let d := y.rc f.cs1.val
  limbDescOp y f (tracked d)
    [causeIf (!dPlain d) .illegal .c f.cs1.val, causeIf (galoisBad f.imm (dN d)) .illegal] (fullRate f (tracked d))

/-- CAUT. -/
def cautBody (p : Pa) (t : Thr) (w : IWord) (s : State) : Issue :=
  limbDescForm w true p t s fun f =>
    let y := s.thr p t
    let o := autDescOp y f
    descRun p t f o (limbWrites s y f o.result (autOp (dEval (y.rc f.cs1.val)) f.imm)) false 0 s

/-! ## Limb forms (Table 5.10) -/

/-- log2 of a ring dimension from 2^12 to 2^17. -/
def dimLog (n : Nat) : Option Nat := (upFrom 12 6).find? fun lg => 2 ^ lg = n

/-- LNTT, LINTT and LAUT: every limb of a kind 1 source through `op`. -/
def limbFormPlan (modeOk : VFields → Bool) (op : VFields → LimbOp) (workspace : Bool) (causes : VFields → Nat → Option Cause)
    (cycles ops : Nat → Nat → Nat) (p : Pa) (t : Thr) (w : IWord) (s : State) : Option VPlan :=
  let f := vFields w
  if !vShape w [1] [1] [0] [0] || f.lazy || f.msk ≠ 0 || f.type ≠ 0 || !modeOk f then none
  else
    let o := vOps f
    some
      (let y := s.thr p t
       let n := countOf f y
       let limbs := f.nl + 1
       let lg := (dimLog n).getD 12
       let src := o.s1.spm y n 8 limbs
       let dst := o.d.spm y n 8 limbs
       let data := (src.zip dst).zip (upFrom 0 limbs) |>.map fun x =>
         Wr.mem x.1.2.1 (limbBytes (op f s (f.mi + x.2) lg ((s.words x.1.1.1 n).map BitVec.toNat)))
       VPlan.mk (vRegs f (vOps f))
        (countCause n :: causeIf (dimLog n).isNone .illegal :: causes f n ::
          causeIf (!((upFrom f.mi limbs).all fun i => entryFits s i lg)) .illegal ::
          (operandCauses p y 4096 n limbs o.d ++ operandCauses p y 4096 n limbs o.s1))
        { unit := .cells, cycles := unitCycles (cycles limbs n) 1 1, reads := [src], dst := dst, owes := [], wrs := data
          flags := 0, bad := firstBad s src, readBytes := limbs * n * 8, ops := ops limbs lg, cloud := workspace })

/-- LNTT and LINTT. -/
def lnttPlan (op : LimbOp) (p : Pa) (t : Thr) (w : IWord) (s : State) : Option VPlan :=
  limbFormPlan (fun f => f.mode = 0 && f.imm = 0) (fun _ => op) true (fun _ _ => none)
    (fun limbs n => limbs * passCycles ((dimLog n).getD 12)) (fun limbs lg => limbs * butterflies lg) p t w s

/-- LAUT: mode bit 0 is set for evaluation form. -/
def lautPlan (p : Pa) (t : Thr) (w : IWord) (s : State) : Option VPlan :=
  limbFormPlan (fun f => f.mode ≤ 1 && f.imm < 2 ^ 18) (fun f => autOp (f.mode = 1) f.imm) false
    (fun f n => causeIf (galoisBad f.imm n) .illegal) (fun limbs n => ceilDiv (limbs * n) 512) (fun _ _ => 0) p t w s

/-! ## The rows -/

/-- CNTT. -/
def execCntt (p : Pa) (t : Thr) (w : IWord) (s : State) : Host.Outcome State Fault Refusal :=
  .next (attemptOf 7 0x00 p t w (transformBody false p t w) s)

/-- CINTT. -/
def execCintt (p : Pa) (t : Thr) (w : IWord) (s : State) : Host.Outcome State Fault Refusal :=
  .next (attemptOf 7 0x01 p t w (transformBody true p t w) s)

/-- CAUT. -/
def execCaut (p : Pa) (t : Thr) (w : IWord) (s : State) : Host.Outcome State Fault Refusal :=
  .next (attemptOf 7 0x02 p t w (cautBody p t w) s)

/-- LNTT. -/
def execLntt (p : Pa) (t : Thr) (w : IWord) (s : State) : Host.Outcome State Fault Refusal :=
  .next (attemptOf 7 0x10 p t w (vRun p t w (lnttPlan nttOp p t w)) s)

/-- LINTT. -/
def execLintt (p : Pa) (t : Thr) (w : IWord) (s : State) : Host.Outcome State Fault Refusal :=
  .next (attemptOf 7 0x11 p t w (vRun p t w (lnttPlan inttOp p t w)) s)

/-- LAUT. -/
def execLaut (p : Pa) (t : Thr) (w : IWord) (s : State) : Host.Outcome State Fault Refusal :=
  .next (attemptOf 7 0x12 p t w (vRun p t w (lautPlan p t w)) s)

end Sys2Proof.Machine
end

