-- ==== Sys2Proof/Machine/Keccak.lean ====
section
/-! DEFINITION. The hash functions that the device computes: SHAKE128, SHAKE256 and SHA3-384. The spec names them by
FIPS 202; the permutation is taken from that standard (PRESUMED, log entry 12). -/

namespace Sys2Proof.Machine

/-- One step of the register that makes the round constants: a product by x modulo x^8 + x^6 + x^5 + x^4 + 1. -/
def rcStep (r : Nat) : Nat := if r < 128 then 2 * r else 2 * r ^^^ 0x171

/-- The register from state `r` on, at each of `n` steps. -/
def rcStates : Nat → Nat → List Nat
  | 0, _ => []
  | n + 1, r => r :: rcStates n (rcStep r)

/-- A round constant: bit 2^j - 1 is the low bit of the register's j-th state in the round. -/
def rcWord : Nat → List Nat → Nat
  | _, [] => 0
  | j, r :: l => r % 2 * 2 ^ (2 ^ j - 1) + rcWord (j + 1) l

/-- The constants of `n` rounds: each takes seven states of the register. -/
def rcList : Nat → List Nat → List Word
  | 0, _ => []
  | n + 1, l => BitVec.ofNat 64 (rcWord 0 (l.take 7)) :: rcList n (l.drop 7)

/-- The round constants of Keccak-f[1600]. -/
def keccakRC : List Word := rcList 24 (rcStates 168 1)

/-- The walk over the lanes other than (0, 0): step t, from 1, turns its lane by the t-th triangular number. -/
def rotWalk : Nat → Nat → Nat → Nat → List (Nat × Nat)
  | 0, _, _, _ => []
  | n + 1, t, x, y => (x + 5 * y, t * (t + 1) / 2 % 64) :: rotWalk n (t + 1) y ((2 * x + 3 * y) % 5)

/-- Rotation offsets of lane x + 5y. -/
def keccakRot : List Nat :=
  let w := rotWalk 24 1 1 0
  (upFrom 0 25).map fun i => match w.find? (·.1 = i) with
    | some e => e.2
    | none => 0

def lane (a : List Word) (i : Nat) : Word := a.getD i 0

/-- One round: theta, rho and pi, chi, iota. -/
def keccakRound (a : List Word) (rc : Word) : List Word :=
  let c := (upFrom 0 5).map fun x => lane a x ^^^ lane a (x + 5) ^^^ lane a (x + 10) ^^^ lane a (x + 15) ^^^ lane a (x + 20)
  let d := (upFrom 0 5).map fun x => lane c ((x + 4) % 5) ^^^ (lane c ((x + 1) % 5)).rotateLeft 1
  let t := (upFrom 0 25).map fun i => lane a i ^^^ lane d (i % 5)
  -- lane (x, y) of the source goes to (y, 2x + 3y)
  let b := (upFrom 0 25).map fun i =>
    let x := i % 5
    let y := i / 5
    let sx := (x + 3 * y) % 5
    let k := sx + 5 * x
    (lane t k).rotateLeft (keccakRot.getD k 0)
  let e := (upFrom 0 25).map fun i =>
    let x := i % 5
    let r := i / 5 * 5
    lane b i ^^^ (~~~ lane b (r + (x + 1) % 5) &&& lane b (r + (x + 2) % 5))
  e.set 0 (lane e 0 ^^^ rc)

def keccakF (a : List Word) : List Word := keccakRC.foldl keccakRound a

/-- XOR bytes into the first lanes. -/
def absorbLanes (a : List Word) (bs : List Byte) : List Word :=
  (upFrom 0 25).map fun i => lane a i ^^^ BitVec.ofNat 64 (leNat ((bs.drop (i * 8)).take 8))

def stateBytes (a : List Word) : List Byte := (upFrom 0 25).flatMap fun i => leBytes 8 (lane a i).toNat

/-- Absorb whole blocks of `rate` bytes. -/
def absorb (rate : Nat) : Nat → List Word → List Byte → List Word
  | 0, a, _ => a
  | n + 1, a, bs => absorb rate n (keccakF (absorbLanes a (bs.take rate))) (bs.drop rate)

/-- The message with its suffix and padding: `dom` holds the domain bits and the first padding bit. -/
def padded (rate dom : Nat) (m : List Byte) : List Byte :=
  let free := rate - m.length % rate
  if free = 1 then m ++ [BitVec.ofNat 8 (dom + 0x80)]
  else m ++ BitVec.ofNat 8 dom :: (List.replicate (free - 2) 0 ++ [0x80])

def squeeze (rate : Nat) : Nat → List Word → List Byte
  | 0, _ => []
  | n + 1, a => (stateBytes a).take rate ++ squeeze rate n (keccakF a)

/-- A sponge with `out` bytes of output. -/
def sponge (rate dom out : Nat) (m : List Byte) : List Byte :=
  let p := padded rate dom m
  let a := absorb rate (p.length / rate) (List.replicate 25 0) p
  (squeeze rate (out / rate + 1) a).take out

def shake128 (out : Nat) (m : List Byte) : List Byte := sponge 168 0x1F out m
def shake256 (out : Nat) (m : List Byte) : List Byte := sponge 136 0x1F out m
def sha3_384 (m : List Byte) : List Byte := sponge 104 0x06 48 m

end Sys2Proof.Machine
end

