-- ==== Sys2Proof/Machine/Keys.lean ====
section
/-! DEFINITION. Key headers (Table 6.1): their fields, what makes one invalid, and the footprint of a key. -/

namespace Sys2Proof.Machine

/-- `n` bytes of a byte string from offset `o`, as a number. -/
def numAt (bs : List Byte) (o n : Nat) : Nat := leNat ((bs.drop o).take n)

def allZero (bs : List Byte) : Bool := bs.all (· = 0)

/-- The fields of a header (Table 6.1), of a key at `base`. -/
def parseKey (bs : List Byte) (base : Nat) : KeyHdr where
  kind := numAt bs 0x04 1
  seeded := (numAt bs 0x05 1).testBit 0
  lgn := numAt bs 0x06 1
  dnum := numAt bs 0x07 1
  limbs := numAt bs 0x08 1
  special := numAt bs 0x09 1
  lweN := numAt bs 0x0A 2
  galois := numAt bs 0x0C 4
  tagIn := BitVec.ofNat 48 (numAt bs 0x10 6)
  tagOut := BitVec.ofNat 48 (numAt bs 0x16 6)
  knoise := BitVec.ofNat 16 (numAt bs 0x1C 2)
  seed := (bs.drop 0x20).take 32
  base := base

def KeyHdr.n (h : KeyHdr) : Nat := 2 ^ (12 + h.lgn)

/-- Kinds 1 to 4 and 7 hold ring keys; 5 and 6 are gadget keys (R178, R469). -/
def KeyHdr.ring (h : KeyHdr) : Bool := h.kind ≠ 5 && h.kind ≠ 6

/-- The Galois element that Table 6.1 gives a kind: 5^r mod 2N with 0 < r < N/2 is every g of (1, 2N) that is 1 modulo 4. -/
def galoisOk (h : KeyHdr) : Bool :=
  match h.kind with
  | 2 => h.galois % 4 = 1 && 1 < h.galois && h.galois < 2 * h.n
  | 3 => h.galois = 2 * h.n - 1
  | 7 => (upFrom 1 (12 + h.lgn)).any fun l => h.galois = h.n / 2 ^ l + 1
  | _ => h.galois = 0

/-- Table 6.1: the ranges of dnum, special and lwe_n for the kind. -/
def keyKindOk (h : KeyHdr) : Bool :=
  if h.ring then 1 ≤ h.dnum && h.dnum ≤ 8 && h.lweN = 0
  else 1 ≤ h.dnum && h.dnum ≤ 15 && h.special = 0 && 1 ≤ h.lweN && (h.kind ≠ 5 || h.lweN ≤ min h.n 65535)

def tagsOk (h : KeyHdr) : Bool := h.tagIn ≠ 0 && h.tagOut ≠ 0 && (h.kind = 4 || h.kind = 5 || h.tagIn = h.tagOut)

/-- R177: whether the 4,096 bytes of a header make a valid key, its limb counts against the table apart. -/
def keyHeaderOk (bs : List Byte) : Bool :=
  let h := parseKey bs 0
  bs.take 4 = [0x47, 0x4B, 0x45, 0x59] && 1 ≤ h.kind && h.kind ≤ 7 && numAt bs 5 1 < 2 && h.lgn ≤ 5 && 1 ≤ h.limbs
    && h.limbs ≤ 64 && keyKindOk h && galoisOk h && tagsOk h && numAt bs 0x1E 2 = 0
    && (h.seeded || allZero h.seed) && allZero ((bs.drop 0x40).take 4032)

/-- The bytes of a key's body (R178, R469). -/
def keyBody (h : KeyHdr) : Nat :=
  let hs := if h.seeded then 1 else 2
  if h.kind = 5 then h.n * h.dnum * h.limbs * (if h.seeded then 1 else h.lweN + 1) * 8
  else if h.kind = 6 then h.lweN * 2 * h.dnum * hs * h.limbs * h.n * 8
  else h.dnum * (h.limbs + h.special) * hs * h.n * 8

/-- R469: header and body, the body padded to 4 KiB. -/
def keyBytes (h : KeyHdr) : Nat := 4096 + ceilTo (keyBody h) 4096

/-- R180: the key fits PA_MODCFG and the modulus table. -/
def keyFits (s : State) (h : KeyHdr) : Bool :=
  h.limbs ≤ modC s && (h.kind ≠ 6 || h.dnum = gswDigits s) && (!h.ring || h.special = modK s)
    && ((upFrom 0 h.limbs).all fun i => entryFits s i (12 + h.lgn))
    && (!h.ring || (upFrom (modC s) h.special).all fun i => entryFits s i (12 + h.lgn))

/-- R188, steps 2 and 3: the part size of a key on a group of `g` members. -/
def keyPart (h : KeyHdr) (g : Nat) : Nat :=
  let l := h.limbs + h.special
  let t := if g < l then 1 else 2 ^ Nat.log2 (g / l)
  ceilTo (h.n / t * 8) 4096

/-- S_g of R188. -/
def scratchSize (keys : List KeyHdr) (g : Nat) : Nat :=
  16 * ((keys.filter fun h => 1 ≤ h.kind ∧ h.kind ≤ 4).map fun h => keyPart h g).foldl max 0

end Sys2Proof.Machine
end

