-- ==== Sys2Proof/Machine/Handles.lean ====
section
/-! DEFINITION. Descriptor, key handle, queue handle and mask moves (group 4: R122, R123, R181, R286, R470). -/

namespace Sys2Proof.Machine

/-- CMOV. -/
def cmovBody (p : Pa) (t : Thr) (w : IWord) (s : State) : Issue :=
  if !formOk [0] w || 16 ≤ wRd w || 16 ≤ wRs1 w then illegalAt [0] w
  else needRegs p t [.c (fa (wRd w)), .c (fa (wRs1 w))] s
    (let d := (s.thr p t).rc (wRs1 w)
     unlessRefused (readChecks s d (fa (wRs1 w))) (some (fa (wRd w)))
       (.next (s.modThr p t fun y => y.wc (wRd w) d)))

/-- The fields that CGET names (Table 4.14). -/
def cgetField (d : Desc) (k : Nat) : Option Nat :=
  match k with
  | 0 => some (dBase d)
  | 1 => some (dLgn d)
  | 2 => some (dLimbs d - 1)
  | 3 => some (dLevel d)
  | 4 => some (dScheme d)
  | 5 => some (if dEval d then 1 else 0)
  | 6 => some (dTag d).toNat
  | 7 => some (dScale d)
  | 8 => some (dNoise d)
  | 9 => some (if dUnreliable d then 1 else 0)
  | _ => none

/-- CGET. -/
def cgetBody (p : Pa) (t : Thr) (w : IWord) (s : State) : Issue :=
  if !formOk [1] w || 16 ≤ wRs1 w then illegal
  else needRegs p t [.s (fs (wRd w)), .c (fa (wRs1 w))] s
    (let d := (s.thr p t).rc (wRs1 w)
     let f := cgetField d (wImm64 w).toNat
     unlessRefused (readChecks s d (fa (wRs1 w)) ++ [causeIf f.isNone .illegal]) none
       (.next (s.ws p t (wRd w) (BitVec.ofNat 64 (f.getD 0)))))

/-- A descriptor with another base. -/
def withBase (d : Desc) (b : BitVec 48) : Desc := (d &&& ~~~ BitVec.ofNat 256 (2 ^ 48 - 1)) ||| b.setWidth 256

/-- CBASE: the new footprint is checked before the register changes. -/
def cbaseBody (p : Pa) (t : Thr) (w : IWord) (s : State) : Issue :=
  if !formOk [0] w || 16 ≤ wRd w || 16 ≤ wRs1 w then illegalAt [0] w
  else needRegs p t [.c (fa (wRd w)), .a (fa (wRs1 w))] s
    (let y := s.thr p t
     let d := y.rc (wRd w)
     let b := (y.ra (wRs1 w)).setWidth 48
     unlessRefused (readChecks s d (fa (wRd w)) ++ baseChecks s b.toNat (objBytes s d) false (fa (wRd w)))
       (some (fa (wRd w)))
       (.next (s.modThr p t fun y => y.wc (wRd w) (withBase d b))))

/-- KLD: a handle holds the fields of the device's copy of a key header. -/
def kldBody (p : Pa) (t : Thr) (w : IWord) (s : State) : Issue :=
  if !formOk [1] w || 8 ≤ wRd w then illegal
  else needRegs p t [.k (Fin.ofNat 8 (wRd w))] s
    (let i := (wImm64 w).toNat
     unlessRefused [causeIf (s.rp.keys.length ≤ i || 4096 ≤ i) .illegal] none
       (.next (s.modThr p t fun y => { y with k := y.k.setIfInBounds (wRd w) (some (Fin.ofNat 4096 i)) })))

/-- KMOV: an invalid handle may not be named (R470). -/
def kmovBody (p : Pa) (t : Thr) (w : IWord) (s : State) : Issue :=
  if !formOk [0] w || 8 ≤ wRd w || 8 ≤ wRs1 w then illegal
  else needRegs p t [.k (Fin.ofNat 8 (wRd w)), .k (Fin.ofNat 8 (wRs1 w))] s
    (let h := (s.thr p t).k.toArray.getD (wRs1 w) none
     unlessRefused [causeIf h.isNone .illegal .k (wRs1 w)] none
       (.next (s.modThr p t fun y => { y with k := y.k.setIfInBounds (wRd w) h })))

/-- R286: the handle that an immediate names: a channel, or from 1,024 a combining queue. -/
def handleOf (s : State) (i : Nat) : Option (Fin 1088) :=
  if i < s.net.chans.length ∧ i < 1024 then some (Fin.ofNat 1088 i)
  else if 1024 ≤ i ∧ i < 1024 + s.net.cqs.length ∧ i < 1088 then some (Fin.ofNat 1088 i)
  else none

/-- QSEL. -/
def qselBody (p : Pa) (t : Thr) (w : IWord) (s : State) : Issue :=
  if !formOk [1] w || 8 ≤ wRd w then illegal
  else needRegs p t [.q (Fin.ofNat 8 (wRd w))] s
    (let h := handleOf s (wImm64 w).toNat
     unlessRefused [causeIf h.isNone .illegal] none
       (.next (s.modThr p t fun y => { y with q := y.q.setIfInBounds (wRd w) h })))

/-- QMOV. -/
def qmovBody (p : Pa) (t : Thr) (w : IWord) (s : State) : Issue :=
  if !formOk [0] w || 8 ≤ wRd w || 8 ≤ wRs1 w then illegal
  else needRegs p t [.q (Fin.ofNat 8 (wRd w)), .q (Fin.ofNat 8 (wRs1 w))] s
    (let h := (s.thr p t).q.toArray.getD (wRs1 w) none
     unlessRefused [causeIf h.isNone .illegal .q (wRs1 w)] none
       (.next (s.modThr p t fun y => { y with q := y.q.setIfInBounds (wRd w) h })))

/-- MSET. -/
def msetBody (p : Pa) (t : Thr) (w : IWord) (s : State) : Issue :=
  if !formOk [0] w || 4 ≤ wRd w then illegal
  else needRegs p t [.m (Fin.ofNat 4 (wRd w)), .s (fs (wRs1 w))] s
    (.next (s.modThr p t fun y => y.wm (wRd w) (y.rs (wRs1 w))))

/-- MGET. -/
def mgetBody (p : Pa) (t : Thr) (w : IWord) (s : State) : Issue :=
  if !formOk [0] w || 4 ≤ wRs1 w then illegal
  else needRegs p t [.s (fs (wRd w)), .m (Fin.ofNat 4 (wRs1 w))] s
    (.next (s.ws p t (wRd w) ((s.thr p t).rm (wRs1 w))))

/-! ## The rows -/

/-- CMOV. -/
def execCmov (p : Pa) (t : Thr) (w : IWord) (s : State) : Host.Outcome State Fault Refusal :=
  .next (attemptOf 4 0x00 p t w (cmovBody p t w) s)

/-- CGET. -/
def execCget (p : Pa) (t : Thr) (w : IWord) (s : State) : Host.Outcome State Fault Refusal :=
  .next (attemptOf 4 0x01 p t w (cgetBody p t w) s)

/-- CBASE. -/
def execCbase (p : Pa) (t : Thr) (w : IWord) (s : State) : Host.Outcome State Fault Refusal :=
  .next (attemptOf 4 0x02 p t w (cbaseBody p t w) s)

/-- KLD. -/
def execKld (p : Pa) (t : Thr) (w : IWord) (s : State) : Host.Outcome State Fault Refusal :=
  .next (attemptOf 4 0x08 p t w (kldBody p t w) s)

/-- KMOV. -/
def execKmov (p : Pa) (t : Thr) (w : IWord) (s : State) : Host.Outcome State Fault Refusal :=
  .next (attemptOf 4 0x09 p t w (kmovBody p t w) s)

/-- QSEL. -/
def execQsel (p : Pa) (t : Thr) (w : IWord) (s : State) : Host.Outcome State Fault Refusal :=
  .next (attemptOf 4 0x10 p t w (qselBody p t w) s)

/-- QMOV. -/
def execQmov (p : Pa) (t : Thr) (w : IWord) (s : State) : Host.Outcome State Fault Refusal :=
  .next (attemptOf 4 0x11 p t w (qmovBody p t w) s)

/-- MSET. -/
def execMset (p : Pa) (t : Thr) (w : IWord) (s : State) : Host.Outcome State Fault Refusal :=
  .next (attemptOf 4 0x18 p t w (msetBody p t w) s)

/-- MGET. -/
def execMget (p : Pa) (t : Thr) (w : IWord) (s : State) : Host.Outcome State Fault Refusal :=
  .next (attemptOf 4 0x19 p t w (mgetBody p t w) s)

end Sys2Proof.Machine
end

