-- ==== Sys2Proof/Machine/Home.lean ====
section
/-! DEFINITION. An access at its home (R93, R254, R256, R273): the SPM of the owning PA, the package cache of the
stack, or the CXL expander; and the way of a PA's access there and back (R279, R280). -/

namespace Sys2Proof.Machine

/-- R439: the master bit of a requester at the SPM of `p`. -/
def masterBit (p : Pa) : Requester → Nat
  | .threads q => if q = p then 0 else 2
  | .bow q => if q = p then 1 else 2
  | _ => 3

/-- R32 and R273: a home that no access reaches: an SPM or a slice whose clock has stopped, a stack whose hub has lost its HBM
controller PLL, or a far-tier port whose link is down. -/
def homeDown (s : State) (a : Nat) : Bool :=
  match region s a with
  | .hbm => !s.clk.live.getLsbD (12 + (hbmHub a).val) || !s.clk.live.getLsbD (8 + (hbmHub a).val)
  | .spm q _ => !s.clk.live.getLsbD (paPll q)
  | .far i _ => !s.st.cxl[i.val].linkUp
  | _ => false

/-- What a home answers: it has performed the access; it has failed at an address, as an uncorrectable error; it cannot
take it yet. -/
inductive Served where
  | done (s : State) (data : List Byte)
  | failed (s : State) (addr : Nat)
  | held (s : State)

/-- An own access of a PA's instructions is no remote request. -/
def ownAccess (rq : Requester) (p : Pa) : Bool := rq = .threads p || rq = .bow p

/-- Count the access in the counters of its home. -/
def countHome (rq : Requester) (s : State) (a n : Nat) (wr : Bool) : State :=
  match region s a with
  | .far i _ => s.portBytes (Fin.ofNat 76 (10 + i.val)) wr n
  | .spm p _ =>
    let m := some (masterBit p rq)
    let s1 := s.event p { code := if wr then 0x11 else 0x10, amount := n, master := m }
    if ownAccess rq p then s1 else s1.event p { code := 0x30, amount := 1, master := m, addr := some a }
  | _ => s

/-- A read at its home. -/
def serveRead (rq : Requester) (s : State) (a n : Nat) : Served :=
  if homeDown s a then
    .failed (match region s a with | .far i _ => noteFarBad s i a false | _ => s) a
  else match badAt s a n with
    | some b => .failed (noteBad s b) b
    | none => .done (countHome rq s a n false) (s.bytes a n)

/-- R95, R96: an SPM write narrower than a line finds room in the merge buffer. -/
def mergeFits (s : State) (a n : Nat) : Bool :=
  match region s a with
  | .spm p off => (linesOf off n).all fun e => e.2 = 4096 || mergeRoom (s.pa p) (e.1 / 4096)
  | _ => true

/-- R95: a write that finds no room makes the oldest entry drain. -/
def forceMerge (s : State) (a : Nat) : State :=
  match region s a with
  | .spm p _ => s.modPa p forceOldest
  | _ => s

/-- R267: the uncorrectable bursts that a write covers only in part: each counts and is recorded as a failed fill. -/
def notePartial (s : State) (a n : Nat) : State :=
  (s.mem.uncBurst.filter fun u => overlap a n u 32 && !inside u 32 a n).foldl (fun s u => noteHbmBad s u false) s

/-- R262, R273: a write to a port whose link is down is dropped, counted and logged. -/
def noteDropped (s : State) (a : Nat) : State :=
  match region s a with
  | .far i _ => (noteFarBad s i a false).logRec 5 2 3 i.val a
  | _ => s

/-- A write at its home. -/
def serveWrite (rq : Requester) (s : State) (a : Nat) (bs : List Byte) (by_ : Option Thr := none) : Served :=
  if homeDown s a then .failed (noteDropped s a) a
  else if !mergeFits s a bs.length then .held (forceMerge s a)
  else .done ((countHome rq (notePartial s a bs.length) a bs.length true).store a bs by_) []

/-- The new value of an atomic (Table 4.12). -/
def amoNew (op : AtomicOp) (old operand : Word) : Word :=
  match op with
  | .add => old + operand
  | .swap => operand
  | .cas e => if old = e then operand else old
  | .maxu => if old.toNat ≤ operand.toNat then operand else old

/-- R120: an atomic at its home; the data is the old value. A compare that fails writes nothing. -/
def serveAtomic (rq : Requester) (s : State) (a : Nat) (op : AtomicOp) (operand : Word) (by_ : Option Thr := none) : Served :=
  match serveRead rq s a 8 with
  | .done s1 data =>
    let old := BitVec.ofNat 64 (leNat data)
    let miss : Bool := match op with
      | .cas e => decide (old ≠ e)
      | _ => false
    if miss then .done { s1 with host := if a < hbmEnd then touchWatches s1.mem a 8 s1.host else s1.host } data
    else match serveWrite rq s1 a (leBytes 8 (amoNew op old operand).toNat) by_ with
      | .done s2 _ => .done s2 data
      | .failed s2 b => .failed s2 b
      | .held _ => .held (forceMerge s a)
  | r => r

/-- Perform any access at its home; an HBM access as its slice has let it pass. -/
def perform (rq : Requester) (s : State) (a : Nat) (acc : Access) (by_ : Option Thr := none) : Served :=
  match acc with
  | .read n => serveRead rq s a n
  | .write bs => serveWrite rq s a bs by_
  | .atomic op v => serveAtomic rq s a op v by_

/-! ## An HBM access that its slices perform at once (R256, R263) -/

/-- Every unit of an access is admitted at its stop, in turn. -/
def admitUnits (rq : Requester) (c : StreamClass) (acc : Access) : List (Nat × Nat) → State → Option State × State
  | [], s => (some s, s)
  | e :: r, s => match offer s rq c e.1 acc with
    | (some s1, _) => admitUnits rq c acc r s1
    | (none, s1) => (none, s1)

/-- R257: the class that a requester's access bears. -/
def servedClass (rq : Requester) (c : StreamClass) : StreamClass := requestClass rq c

/-- An HBM access passes its hub stops and the slices of its units, unless it waits there behind earlier requests. -/
def passSlices (rq : Requester) (s : State) (a : Nat) (acc : Access) (c : StreamClass) : Option State × State :=
  let n := accLen acc
  if slicesHeld s a n then (none, s)
  else match admitUnits rq (servedClass rq c) acc (linesOf a n) s with
    | (none, s1) => (none, s1)
    | (some s1, _) =>
      let read := match acc with
        | .write _ => s1
        | _ => atSlices s1 rq (servedClass rq c) a n false
      let wrote := match acc with
        | .read _ => read
        | .write _ => atSlices read rq (servedClass rq c) a n true
        | .atomic _ _ => noteWrite read (hbmHub a) (servedClass rq c) a n
      (some wrote, s1)

/-- Perform an access at its home: an HBM access passes its slices first. -/
def serve (rq : Requester) (s : State) (a : Nat) (acc : Access) (c : StreamClass := .scratch) (by_ : Option Thr := none) :
    Served :=
  if a < hbmEnd && !homeDown s a then
    match passSlices rq s a acc c with
    | (some s1, _) => perform rq s1 a acc by_
    | (none, s1) => .held s1
  else perform rq s a acc by_

end Sys2Proof.Machine
end

