-- ==== Sys2Proof/Machine/RegRead.lean ====
section
/-! DEFINITION. What a read of a control register returns: the value the control range holds, with the fields that
follow from other state (R12 to R16). -/

namespace Sys2Proof.Machine

/-- A field of a word under construction. -/
def fld (lo v : Nat) : Word := BitVec.ofNat 64 (v * 2 ^ lo)

def flag (i : Nat) (b : Bool) : Word := bitAt 64 i b

/-- The OR of indexed bits. -/
def flags (lo n : Nat) (f : Nat → Bool) : Word :=
  (upFrom 0 n).foldl (fun w i => w ||| flag (lo + i) (f i)) 0

/-- Bytes 8w to 8w + 7 of a byte string, as a word. -/
def stringWord (l : List Byte) (w : Nat) : Word := BitVec.ofNat 64 (leNat ((l.drop (8 * w)).take 8))

/-- R16: what a read of an RWP register's persistent bits returns: the last accepted value. -/
def rwpRead (s : State) (r : Reg) : Word :=
  match s.tpc.active.find? (·.off = r.off) with
  | some w => w.value
  | none => s.rwp r

/-- R313: no host entry is valid, by completed writes. -/
def openMode (s : State) : Bool := (List.finRange 8).all fun i => !bit (s.rwp (.hif (.hostRole i))) 0

/-! ## GLB -/

/-- The revision common to the online PAs, 0xFF while they differ (Table 1.11). While no PA is online it reads 0: the table
says nothing of that (DESIGN CHOICE, log entry 66). -/
def commonRev (s : State) (f : PaState → BitVec 8) : Nat :=
  match (s.pas.toList.filter (·.online)).map f with
  | [] => 0
  | v :: r => if r.all (· = v) then v.toNat else 0xFF

def readGlb (s : State) : GlbReg → Word
  | .version =>
    let fw := s.spt.running.map fun v => v[1]
    fld 0 2 ||| fld 8 1
      ||| (match fw with
           | some f => fld 16 f.verMajor.toNat ||| fld 24 f.verMinor.toNat ||| fld 32 f.verPatch.toNat
           | none => 0)
      ||| fld 48 (commonRev s (·.mcPa)) ||| fld 56 (commonRev s (·.mcBow))
  | .online i => flags 0 64 fun k => (s.pas.toArray.getD (i.val * 64 + k) {}).online
  | .clkStat => s.clk.live.setWidth 64 ||| (s.clk.sticky.setWidth 64 <<< 32)
  | .devaddr => s.brg.devaddr.setWidth 64
  | r => r.spec.reset

/-! ## PEG -/

def readPeg (s : State) : PegReg → Word
  | .lock i => s.host.peg[i.val]
  | .peek i => s.host.peg[i.val]
  | .brk => 0
  | .evt => s.reg (.peg .evt)
  | .stat => fld 0 (s.host.peg.toList.filter fun w => pegOwner w ≠ 0).length ||| flag 7 s.host.tieNext

/-! ## HIF -/

def portSessions (s : State) (e : EPort) : List Session :=
  ((List.finRange 16).filter fun k => slotPort k = e).filterMap s.sess

def readHif (s : State) : HifReg → Option Word
  | .cfg => some (rwpRead s (.hif .cfg) &&& mask 0 24 ||| flag 24 (openMode s))
  | .portStat p =>
    let e := s.host.eth[p.val]
    let l := portSessions s p
    some (flag 0 e.linkUp ||| flag 1 e.macsec.isSome ||| flag 2 (l.any (·.control))
      ||| fld 3 (l.filter fun x => !x.control).length ||| fld 6 (if !e.linkUp then 0 else if e.optical then 2 else 1))
  | .sess k => some (match s.sess k with
    | some x => flag 0 true ||| flag 1 x.control ||| fld 2 (match x.entry with | some i => i.val | none => 0)
        ||| flag 5 x.entry.isNone ||| fld 6 x.sid.toNat
    | none => 0)
  | _ => none

/-! ## CAPO (R420, R421, Table 15.7) -/

/-- Table 15.1: the wake max in µs. -/
def wakeMax : Nat → Nat
  | 0 => 0 | 1 => 5 | 2 => 150 | _ => 25000

def hasControl (s : State) (e : EPort) : Bool := (portSessions s e).any (·.control)

/-- R421: the effective tolerance in µs. -/
def tolerance (s : State) : Nat :=
  let t := fun (e : EPort) => s.regField (.capo (.tol e)) 0 32
  match hasControl s 0, hasControl s 1 with
  | true, true => min (t 0) (t 1)
  | true, false => t 0
  | false, true => t 1
  | false, false => s.rwpField (.capo .cfg) 0 32

/-- R421: the target state. 0xFFFF_FFFF sets no limit (R420). -/
def capoTarget (s : State) : Fin 4 :=
  let us := tolerance s
  if 25000 ≤ us ∧ bit (s.rwp (.capo .cfg)) 48 then 3
  else if 150 ≤ us then 2 else if 5 ≤ us then 1 else 0

/-- The average of the samples held (R428). -/
def avgPower (s : State) : Nat :=
  (s.capo.samples.map (·.toNat)).foldl (· + ·) 0 / max 1 s.capo.samples.length

def readCapo (s : State) : CapoReg → Option Word
  | .stat => some (fld 0 s.capo.state.val ||| fld 2 (capoTarget s).val ||| flag 4 s.capo.entering
      ||| flag 5 s.capo.waking ||| flag 6 s.capo.tripHalt ||| flag 7 s.capo.uv)
  | .ctl => some (flag 0 s.capo.wakeReq)
  | .lim => some (fld 0 s.capo.plimF)
  | .dlim d => some (fld 0 (dieLimit s d.val) ||| flag 5 (s.capo.plimF < 16) ||| flag 6 (limitThermal s d.val < 16)
      ||| flag 7 (limitHbm s d.val < 16))
  | .pwr => some (fld 0 (avgPower s) ||| fld 16 s.capo.peak.toNat ||| fld 32 s.capo.vin.toNat)
  | .rail r => some (Config.railReading r.val s.micros &&& mask 0 40 ||| flag 40 s.capo.stages[r.val])
  | _ => none

/-! ## SPT, DRN and TPC -/

def logOldest (s : State) : BitVec 32 := s.spt.logNext - BitVec.ofNat 32 s.spt.log.length

def readSpt (s : State) : SptReg → Option Word
  | .stat =>
    let x := s.spt
    some (flag 0 x.ready ||| flag 1 x.hd2 ||| flag 2 x.standbyOk ||| flag 3 x.idOk ||| flag 4 x.droneOk
      ||| flag 5 x.recovery ||| flag 6 x.slot ||| flag 7 x.fallback)
  | .logStat => some (fld 0 (logOldest s).toNat ||| fld 32 s.spt.logNext.toNat)
  | .meas m w => some (stringWord s.spt.meas[m.val] w.val)
  | .mgen m => some (fld 0 (s.spt.gen[m.val]).toNat ||| fld 32 (s.spt.images[m.val]).toNat)
  | .progDig w => some (match s.rp.prog with | some q => stringWord q.digest w.val | none => 0)
  | .temp i => some (fld 0 (s.spt.cur[i.val]).toNat ||| fld 8 (s.spt.max[i.val]).toNat ||| flag 17 s.spt.warn[i.val]
      ||| flag 18 s.spt.trip[i.val])
  | .mbStat p => some (s.reg (.spt (.mbStat p)) &&& mask 1 15 ||| flag 0 (s.spt.mailbox[p.val]).isSome)
  | .logData p w => some ((s.spt.latched[p.val])[w.val])
  | _ => none

/-- R391, R32: the Drone may run jobs: its PLL and that of HD0, whose hub it is reached by, are locked. -/
def droneOk (s : State) : Bool := s.drone.selfTest && s.clk.live.getLsbD 26 && s.clk.live.getLsbD 8

def readDrn (s : State) : DrnReg → Option Word
  | .stat => some (flag 0 (droneOk s) ||| flag 1 s.drone.clockFail
      ||| flags 2 4 (fun j => (s.drone.jobs.toArray.getD j none).isSome)
      ||| flags 6 16 (fun k => (s.drone.keys.toArray.getD k none).isSome) ||| flag 22 s.drone.locked)
  | .job j => some (s.reg (.drn (.job j)) &&& ~~~ mask 14 1 ||| flag 14 (s.drone.jobs[j.val]).isSome)
  | _ => none

/-- R412: the words over the rating of 200,000 writes. -/
def wornWords (s : State) : Nat := (s.tpc.wear.filter fun e => 200000 < e.2).length

/-- The highest wear count, and the lowest-numbered word that has it. -/
def wearMax (s : State) : Nat × Nat :=
  s.tpc.wear.foldl (fun m e => if m.1 < e.2 then (e.2, e.1) else m) (0, 0)

def readTpc (s : State) : TpcReg → Option Word
  | .stat => some (flag 0 s.tpc.loaded ||| flag 1 s.tpc.fault ||| fld 2 (s.tpc.active.length % 16))
  | .wear =>
    let n := sget (fun _ => 0) s.tpc.wear (s.regField (.tpc .wearSel) 0 13)
    some (fld 0 (n % 2 ^ 24) ||| flag 24 (200000 < n))
  | .wearMax =>
    let m := wearMax s
    some (fld 0 (m.1 % 2 ^ 24) ||| fld 24 m.2 ||| fld 37 (wornWords s))
  | _ => none

/-! ## Memories -/

def readHbm (s : State) (n : Stack) : HbmReg → Option Word
  | .stat =>
    let x := s.st.hbms[n.val]
    some (flag 0 x.ready ||| fld 1 x.therm.val ||| fld 4 (min 2048 (x.queue.filter fun q => !q.write).length)
      ||| fld 16 (min 2048 (x.queue.filter (·.write)).length))
  | .therm => some (s.reg (.hbm n .therm) &&& ~~~ mask 0 8 ||| fld 0 (s.st.hbms[n.val]).temp.toNat)
  | .retCnt => some (fld 0 ((List.finRange 64).filter fun i => bit (s.rwp (.hbm n (.ret i))) 24).length)
  | _ => none

def readSlice (s : State) (h : Hub) : SliceReg → Option Word
  | .bankStat =>
    let x := s.st.slices[h.val]
    some (s.reg (.slice h .bankStat) &&& mask 32 16
      ||| flags 0 16 (fun b => x.banks.toArray.getD b .on = .off)
      ||| flags 16 16 (fun b => x.waiting.any fun w => (cacheBank (sliceUnit w.addr)).val = b))
  | .trk => some (fld 0 (((s.st.slices[h.val]).trackers.toList.filter Option.isSome).length))
  | _ => none

def readCxl (s : State) : CxlReg → Option Word
  | .stat i =>
    let x := s.st.cxl[i.val]
    some (flag 0 x.linkUp ||| flag 1 x.ready ||| fld 2 (if !x.linkUp then 0 else if x.wide then 2 else 1)
      ||| fld 4 (if !x.linkUp then 0 else if x.fast then 2 else 1))
  | .cap i => some (fld 0 (s.st.cxl[i.val]).cap.toNat)
  | _ => none

/-! ## Bridge -/

/-- Table 12.4. -/
def BrgState.code : BrgState → Nat
  | .down => 0 | .training => 1 | .ident => 2 | .up => 3 | .retrain => 4

def readBrg (s : State) (n : BPort) : BrgReg → Option Word
  | .stat =>
    let x := s.brg.ports[n.val]
    some (fld 0 x.st.code ||| fld 3 x.width.toNat ||| flag 5 x.miswired ||| fld 6 x.peerAddr.toNat ||| flag 14 x.peerValid
      ||| fld 15 x.peerPort.toNat)
  | .peerSerial => some (s.brg.ports[n.val]).peerSerial
  | _ => none

/-- R344: this device is master, by its strap or its stored bit. -/
def isMaster (s : State) : Bool := s.brg.mstrPin || bit (s.rwp (.sys .cfg)) 0

def readSys (s : State) : SysReg → Option Word
  | .ctl => some (flag 0 (s.brg.enumPhase ≠ .none))
  | .stat => some (fld 0 s.brg.sysCount ||| flag 9 s.brg.ringClosed ||| flag 10 (isMaster s) ||| flag 11 s.brg.mstrPin
      ||| fld 12 s.brg.enumStatus.toNat)
  | .winCtl i =>
    let x := s.brg.windows[i.val]
    some (s.reg (.sys (.winCtl i)) &&& mask 0 24 ||| flag 24 x.isOpen ||| flag 25 x.closing ||| flag 26 x.err)
  | .rcStat j =>
    let x := s.brg.reds[j.val]
    some (fld 0 x.round.toNat ||| fld 32 x.code.toNat ||| fld 40 x.attempts.toNat ||| flag 43 (x.phase ≠ .idle))
  | _ => none

/-! ## PA control blocks -/

/-- Table 4.7. -/
def ThState.code : ThState → Nat
  | .idle => 0 | .run => 1 | .handler => 2 | .faulted => 3 | .ended => 4

/-- Table 4.23, PA_TH_EXC. -/
def excWord (e : ExcRegs) : Word :=
  fld 0 e.code.toNat ||| flag 8 e.deferred ||| flag 9 e.double ||| flag 10 e.overrun ||| fld 16 e.reg.toNat
    ||| fld 21 e.file.toNat

def epcWord (e : ExcRegs) : Word := fld 0 e.epc.toNat ||| fld 16 e.fpc.toNat

/-- Table 4.23, PA_TH_STAT. -/
def thStatWord (s : State) (p : Pa) (t : Thr) : Word :=
  let y := s.thr p t
  fld 0 y.st.code ||| fld 4 (y.pc % 16384) ||| fld 20 (stallCause s p t) ||| fld 24 y.loops.length

/-- Table 3.10, PA_STAT. -/
def paStatWord (s : State) (p : Pa) : Word :=
  let x := s.pa p
  flag 0 (s.regBit (.pa p .ctrl) 0 && x.quiesced) ||| flag 1 (x.ops.any (·.unit = .cells))
    ||| flag 2 (x.ops.any (·.unit = .stu)) ||| flag 3 (x.ops.any (·.unit = .veu))
    ||| flags 4 8 (fun t => let y := x.thr (Fin.ofNat 8 t); y.active || y.st = .faulted) ||| flag 12 x.merge.isEmpty

/-- Table 2.12, PA_MT_ATTR. -/
def mtAttrWord (s : State) (i : Nat) : Word :=
  match modEntry s i with
  | some e => fld 0 (e.2.2 - 12) ||| flag 3 true ||| flag 4 (modC s ≤ i) ||| fld 8 (log2q16 e.1)
  | none => 0

/-- R438: an event code of Table 16.3. -/
def eventListed (c : Nat) : Bool :=
  c ≤ 0x06 || (0x08 ≤ c && c ≤ 0x0B) || (0x10 ≤ c && c ≤ 0x14) || (0x20 ≤ c && c ≤ 0x28) || (0x30 ≤ c && c ≤ 0x33)

/-- The R231 conditions of a unit, read through `head_wait` (Table 8.12). The first unit of a command that reads all its
sources before it writes (R243) reads them for all its units. -/
def unitHeld (x : PaState) (p : Pa) (c : BowCmd) (u : BowUnit) : Bool :=
  let own := fun (a n : Nat) => ownSpm p a n
  let src := ((if c.whole then c.left else [u]).flatMap (·.pieces)).filterMap fun k => match k.src with
    | .mem a => some (a, k.len)
    | _ => none
  let lines := (u.pieces.filter fun k => own k.dst k.len).map fun k => (k.dst - spmAddr p 0, k.len)
  let srcOwn := (src.filter fun r => own r.1 r.2).map fun r => (r.1 - spmAddr p 0, r.2)
  let early := x.ops.filter fun o => o.thr = c.thr && o.id < c.before
  -- earlier instructions still use the unit's lines
  (early.any fun o => (o.uses ++ o.defs).any fun d => (lines ++ srcOwn).any fun r => d.meets (.spm r.1 (r.1 + r.2)))
  -- an earlier command has a landing pending on its source lines
  || ((srcOwn.flatMap fun r => (linesOf r.1 r.2).map (·.1 / 4096)).any fun l =>
        (x.bow.queue.any fun d => d.id < c.id && d.left.any fun v => (unitLines p v).contains l)
        || (x.bow.tags.any fun g => g.cmd < c.id && (unitLines p g.unit).contains l))
  -- an earlier store, atomic or egress write of the thread to the source has not been performed
  || (src.any fun r => !own r.1 r.2 &&
        ((early.any fun o => match o.acc with
          | some m => !m.done && overlap m.addr m.size r.1 r.2 && (match m.kind with
              | .load _ _ => false | .loadDesc _ => false | _ => true)
          | none => false)
        || (x.bow.queue.any fun d => d.id < c.id && d.thr = c.thr && d.left.any fun v =>
              !v.fetch && v.pieces.any fun k => overlap k.dst k.len r.1 r.2)
        || (x.bow.tags.any fun g => g.cmd < c.id && g.thr = c.thr && !g.unit.fetch
              && g.unit.pieces.any fun k => overlap k.dst k.len r.1 r.2)))

/-- The first command of a thread with a unit to request. -/
def headCmd (x : PaState) (t : Thr) : Option BowCmd := x.bow.queue.find? fun c => c.thr = t && c.left ≠ []

def headWait (x : PaState) (p : Pa) (t : Thr) : Bool :=
  match headCmd x t with
  | some c => match c.left with
    | u :: _ => unitHeld x p c u
    | [] => false
  | none => false

/-- The key blocks of a command stand in the key area: some have landed or are on their way. -/
def BowCmd.keyStands (c : BowCmd) : Option KeyBlocks := if 0 < c.out then c.key else c.key.filter (0 < ·.landed)

/-- R237: the sets of key blocks in the key area. -/
def keySets (x : PaState) : List KeyBlocks :=
  x.bow.keys.map (·.2) ++ x.bow.queue.filterMap BowCmd.keyStands ++ x.ops.filterMap (·.keySet)

/-- R250: a cancellation is completing: a thread waits in BCAN, has issued TEND or has faulted, and units that it had
requested have not ended. -/
def cancelling (x : PaState) : Bool := x.bow.tags.any fun g =>
  let y := x.thr g.thr
  y.wait = .cancel || y.ending || y.st = .faulted

def readPa (s : State) (p : Pa) : PaReg → Option Word
  | .stat => some (paStatWord s p)
  | .mergeStat => some (fld 0 (s.pa p).merge.length ||| flag 5 (s.pa p).draining)
  | .modcfg => some s.rp.modcfg
  | .mtQ i => some (match modEntry s i.val with | some e => fld 0 e.1 | none => 0)
  | .mtPsi i => some (match modEntry s i.val with | some e => fld 0 e.2.1 | none => 0)
  | .mtAttr i => some (mtAttrWord s i.val)
  | .thStat t => some (thStatWord s p t)
  | .thExc t => some (excWord (s.thr p t).exc)
  | .thEpc t => some (epcWord (s.thr p t).exc)
  | .thEaddr t => some (fld 0 (s.thr p t).exc.addr.toNat)
  | .thHandler t => some (fld 0 (s.thr p t).handlerPc.toNat ||| flag 15 (s.thr p t).handlerOn)
  | .ovtStat => some (
      flags 0 8 (fun i => s.regBit (.pa p (.ovtCnt (Fin.ofNat 8 i))) 48)
      ||| flag 8 (s.regBit (.pa p .ovtCycle) 63 || (List.finRange 13).any (fun c => s.regBit (.pa p (.ovtSlot c)) 48)
            || (List.finRange 8).any fun t => (List.finRange 10).any fun e => s.regBit (.pa p (.ovtTh t e)) 48)
      ||| flags 9 8 (fun i => !eventListed (s.regField (.pa p (.ovtEvsel (Fin.ofNat 8 i))) 0 8)))
  | .bowStat =>
    let b := (s.pa p).bow
    some (fld 0 b.queue.length ||| fld 16 b.tags.length ||| fld 24 b.reuse.length
      ||| fld 32 (min 2 (keySets (s.pa p)).length) ||| flag 34 (cancelling (s.pa p)))
  | .bowThq t => some (fld 0 ((s.pa p).bow.queue.filter (·.thr = t)).length ||| flag 16 (headWait (s.pa p) p t))
  | _ => none

/-! ## FRB (Tables 10.11 to 10.13) and OVT -/

/-- The channel, or from 1,024 the queue, on which a thread is blocked (R298). -/
def blockedAt (s : State) (p : Pa) (t : Thr) : Option Nat :=
  let y := s.thr p t
  if y.active then y.needs.findSome? fun n => match n with
    | .ring c _ => if (n.now s p t).isSome then some c else none
    | .round j => if (n.now s p t).isSome then some (1024 + j) else none
    | _ => none
  else none

/-- Some thread is blocked, on a channel or queue that satisfies a condition. -/
def anyBlocked (s : State) (which : Nat → Bool) : Bool :=
  (List.finRange 128).any fun p => (List.finRange 8).any fun t => (blockedAt s p t).any which

def blockedOn (s : State) (i : Nat) : Bool := anyBlocked s (· = i)

def readFrb (s : State) : FrbReg → Option Word
  | .stat => some (flag 0 (s.net.arbs.any fun e => match e.2 with | some x => x.frozen | none => false)
      ||| flag 1 (anyBlocked s fun _ => true))
  | .rctl r o => some (s.reg (.frb (.rctl r o)) &&& 1 ||| flag 1 (arbFrozen s (.router r o)))
  | .hctl k => some (s.reg (.frb (.hctl k)) &&& 1 ||| flag 1 (arbFrozen s (.stop k)))
  | .chStat i => some (match s.net.chans[i.val]? with
    | some c => flag 0 true ||| flag 1 (blockedOn s i.val) ||| flag 2 c.broken ||| flag 3 c.dropped ||| fld 4 (chanUsed c)
    | none => 0)
  | .chPtr i => some (match s.net.chans[i.val]? with
    | some c => fld 0 c.wp ||| fld 20 (chanRp c)
    | none => 0)
  | .mcLive0 i => some (match s.net.chans[i.val]? with
    | some c => if c.multicast then flags 0 64 (fun k => c.recvs.any fun r => r.live && r.pa.val = k) else 0
    | none => 0)
  | .mcLive1 i => some (match s.net.chans[i.val]? with
    | some c => if c.multicast then flags 0 64 (fun k => c.recvs.any fun r => r.live && r.pa.val = 64 + k) else 0
    | none => 0)
  | .cqStat j => some (match s.net.cqs[j.val]? with
    | some c => flag 0 true ||| fld 1 (match c.opened with | r :: _ => r.count | [] => 0) ||| fld 12 (c.written % 2 ^ 32)
    | none => 0)
  | _ => none

def readOvt (s : State) : OvtReg → Option Word
  | .ctl => some (s.reg (.ovt .ctl) &&& 1 ||| flag 1 (s.ovt.snapOwed.any fun p => (s.pa (Fin.ofNat 128 p)).online))
  | .hubcyc => some (fld 0 (s.hubCycles % 2 ^ 63) ||| flag 63 (2 ^ 63 ≤ s.hubCycles))
  | _ => none

/-- The fields of a register that follow from other state, as the whole word that a read returns. -/
def derived (s : State) : Reg → Option Word
  | .glb r => some (readGlb s r)
  | .peg r => some (readPeg s r)
  | .hif r => readHif s r
  | .capo r => readCapo s r
  | .spt r => readSpt s r
  | .tpc r => readTpc s r
  | .drn r => readDrn s r
  | .hbm n r => readHbm s n r
  | .slice h r => readSlice s h r
  | .brg n r => readBrg s n r
  | .sys r => readSys s r
  | .cxl r => readCxl s r
  | .pa p r => readPa s p r
  | .frb r => readFrb s r
  | .ovt r => readOvt s r

/-- What a read of a register returns: WO bits read zero (R14), RWP bits their last accepted value (R16). A read of
PEG_LOCK by a host acquires besides (R327). -/
def regRead (s : State) (r : Reg) : Word :=
  match derived s r with
  | some v => v
  | none =>
    let sp := r.spec
    (s.reg r &&& ~~~ (sp.rwp ||| sp.wo)) ||| (rwpRead s r &&& sp.rwp)

/-- A read at an offset of the control range: zero where no register is listed (R35). -/
def ctlRead (s : State) (o : Nat) : Word :=
  match Reg.at? o with
  | some r => regRead s r
  | none => 0

end Sys2Proof.Machine
end

