-- ==== Sys2Proof/Machine/Overtone.lean ====
section
/-! DEFINITION. Overtone's snapshots and bandwidth windows (R443 to R445). -/

namespace Sys2Proof.Machine

/-- The counter that OVT_SHADOW(k) holds (R446). -/
def shadowed (k : Nat) : PaReg :=
  if k = 0 then .ovtCycle
  else if k < 9 then .ovtCnt (Fin.ofNat 8 (k - 1))
  else if k < 22 then .ovtSlot (Fin.ofNat 13 (k - 9))
  else .ovtTh (Fin.ofNat 8 ((k - 22) / 10)) (Fin.ofNat 10 ((k - 22) % 10))

/-- R443: a PA takes a snapshot. -/
def takeSnapshot (s : State) (p : Pa) : State :=
  let s1 := (List.finRange 102).foldl (fun s k => s.setReg (.pa p (.ovtShadow k)) (s.reg (.pa p (shadowed k.val)))) s
  s1.putRegField (.pa p .ovtSnap) 32 32 (s1.regField (.pa p .ovtSnap) 32 32 + 1)

/-- R443: a package snapshot begins. -/
def startSnapAll (s : State) : State :=
  let s1 := s.setReg (.ovt .snapHubcyc) (regRead s (.ovt .hubcyc))
  let s2 := (List.finRange 76).foldl (fun s k =>
    (s.setReg (.ovt (.port k 6)) (s.reg (.ovt (.port k 0)))).setReg (.ovt (.port k 7)) (s.reg (.ovt (.port k 1)))) s1
  { s2 with ovt := { s2.ovt with snapOwed := ((List.finRange 128).filter fun p => (s.pa p).online).map (·.val) } }

/-- A take in the same cycle as another source's (`tie`) is that one's snapshot. -/
def takeOnce (s : State) (p : Pa) (tie : Bool) : State := if tie then s else takeSnapshot s p

/-- A PA that owes a package snapshot takes it. -/
def takeOwed (s : State) (p : Pa) (tie : Bool) : State :=
  if nmem s.ovt.snapOwed p.val then
    let s1 := takeOnce s p tie
    { s1 with ovt := { s1.ovt with snapOwed := ndel s1.ovt.snapOwed p.val } }
  else s

/-- The bytes of the window in progress, of a port and direction (0 in, 1 out). -/
def windowBytes (s : State) (k : Fin 76) (dir : Nat) : Nat :=
  sget (fun _ => 0) s.ovt.window (k.val * 2 + dir) % 2 ^ 40

/-- R445: one port at the end of a window. -/
def closePort (s : State) (k : Fin 76) : State :=
  let i := windowBytes s k 0
  let o := windowBytes s k 1
  let s1 := (s.setReg (.ovt (.port k 2)) (fld 0 i)).setReg (.ovt (.port k 3)) (fld 0 o)
  (s1.setReg (.ovt (.port k 4)) (fld 0 (max i (s1.regField (.ovt (.port k 4)) 0 40)))).setReg (.ovt (.port k 5))
    (fld 0 (max o (s1.regField (.ovt (.port k 5)) 0 40)))

/-- R445: the end of a window; between a write of log2len and the next start there is none. -/
def closeWindow (s : State) : State :=
  if s.hubCycles < s.ovt.start then s
  else
  let s1 := (List.finRange 76).foldl closePort s
  let s2 := s1.putRegField (.ovt .winSeq) 0 32 (s1.regField (.ovt .winSeq) 0 32 + 1)
  { s2 with ovt := { s2.ovt with window := [], start := s.hubCycles } }

/-- R445: values of log2len outside 10 to 24 act as the nearer bound. -/
def windowLen (v : Nat) : Nat := 2 ^ max 10 (min 24 v)

/-- R445: a write of log2len discards the window in progress; the next starts at the next multiple. -/
def setWindowLen (s : State) (v : Nat) : State :=
  let s1 := s.putRegField (.ovt .winCfg) 0 5 v
  { s1 with ovt := { s1.ovt with window := [], start := ceilTo s.hubCycles (windowLen v) } }

def clearPeaks (s : State) : State :=
  (List.finRange 76).foldl (fun s k => (s.setReg (.ovt (.port k 4)) 0).setReg (.ovt (.port k 5)) 0) s

/-- SNAPSHOT_TAKE. -/
def execSnapshotTake (p : Pa) (tie : Bool) (s : State) : Host.Outcome State Fault Refusal := .next (takeOnce s p tie)

/-- SNAP_ALL. -/
def execSnapAll (s : State) : Host.Outcome State Fault Refusal := .next (startSnapAll s)

/-- SNAP_ALL_PA_TAKE. -/
def execSnapAllPaTake (p : Pa) (tie : Bool) (s : State) : Host.Outcome State Fault Refusal := .next (takeOwed s p tie)

/-- BANDWIDTH_WINDOW_END. -/
def execBandwidthWindowEnd (s : State) : Host.Outcome State Fault Refusal := .next (closeWindow s)

/-- WINDOW_LENGTH_WRITE. -/
def execWindowLengthWrite (v : BitVec 5) (s : State) : Host.Outcome State Fault Refusal :=
  .next (setWindowLen s v.toNat)

/-- OVT_PEAK_CLEAR. -/
def execOvtPeakClear (s : State) : Host.Outcome State Fault Refusal := .next (clearPeaks s)

end Sys2Proof.Machine
end

