-- ==== Sys2Proof/Machine/Routes.lean ====
section
/-! DEFINITION. Bridge routes and the requester's side of a remote window (R337, R343, R349, R350). -/

namespace Sys2Proof.Machine

/-- The child of `a` under which `d` lies, if `d` lies below `a` (R337: at most eight levels). -/
def childOver (fuel a d : Nat) : Option Nat :=
  match fuel with
  | 0 => none
  | f + 1 => if d = 0 then none else if treeParent d = a then some d else childOver f a (treeParent d)

/-- Up to the common ancestor, then down (R343). -/
def treeNext (treeB : Bool) (a d : Nat) : BPort :=
  match childOver 9 a d with
  | some c => treePort treeB (if c = 2 * a + 1 then 1 else 2)
  | none => treePort treeB 0

/-- The shorter way round a closed ring of `n`, a tie to BRG1; the only way along a chain (R343). -/
def ringNext (closed : Bool) (n a d : Nat) : BPort :=
  if closed then (if (d + n - a) % n ≤ (a + n - d) % n then 1 else 0) else if a < d then 1 else 0

/-- The port by which a packet of this device leaves for `d`. -/
def routeOut (s : State) (a d : Nat) : BPort :=
  match s.regField (.sys .cfg) 2 2 with
  | 1 => treeNext true a d
  | 2 => ringNext s.brg.ringClosed s.brg.sysCount a d
  | _ => treeNext false a d

/-- The port by which a packet that arrived on `n` goes on to `d`: it keeps its tree, or its way round the ring. -/
def routeOn (a d : Nat) (n : BPort) : BPort :=
  if n = 0 then 1 else if n = 1 then 0
  else treeNext (n = 4 || n = 5 || n = 7) a d

/-- Put a packet on a port: one that needs a port that is not Up, or is miswired, is lost. -/
def putPacket (s : State) (n : BPort) (k : BitVec 8) (pkt : Packet) : State :=
  if portUsable s n then
    ((pushFlits s n (packetFlits k pkt)).emit (.packet n k pkt)).portBytes (Fin.ofNat 76 (2 + n.val)) true pkt.data.length
  else s

/-- Send a packet of this device towards another. -/
def sendPacket (s : State) (k : PktKind) (pkt : Packet) : State :=
  match ownAddr s with
  | some a => putPacket s (routeOut s a pkt.dst.toNat) k.code pkt
  | none => s

/-- A packet of this device, from its type's fields. -/
def newPacket (s : State) (dst : Nat) (tag : BitVec 32) (addr arg : Nat) (status : Nat) (data : List Byte) : Packet where
  dst := BitVec.ofNat 8 dst
  src := BitVec.ofNat 8 s.brg.devaddr.toNat
  ttl := 255
  tag := tag
  addr := BitVec.ofNat 64 addr
  len := BitVec.ofNat 32 data.length
  status := BitVec.ofNat 32 status
  arg := BitVec.ofNat 64 arg
  data := data

/-- R349, R350: request an access of a peer's window for instruction `op` of a PA. -/
def requestWindow (s : State) (p : Pa) (op : Nat) (dev off n : Nat) (data : Option (List Byte))
    (piece : Option Nat := none) : State :=
  let tag := s.brg.nextTag
  let s1 := { s with brg := { s.brg with nextTag := tag + 1, winReqs := s.brg.winReqs ++ [{ tag := tag, pa := p, op := op, piece := piece }] } }
  match data with
  | some bs => sendPacket s1 .wr (newPacket s1 dev tag off 0 0 bs)
  | none => sendPacket s1 .rd (newPacket s1 dev tag off n 0 [])

/-- Cut `[off, off + n)` in pieces of at most 4,096 bytes. -/
def windowCuts (fuel off n : Nat) : List (Nat × Nat) :=
  match fuel with
  | 0 => []
  | f + 1 => if n = 0 then [] else (off, min n 4096) :: windowCuts f (off + 4096) (n - 4096)

/-- The device reads or writes a peer's window on its own account: the packets leave, and their responses, which no
instruction awaits, do nothing (log entry 22). -/
def askWindow (s : State) (dev off n : Nat) (data : Option (List Byte)) : State :=
  (windowCuts (n / 4096 + 1) 0 n).foldl (fun s e =>
    let tag := s.brg.nextTag
    let s1 := { s with brg := { s.brg with nextTag := tag + 1 } }
    match data with
    | some bs => sendPacket s1 .wr (newPacket s1 dev tag (off + e.1) 0 0 ((bs.drop e.1).take e.2))
    | none => sendPacket s1 .rd (newPacket s1 dev tag (off + e.1) e.2 0 [])) s

/-- The device writes bytes anywhere that data may lie: an HBM write is performed at its slices (R256). -/
def placeData (s : State) (a : Nat) (bs : List Byte) : State :=
  match region s a with
  | .bridge dev off => askWindow s dev off bs.length (some bs)
  | .hbm => (atSlices s .soundpost .scratch a bs.length true).write a bs
  | _ => s.store a bs

end Sys2Proof.Machine
end

