-- ==== Sys2Proof/Machine/ScalarMem.lean ====
section
/-! DEFINITION. Scalar memory, descriptor memory and atomics (group 3: R118 to R121), and how an access in flight is
performed at its home. -/

namespace Sys2Proof.Machine

/-! ## A thread's access to control registers (R121, R441) -/

/-- Table 4.13: a thread of PA `p` may read, or write, the control offset `o`. -/
def ctlAllowed (s : State) (p : Pa) (o : Nat) (wr : Bool) : Bool :=
  match Block.at? o with
  | none => true
  | some (.glb, _) => true
  | some (.frb, _) => !wr
  | some (.ovt, _) => !wr && s.regBit (.ovt .ctl) 0
  | some (.pa q, i) =>
    if 0x3000 ≤ i ∧ i < 0x4000 then
      s.regBit (.pa q .ovtCtl) 1 && (!wr || (q = p && i = 0x3010))
    else if !wr then true
    else if q ≠ p then false
    else match PaReg.at? i with
      | none => true
      | some r =>
        (match r with | .ncfg => true | .nconst _ => true | .spmCfg => true | _ => false)
          || (let c := PaReg.spec p r; c.rw = 0 && c.w1c = 0 && c.w1s = 0 && c.wo = 0 && c.rwp = 0)
  | some _ => false

/-- The effect of a thread's permitted write: its own noise and SPM settings, and a snapshot. A thread's write of the GLB fields,
which Table 4.13 gives it read-only, changes nothing, GLB_CLK_STAT.lol among them, though Table 1.14 makes that W1C (DESIGN
CHOICE, log entry 83). -/
def ctlStore (s : State) (o : Nat) (v : Word) : State :=
  match Reg.at? o with
  | some (.pa p .ncfg) => s.setReg (.pa p .ncfg) (codeWrite (PaReg.spec p .ncfg) (s.reg (.pa p .ncfg)) v)
  | some (.pa p (.nconst k)) => s.setReg (.pa p (.nconst k)) v
  | some (.pa p .spmCfg) => s.setReg (.pa p .spmCfg) (codeWrite (PaReg.spec p .spmCfg) (s.reg (.pa p .spmCfg)) v)
  | some (.pa p .ovtSnap) => if bit v 0 then takeSnapshot s p else s
  | _ => s

/-! ## The address and what refuses it (R118, R34, R36, R109) -/

/-- ab + off. -/
def memAddr (y : Thread) (w : IWord) : Word := y.ra (wMemAb w).val + wMemOff w

/-- R34: a control register takes no descriptor. -/
def ctlCauses (s : State) (p : Pa) (o x n : Nat) (wr : Bool) (c : Bool → Exc → Option Cause) : List (Option Cause) :=
  if n = 32 then [c (x % 32 ≠ 0) .align, c true .window] else [c (x % 8 ≠ 0 || n ≠ 8) .align, c (!ctlAllowed s p o wr) .priv]

/-- What refuses an access of `n` bytes. -/
def accessCauses (s : State) (p : Pa) (w : IWord) (a : Word) (n : Nat) (wr : Bool) : List (Option Cause) :=
  let x := a.toNat
  let c := fun (b : Bool) (e : Exc) => causeIf b e .a (wMemAb w).val (x % 2 ^ 48)
  if !addrOk a then [c (x % n ≠ 0) .align, c true .window]
  else match region s x with
    | .ctl o => ctlCauses s p o x n wr c
    | _ => [c (x % n ≠ 0) .align, c (!populated s x n wr) .window]

/-- R120: an atomic to the far tier, mapped or not, a Bridge window or a control register is illegal. -/
def atomicIllegal (a : Word) : Bool :=
  addrOk a && (inside a.toNat 1 farBase 0x40000000000 || inside a.toNat 1 ctlBase 0x2000000
    || inside a.toNat 1 bridgeBase (256 * bridgeSize))

/-! ## Performing an access -/

/-- The bytes that a store writes. -/
def storeBytes (n : Nat) : MemKind → List Byte
  | .store v => leBytes n v.toNat
  | .storeDesc v => leBytes 32 v.toNat
  | _ => []

/-- The access that an instruction asks of a home. -/
def MemAcc.asked (m : MemAcc) : Access :=
  match m.kind with
  | .load _ _ => .read m.size
  | .loadDesc _ => .read 32
  | .amo op v _ => .atomic op v
  | k => .write (storeBytes m.size k)

/-- The value of a load of `n` bytes (R118). -/
def loaded (n : Nat) (sx : Bool) (data : List Byte) : Word :=
  let v := leNat data
  if sx then wordOfInt (signedOf (8 * n) v) else BitVec.ofNat 64 v

/-- The register writes that the answer of an access makes. -/
def answerWrites (m : MemAcc) (data : List Byte) : List Wr :=
  match m.kind with
  | .load r sx => [.s r (loaded m.size sx data)]
  | .amo _ _ r => [.s r (loaded 8 false data)]
  | .loadDesc r => [.c r (BitVec.ofNat 256 (leNat data))]
  | _ => []

/-- Replace instruction `id` of a PA. -/
def setOp (s : State) (p : Pa) (id : Nat) (f : Op → Op) : State :=
  s.modPa p fun x => { x with ops := x.ops.map fun o => if o.id = id then f o else o }

/-- The instruction with its access answered. -/
def Op.answered (m : MemAcc) (data : List Byte) (o : Op) : Op :=
  { o with writes := answerWrites m data, acc := some { m with done := true } }

/-- The instruction with its access failed at an address. -/
def Op.failedAt (m : MemAcc) (b : Nat) (o : Op) : Op :=
  { o with bad := some (BitVec.ofNat 48 b), acc := some { m with done := true } }

/-- R119: an earlier access of the thread to the same bytes has not been performed. -/
def accBehind (x : PaState) (o : Op) (m : MemAcc) : Bool :=
  x.ops.any fun e => e.thr = o.thr && e.id < o.id && (match e.acc with
    | some k => !k.done && overlap k.addr k.size m.addr m.size
    | none => false)

/-- Whether an access writes at its home. -/
def MemAcc.writes (m : MemAcc) : Bool :=
  match m.asked with
  | .read _ => false
  | _ => true

/-- A slice holds the request already: it waits for a fill, or in its slot behind one. -/
def inSlice (s : State) (rq : Requester) (a : Nat) (acc : Access) : Bool :=
  let x := s.slice (hbmHub a)
  x.fills.any (fun f => f.rq = rq && f.addr = a && f.acc = some acc)
    || x.waiting.any fun k => k.rq = rq && k.addr = a && .write k.bytes = acc

/-- R91: a read of an SPM from outside takes a read port of the cycle, or waits for one. -/
def takeRead (rq : Requester) (s : State) (q : Pa) (off : Nat) (acc : Access) : Option State × State :=
  if accWrites acc then (some s, s)
  else
    let r := askRead (.remote rq off acc) (off / 4096) (s.pa q)
    (r.1.map (s.setPa q), s.setPa q r.2)

/-- An access that has arrived at its home. -/
def atHome (rq : Requester) (s : State) (a : Nat) (acc : Access) : Served :=
  match region s a with
  | .spm q off => match takeRead rq s q off acc with
    | (some s1, _) => serve rq s1 a acc
    | (none, s1) => .held s1
  | _ => if inSlice s rq a acc then .held s else serve rq s a acc

/-- The home has answered the access of instruction `o`: the response is on its way. -/
def answerAcc (p : Pa) (o : Op) (m : MemAcc) : Served → State
  | .done s data => setOp (answerRequest p (.access p o.id) (.answer p o.id) m.addr m.size m.writes s) p o.id (Op.answered m data)
  | .failed s b => setOp (answerRequest p (.access p o.id) (.answer p o.id) m.addr m.size m.writes s) p o.id (Op.failedAt m b)
  | .held s => s

/-- Perform the access of instruction `o` of PA `p`, unless it waits for another or has not arrived; a window access waits
for its response (R350). -/
def performAcc (s : State) (p : Pa) (o : Op) (m : MemAcc) : State :=
  if m.done || accBehind (s.pa p) o m then s
  else match region s m.addr with
    | .ctl k =>
      let s1 := match m.kind with
        | .store v => ctlStore s k v
        | _ => s
      setOp s1 p o.id (Op.answered m (leBytes 8 (ctlRead s k).toNat))
    | .bridge _ _ => s
    | _ => if !requestArrives s p (.access p o.id) m.addr then s else answerAcc p o m (atHome (.threads p) s m.addr m.asked)

/-! ## Issue -/

/-- The instruction of an access. -/
def accOp (t : Thr) (y : Thread) (defs : List Res) (m : MemAcc) : Op where
  thr := t
  fpc := y.pc
  unit := .mem
  uses := []
  defs := defs
  writes := []
  acc := some m

/-- The written registers of an access. -/
def MemKind.defs : MemKind → List Res
  | .load r _ => if r = 0 then [] else [.s r]
  | .amo _ _ r => if r = 0 then [] else [.s r]
  | .loadDesc r => [.c r]
  | _ => []

/-- Count a scalar access to an address outside the own SPM. -/
def countRemote (s : State) (p : Pa) (t : Thr) (a : Nat) : State :=
  s.event p { code := 0x31, amount := 1, thr := some t, handler := some ((s.thr p t).st = .handler), addr := some a }

/-- An access to the own SPM is performed at issue (R93); what a load or an atomic returns is written when the
instruction completes. -/
def sendOwn (p : Pa) (t : Thr) (s : State) (m : MemAcc) : Issue :=
  match perform (.threads p) s m.addr m.asked (some t) with
  | .held s1 => .wait [.room (m.addr - spmAddr p 0) m.size] s1
  | .failed s1 b => .next (launch s1 p (Op.failedAt m b (accOp t (s.thr p t) m.kind.defs m)))
  | .done s1 data =>
    if m.kind.defs.isEmpty && (answerWrites m data).isEmpty then .next s1
    else .next (launch s1 p (Op.answered m data (accOp t (s.thr p t) m.kind.defs m)))

/-- A write footprint slot, for an access that writes a register (R129). -/
def slotNeed (m : MemAcc) : List Need := if m.kind.defs = [] then [] else [.slot]

/-- What an access to the own SPM waits for. -/
def ownNeeds (p : Pa) (m : MemAcc) : List Need :=
  let r := (m.addr - spmAddr p 0, m.size)
  spmNeeds [r] [] false ++ slotNeed m ++ if m.writes then [.room r.1 r.2] else []

/-- An access to the own SPM. A narrow write that finds no room makes the oldest merge entry drain (R95). -/
def issueOwn (p : Pa) (t : Thr) (s : State) (m : MemAcc) : Issue :=
  match unmet s p t (ownNeeds p m) with
  | [] => sendOwn p t s m
  | u => .wait u (if u.contains (.room (m.addr - spmAddr p 0) m.size) then forceMerge s m.addr else s)

/-- An access elsewhere travels to its home: its instruction is in flight, a store drops the source units that the PA
would reuse (R248), and an access to a Bridge peer's window sends its packet (R350). -/
def sendAccess (p : Pa) (t : Thr) (s : State) (m : MemAcc) : State :=
  let s1 := countRemote s p t m.addr
  let s2 := if m.writes then s1.modPa p fun x => dropReuseSource x m.addr m.size else s1
  let id := (s2.pa p).nextOp
  let s3 := launch s2 p (accOp t (s.thr p t) m.kind.defs m)
  match region s m.addr with
  | .bridge dev off => requestWindow s3 p id dev off m.size (if m.writes then some (storeBytes m.size m.kind) else none)
  | _ => sendRequest p (.access p id) m.addr m.size m.writes s3

/-- What an access elsewhere waits for: a slot, the Fretboard, and a request slot of the bank of its home (R30, R263). -/
def awayNeeds (s : State) (p : Pa) (m : MemAcc) : List Need :=
  slotNeed m ++ if travels s p m.addr then [.mesh m.addr, .bank m.addr] else []

/-- An access elsewhere. -/
def issueAway (p : Pa) (t : Thr) (s : State) (m : MemAcc) : Issue :=
  unlessWaits s p t (awayNeeds s p m) (.next (sendAccess p t s m))

/-- A checked access. -/
def issueAcc (p : Pa) (t : Thr) (s : State) (m : MemAcc) : Issue :=
  if ownSpm p m.addr m.size then issueOwn p t s m else issueAway p t s m

/-- The size code of a word as bytes (R118). -/
def memBytes (w : IWord) : Nat := 2 ^ wMemSize w

/-- LD. -/
def ldBody (p : Pa) (t : Thr) (w : IWord) (s : State) : Issue :=
  if !formOk [4] w || 3 < wMemSize w || wMemRc w ≠ 0 then illegal
  else needRegs p t [.a (wMemAb w), .s (fs (wRd w))] s
    (let a := memAddr (s.thr p t) w
     unlessRefused (accessCauses s p w a (memBytes w) false) none
       (issueAcc p t s { addr := a.toNat, size := memBytes w, kind := .load (fs (wRd w)) (wMemSx w) }))

/-- ST. -/
def stBody (p : Pa) (t : Thr) (w : IWord) (s : State) : Issue :=
  if !formOk [4] w || 3 < wMemSize w || wMemRc w ≠ 0 then illegal
  else needRegs p t [.a (wMemAb w), .s (fs (wRd w))] s
    (let y := s.thr p t
     let a := memAddr y w
     unlessRefused (accessCauses s p w a (memBytes w) true) none
       (issueAcc p t s { addr := a.toNat, size := memBytes w, kind := .store (y.rs (wRd w)) }))

/-- CLD: the descriptor is not checked (R123). -/
def cldBody (p : Pa) (t : Thr) (w : IWord) (s : State) : Issue :=
  if !formOk [4] w || wMemSize w ≠ 4 || wMemRc w ≠ 0 || 16 ≤ wRd w then illegalAt [4] w
  else needRegs p t [.a (wMemAb w), .c (fa (wRd w))] s
    (let a := memAddr (s.thr p t) w
     unlessRefused (accessCauses s p w a 32 false) (some (fa (wRd w)))
       (issueAcc p t s { addr := a.toNat, size := 32, kind := .loadDesc (fa (wRd w)) }))

/-- CST: the descriptor is checked (R123). -/
def cstBody (p : Pa) (t : Thr) (w : IWord) (s : State) : Issue :=
  if !formOk [4] w || wMemSize w ≠ 4 || wMemRc w ≠ 0 || 16 ≤ wRd w then illegal
  else needRegs p t [.a (wMemAb w), .c (fa (wRd w))] s
    (let y := s.thr p t
     let a := memAddr y w
     let d := y.rc (wRd w)
     unlessRefused (readChecks s d (fa (wRd w)) ++ accessCauses s p w a 32 true) none
       (issueAcc p t s { addr := a.toNat, size := 32, kind := .storeDesc d }))

/-- The atomics: `op` of the old s[r] and of s[rc]. -/
def amoBody (op : Word → AtomicOp) (p : Pa) (t : Thr) (w : IWord) (s : State) : Issue :=
  if !formOk [4] w || wMemSize w ≠ 3 then illegal
  else needRegs p t [.a (wMemAb w), .s (fs (wRd w)), .s (fs (wMemRc w))] s
    (let y := s.thr p t
     let a := memAddr y w
     unlessRefused (causeIf (atomicIllegal a) .illegal .a (wMemAb w).val (a.toNat % 2 ^ 48)
         :: accessCauses s p w a 8 true) none
       (issueAcc p t s
         { addr := a.toNat, size := 8, kind := .amo (op (y.rs (wRd w))) (y.rs (wMemRc w)) (fs (wRd w)) }))

/-! ## The rows -/

/-- LD. -/
def execLd (p : Pa) (t : Thr) (w : IWord) (s : State) : Host.Outcome State Fault Refusal :=
  .next (attemptOf 3 0x00 p t w (ldBody p t w) s)

/-- ST. -/
def execSt (p : Pa) (t : Thr) (w : IWord) (s : State) : Host.Outcome State Fault Refusal :=
  .next (attemptOf 3 0x01 p t w (stBody p t w) s)

/-- CLD. -/
def execCld (p : Pa) (t : Thr) (w : IWord) (s : State) : Host.Outcome State Fault Refusal :=
  .next (attemptOf 3 0x02 p t w (cldBody p t w) s)

/-- CST. -/
def execCst (p : Pa) (t : Thr) (w : IWord) (s : State) : Host.Outcome State Fault Refusal :=
  .next (attemptOf 3 0x03 p t w (cstBody p t w) s)

/-- AMOADD. -/
def execAmoadd (p : Pa) (t : Thr) (w : IWord) (s : State) : Host.Outcome State Fault Refusal :=
  .next (attemptOf 3 0x08 p t w (amoBody (fun _ => .add) p t w) s)

/-- AMOSWAP. -/
def execAmoswap (p : Pa) (t : Thr) (w : IWord) (s : State) : Host.Outcome State Fault Refusal :=
  .next (attemptOf 3 0x09 p t w (amoBody (fun _ => .swap) p t w) s)

/-- AMOCAS. -/
def execAmocas (p : Pa) (t : Thr) (w : IWord) (s : State) : Host.Outcome State Fault Refusal :=
  .next (attemptOf 3 0x0A p t w (amoBody .cas p t w) s)

/-- AMOMAXU. -/
def execAmomaxu (p : Pa) (t : Thr) (w : IWord) (s : State) : Host.Outcome State Fault Refusal :=
  .next (attemptOf 3 0x0B p t w (amoBody (fun _ => .maxu) p t w) s)

end Sys2Proof.Machine
end

