-- ==== Sys2Proof/Machine/Complete.lean ====
section
/-! DEFINITION. The end of an instruction in flight: its completion (R175), its abort (R67, R134, R176), and a word that
names no instruction (R115). -/

namespace Sys2Proof.Machine

/-- The bytes that an instruction's results write to the SPM. -/
def writtenBytes (l : List Wr) : Nat :=
  (l.map fun w => match w with
    | .mem _ bs => bs.length
    | _ => 0).foldl (· + ·) 0

/-- A write of the SPM, cut at line boundaries. -/
def Wr.split : Wr → List Wr
  | .mem at_ bs => (linesOf at_ bs.length).map fun e => .mem e.1 ((bs.drop (e.1 - at_)).take e.2)
  | w => [w]

/-- The line of the own SPM that a write lies in. -/
def Wr.line? (p : Pa) : Wr → Option Nat
  | .mem at_ _ => some ((at_ - spmAddr p 0) / 4096)
  | _ => none

/-- The bytes of a line that some writes cover. -/
def writesMask (l : List Wr) : BitVec 4096 :=
  l.foldl (fun m w => match w with
    | .mem a bs => m ||| lineMask (a % 4096) bs.length
    | _ => m) 0

/-- Results reach the SPM line by line: a whole line is written over what the merge buffer holds of it, part of a line goes
through the buffer (R95, R96). A line that finds no room makes the oldest entry drain, and what is left waits. -/
def commitLines (p : Pa) (t : Thr) : List Nat → State → List Wr → State × List Wr
  | [], s, l => (s, l)
  | k :: r, s, l =>
    let ws := l.filter fun w => w.line? p = some k
    let m := writesMask ws
    if m = BitVec.allOnes 4096 || mergeRoom (s.pa p) k then
      commitLines p t r ((ws.foldl (applyWr p t) s).modPa p (mergeLine (some t) k m)) (l.filter fun w => w.line? p ≠ some k)
    else (s.modPa p forceOldest, l)

/-- The results of an instruction that wait for the SPM, after those that it has taken. -/
def commitMem (p : Pa) (o : Op) (s : State) : State × List Wr :=
  let l := o.writes.flatMap Wr.split
  commitLines p o.thr (l.filterMap (·.line? p)).eraseDups s l

/-- R188: the Chord workspace of a member holds undefined data once its keyed instruction has ended. -/
def endKeyed (p : Pa) (o : Op) (s : State) : State :=
  match o.keyed, o.keySet with
  | some k, some b =>
    (s.scramble (spmAddr p (s.rp.groups[k.1.val]).scratch) (16 * b.part)).event p { code := 0x33, amount := 1, thr := some o.thr }
  | _, _ => s

/-- An instruction completes: its results are written, in order, and it leaves its unit. While results wait for the SPM it
stays. -/
def finishOp (s : State) (p : Pa) (o : Op) : State :=
  let (s1, left) := commitMem p o s
  let n := writtenBytes o.writes - writtenBytes left
  let s2 := if n = 0 then s1 else s1.event p { code := 0x11, amount := n, master := some 0 }
  if left.any fun w => (w.line? p).isSome then setOp s2 p o.id fun o => { o with writes := left, groups := [] }
  else
    let s3 := left.foldl (applyWr p o.thr) (s2.modPa p fun x => { x with ops := x.ops.filter (·.id ≠ o.id) })
    endKeyed p o s3

/-- An abort: the destination is undefined and poisoned, and the thread receives the exception (R67, R134). An uncorrectable
source leaves what the element groups before it have written (R176). -/
def abortWith (s : State) (p : Pa) (o : Op) (e : Exc) (addr : Nat) (lol : Bool) : State :=
  raiseDeferred (abortOp s p o (if e = .ecc && !lol then o.kept addr else 0)) p o.thr { exc := e, addr := addr } o.fpc lol

/-- R195: an error at one member aborts a keyed instruction at every member. -/
def abortKeyed (s : State) (k : Fin 4 × Nat) (e : Exc) (addr : Nat) (lol : Bool) : State :=
  (List.finRange 128).foldl (fun s p =>
    ((s.pa p).ops.filter (·.keyed = some k)).foldl (fun s o => abortWith s p o e addr lol) s)
    (dropRuns (fun r => (r.group, r.seq) = k) s)

/-- An abort of an instruction, at every member where it is a keyed one. -/
def abortAll (s : State) (p : Pa) (o : Op) (e : Exc) (addr : Nat) (lol : Bool) : State :=
  match o.keyed with
  | some k => abortKeyed s k e addr lol
  | none => abortWith s p o e addr lol

/-- The access of an instruction has been answered, or it made none. -/
def Op.answeredAll (o : Op) : Bool := match o.acc with | some m => m.done | none => true

/-- R192, R199: the instruction still waits for key blocks. -/
def keysAwaited (s : State) (o : Op) : Bool :=
  o.keyCmd.isSome || match o.keyed with
    | some k => s.rp.runs.any fun r => (r.group, r.seq) = k
    | none => false

/-- The own SPM bytes that an instruction reads. -/
def Op.readRanges (p : Pa) (o : Op) : List (Nat × Nat) :=
  (o.uses.filterMap fun r => match r with
    | .spm lo hi => some (lo, hi - lo)
    | _ => none)
    ++ match o.acc with
      | some m => if ownSpm p m.addr m.size then [(m.addr - spmAddr p 0, m.size)] else []
      | none => []

/-- R94: a read of the SPM has corrected the word at offset 8n: the correction is counted, and its write-back waits for the
write port. -/
def noteCorrected (s : State) (p : Pa) (n : Nat) : State :=
  if 8 * n < spmSize then
    ((s.countSat (.pa p .eccCnt) 0 32 1).event p { code := 0x14, amount := 1 }).modPa p (askPort (.correct n))
  else s

/-- The corrected words that lie in what was read. -/
def noteFixed (p : Pa) (read : List (Nat × Nat)) (fixed : List Nat) (s : State) : State :=
  (fixed.filter fun n => read.any fun r => overlap (8 * n) 8 r.1 r.2).foldl (fun s n => noteCorrected s p n) s

/-- What an instruction found corrected: a word of the SPM, or one of a tile register or an accumulator (R176). -/
def fixedWord : Option (Fin 1572864) → Nat
  | some n => n.val
  | none => 1572864

/-- Corrected words of tile registers and accumulators are counted as those of the SPM are; their write-back is no request of
the SPM's. -/
def noteCells (p : Pa) (fixed : List Nat) (s : State) : State :=
  (fixed.filter (· = 1572864)).foldl (fun s _ => (s.countSat (.pa p .eccCnt) 0 32 1).event p { code := 0x14, amount := 1 }) s

/-- An engine has read an uncorrectable word of the own SPM (R94). -/
def noteEngine (s : State) (o : Op) (b : Nat) : State := if engines.contains o.unit && o.acc.isNone then noteBad s b else s

/-- The end of an instruction whose access has been answered. -/
def endOp (s : State) (p : Pa) (o : Op) (fixed : List Nat) : State :=
  if keysAwaited s o then s
  else
    let s1 := noteCells p fixed (noteFixed p (o.readRanges p) fixed s)
    match o.bad with
    | some b => abortAll (noteEngine s1 o b.toNat) p o .ecc b.toNat false
    | none => finishOp s1 p o

/-- An answered access has its response before it. -/
def takeAnswer (s : State) (p : Pa) (o : Op) : Option State :=
  match o.acc with
  | none => some s
  | some m => if responseArrives s p (.answer p o.id) m.addr then some (takeResponse p (.answer p o.id) m.addr s) else none

/-- Instruction `n` of PA `p` reaches its completion: an access not yet performed is performed now, and one that waits
for its home, for a window's response or for key blocks stays in flight. -/
def completeInstr (s : State) (p : Pa) (n : Nat) (fixed : List Nat) : State :=
  match (s.pa p).ops.find? (·.id = n) with
  | none => s
  | some o =>
    let s1 := match o.acc with
      | some m => performAcc s p o m
      | none => s
    match (s1.pa p).ops.find? (·.id = n) with
    | none => s1
    | some o1 =>
      if !o1.answeredAll then s1
      else match takeAnswer s1 p o1 with
        | some s2 => endOp s2 p o1 fixed
        | none => s1

/-- What an abort reports. -/
def abortExc : Abort → Exc
  | .ecc => .ecc | .cells => .ecc | .cancel => .cancel | .window => .window | .lossOfLock => .ecc

/-- R94, R267: the word whose read was uncorrectable stays so; the read is counted and recorded at its home. -/
def markBad (s : State) (a : Nat) : State :=
  match region s a with
  | .hbm => noteBad (s.spoil a) a
  | .spm _ _ => noteBad (s.spoil a) a
  | .far _ _ => noteBad (s.spoil a) a
  | _ => s

/-- What an uncorrectable word leaves in the counters and the log: that of a tile register or an accumulator has no address
(R176, Table 14.9). -/
def noteAbort (s : State) (p : Pa) (why : Abort) (a : Nat) : State :=
  match why with
  | .ecc => markBad s a
  | .cells => (s.countSat (.pa p .eccCnt) 32 16 1).logRec 2 2 3 p.val 0
  | .cancel => s
  | .window => s
  | .lossOfLock => s

/-- An abort of instruction `n` of PA `p` arrives (R134). -/
def abortInstr (s : State) (p : Pa) (n : Nat) (why : Abort) (addr : BitVec 48) : State :=
  match (s.pa p).ops.find? (·.id = n) with
  | none => s
  | some o => abortAll (noteAbort s p why addr.toNat) p o (abortExc why) (if why = .cells then 0 else addr.toNat) (why = .lossOfLock)

/-- The ops that Tables 4.10 to 4.15, 5.5 to 5.16, 6.8, 8.3, 8.5 and 10.6 list for each group. -/
def listedOps : Nat → List Nat
  | 0 => [0x00, 0x02, 0x03, 0x04, 0x08, 0x10, 0x11, 0x12, 0x18, 0x19, 0x20]
  | 1 => upFrom 0x00 14 ++ [0x10, 0x11, 0x12, 0x14, 0x15, 0x16, 0x17]
  | 2 => [0x00, 0x01, 0x02]
  | 3 => [0x00, 0x01, 0x02, 0x03, 0x08, 0x09, 0x0A, 0x0B]
  | 4 => [0x00, 0x01, 0x02, 0x08, 0x09, 0x10, 0x11, 0x18, 0x19]
  | 5 => [0x00, 0x01, 0x02]
  | 6 => upFrom 0x00 6 ++ upFrom 0x10 5 ++ upFrom 0x20 4 ++ upFrom 0x28 7 ++ [0x30]
  | 7 => [0x00, 0x01, 0x02, 0x10, 0x11, 0x12]
  | 8 => [0x00, 0x01, 0x02]
  | 9 => upFrom 0x00 7 ++ upFrom 0x08 4 ++ [0x10, 0x11, 0x12] ++ upFrom 0x18 4 ++ [0x20, 0x28, 0x30, 0x3A, 0x3B]
  | 10 => [0x00, 0x01, 0x08, 0x09, 0x0A]
  | 11 => [0x00, 0x01, 0x02, 0x03, 0x08, 0x10, 0x11, 0x12, 0x13, 0x18]
  | 12 => [0x00, 0x01, 0x02, 0x03, 0x08, 0x09]
  | _ => []

/-- R211: an SCVT word whose mode is not listed. -/
def unlistedMode (w : IWord) : Bool := wGrp w = 10 && wOp w = 0x08 && 4 < (vFields w).mode

/-- R115: the word's grp is 13 to 15, its ext is 1, or its op is not listed for its group. -/
def unlistedWord (w : IWord) : Bool := wExt w || !(listedOps (wGrp w)).contains (wOp w) || unlistedMode w

/-- INSTRUCTION_COMPLETION. -/
def execInstructionCompletion (p : Pa) (n : Nat) (fixed : List (Option (Fin 1572864))) (s : State) :
    Host.Outcome State Fault Refusal := .next (completeInstr s p n (fixed.map fixedWord))

/-- DEFERRED_EXCEPTION. -/
def execDeferredException (p : Pa) (n : Nat) (why : Abort) (addr : BitVec 48) (s : State) :
    Host.Outcome State Fault Refusal :=
  .next (abortInstr s p n why addr)

/-- ILLEGAL_INSTRUCTION. -/
def execIllegalInstruction (p : Pa) (t : Thr) (w : IWord) (s : State) : Host.Outcome State Fault Refusal :=
  .next (if unlistedWord w || 16384 ≤ (s.thr p t).pc then attempt p t (fun _ => illegal) s else s)

end Sys2Proof.Machine
end

