-- ==== Sys2Proof/Machine/Sync.lean ====
section
/-! DEFINITION. Fences and barriers (group 5: R130 to R132). -/

namespace Sys2Proof.Machine

/-! ## FENCE (Table 4.18) -/

/-- R95: an SPM fence drains the merge buffer: every entry asks for the write port. -/
def drainAll (x : PaState) : PaState := (x.merge.map (·.line)).foldl (fun x l => drainLine l x) x

/-- R249: the source fence clears the PA's source reuse table in the cycle in which it holds. -/
def clearReuse (x : PaState) : PaState := { x with bow := { x.bow with reuse := [] } }

/-- Wait for the conditions of FENCE bits, of which bit 0 drains the merge buffer. -/
def needFence (p : Pa) (t : Thr) (bits : Nat) (s : State) (k : Issue) : Issue :=
  unlessWaits (if bits.testBit 0 && !fenceSpm (s.pa p) t then s.modPa p drainAll else s) p t [.fence bits] k

/-- FENCE. -/
def fenceBody (p : Pa) (t : Thr) (w : IWord) (s : State) : Issue :=
  if !formOk [5] w || 15 < wArg w then illegal
  else needFence p t (wArg w) s (.next (if (wArg w).testBit 2 then s.modPa p clearReuse else s))

/-! ## Waiting with an instruction -/

/-- The thread's instruction has been released, and issues now. -/
def isReleased (y : Thread) : Bool := y.released = some y.pc

/-- A thread waits no longer: its instruction issues when it is next attempted. -/
def releaseThread (p : Pa) (s : State) (t : Thr) : State :=
  s.modThr p t fun y => { y with wait := .none, released := some y.pc }

/-! ## BARPA (R131) -/

/-- The threads of a mask. -/
def maskThreads (m : BitVec 8) : List Thr := (List.finRange 8).filter fun t => bit m t.val

/-- The arrivals at a mask. -/
def arrivedAt (x : PaState) (m : BitVec 8) : BitVec 8 :=
  match x.barriers.find? (·.1 = m) with
  | some b => b.2
  | none => 0

/-- The thread arrives and waits. -/
def arriveBarpa (x : PaState) (t : Thr) (m : BitVec 8) : PaState :=
  let now := arrivedAt x m ||| bitAt 8 t.val true
  { x with
    barriers := if x.barriers.any (·.1 = m) then x.barriers.map fun b => if b.1 = m then (m, now) else b
                else x.barriers ++ [(m, now)]
    threads := (x.modThr t fun y => { y with wait := .barpa m }).threads }

/-- BARPA: it arrives once the thread's earlier SPM writes, those of its Bow fetch units among them, are committed (DESIGN
CHOICE for the latter, log entry 68). All waiters are released in the cycle of the last arrival. -/
def barpaBody (p : Pa) (t : Thr) (w : IWord) (s : State) : Issue :=
  let m := BitVec.ofNat 8 (wArg w)
  let x := s.pa p
  if !formOk [5] w || !bit m t.val then illegal
  else if isReleased (s.thr p t) then .next s
  else needFence p t 1 s
    (if (maskThreads m).any fun u => (x.thr u).st = .ended || (x.thr u).st = .faulted then
      .refuse { exc := .deadlock } none
     else if arrivedAt x m ||| bitAt 8 t.val true = m then
      .next ((maskThreads m).foldl (fun s u => if u = t then s else releaseThread p s u)
        (s.modPa p fun x => { x with barriers := x.barriers.filter (·.1 ≠ m) }))
     else unlessWaits s p t (if x.barriers.any (·.1 = m) then [] else [.masks])
      (.wait [] (s.modPa p fun x => arriveBarpa x t m)))

/-! ## BARPKG (R132) -/

/-- The hub die of a package barrier. -/
def barrierHub (b : Fin 32) : Hub := Fin.ofNat 4 (Config.barrierHub b.val)

/-- An arrival leaves for the barrier's hub die (Table 10.2). -/
def sendArrival (b : Fin 32) (p : Pa) (t : Thr) (s : State) : State :=
  inject (.arrival b p t) 0 1 0 [hubPath p (barrierHub b)] s

/-- An arrival can have come. -/
def arrivalCome (s : State) (b : Fin 32) (e : Pa × Thr) : Bool :=
  mayArrive s (.arrival b e.1 e.2) (destOf (routed s (hubPath e.1 (barrierHub b))))

/-- An arrival comes, and its release goes back. -/
def answerArrival (b : Fin 32) (s : State) (e : Pa × Thr) : State :=
  let h := barrierHub b
  passHops 1 1 (if h.val < 2 then 1 else 3) (hubBack e.1 h)
    (arrive (.arrival b e.1 e.2) (destOf (routed s (hubPath e.1 h))) s)

/-- The thread arrives at a package barrier and waits for its release. -/
def arriveBarpkg (s0 : State) (p : Pa) (t : Thr) (b : Fin 32) : State :=
  let s := sendArrival b p t s0
  let s1 := { s with rp := { s.rp with barrArrived := s.rp.barrArrived.set b.val (s.rp.barrArrived[b.val] ++ [(p, t)]) } }
  s1.modThr p t fun y => { y with arrivals := y.arrivals ++ [(b.val, y.pc)], wait := .barpkg b }

/-- BARPKG. -/
def barpkgBody (p : Pa) (t : Thr) (w : IWord) (s : State) : Issue :=
  if !formOk [5] w || 32 ≤ wArg w then illegal
  else
    let b : Fin 32 := Fin.ofNat 32 (wArg w)
    let y := s.thr p t
    if s.rp.barrCount[b.val] = 0 then illegal
    else if isReleased y then .next s
    else if nmem y.held b.val then .next (s.modThr p t fun y => { y with held := ndel y.held b.val })
    else if y.arrivals.any (·.1 = b.val) then .wait [] (s.modThr p t fun y => { y with wait := .barpkg b })
    else needFence p t 2 s (.wait [] (arriveBarpkg s p t b))

/-- The thread stands at the BARPKG of an arrival at pc `at_` again, after an ERET, and has not attempted it yet. -/
def standsAgain (y : Thread) (at_ : Nat) : Bool := y.st = .run && y.pc = at_

/-- One arrival's release: a waiter goes on; a thread in its handler, or back at its BARPKG, holds the release (the latter is
DESIGN CHOICE, log entry 69); any other thread has gone past. -/
def releaseArrival (b : Fin 32) (s : State) (e : Pa × Thr) : State :=
  let y := s.thr e.1 e.2
  let s1 := s.modThr e.1 e.2 fun y => { y with arrivals := y.arrivals.filter (·.1 ≠ b.val) }
  if y.wait = .barpkg b then releaseThread e.1 s1 e.2
  else if y.st = .handler || y.arrivals.any fun a => a.1 = b.val && standsAgain y a.2 then
    s1.modThr e.1 e.2 fun y => { y with held := nins y.held b.val }
  else s1

/-- The arrivals that the barrier counts have come. -/
def barpkgFull (s : State) (b : Fin 32) : Bool :=
  s.rp.barrCount[b.val] ≠ 0 && s.rp.barrCount[b.val] ≤ (s.rp.barrArrived[b.val]).length
    && (s.rp.barrArrived[b.val]).all (arrivalCome s b)

/-- R132: every waiter is released and the barrier resets. -/
def releaseBarpkg (s : State) (b : Fin 32) : State :=
  let l := s.rp.barrArrived[b.val]
  let s1 := l.foldl (answerArrival b) s
  l.foldl (releaseArrival b) { s1 with rp := { s1.rp with barrArrived := s1.rp.barrArrived.set b.val [] } }

/-! ## The rows -/

/-- FENCE. -/
def execFence (p : Pa) (t : Thr) (w : IWord) (s : State) : Host.Outcome State Fault Refusal :=
  .next (attemptOf 5 0x00 p t w (fenceBody p t w) s)

/-- BARPA. -/
def execBarpa (p : Pa) (t : Thr) (w : IWord) (s : State) : Host.Outcome State Fault Refusal :=
  .next (attemptOf 5 0x01 p t w (barpaBody p t w) s)

/-- BARPKG. -/
def execBarpkg (p : Pa) (t : Thr) (w : IWord) (s : State) : Host.Outcome State Fault Refusal :=
  .next (attemptOf 5 0x02 p t w (barpkgBody p t w) s)

/-- BARPKG_RELEASE. -/
def execBarpkgRelease (b : Fin 32) (s : State) : Host.Outcome State Fault Refusal :=
  .next (if barpkgFull s b then releaseBarpkg s b else s)

end Sys2Proof.Machine
end

