-- ==== Sys2Proof/Machine/Units.lean ====
section
/-! DEFINITION. The Bow's units (R229), its queue (R227, R228), and the blocks of keys in the key area of a member of a Chord
group (R237). -/

namespace Sys2Proof.Machine

/-! ## Pieces and units (R229) -/

/-- The pieces of a run of `n` bytes, cut at the destination's 4 KiB boundaries; `src` says where the bytes from an offset of
the run come from. -/
def runPieces (src : Nat → PieceSrc) (dst n : Nat) : List Piece :=
  (linesOf dst n).map fun e => { src := src (e.1 - dst), dst := e.1, len := e.2 }

/-- The pieces of a copy. -/
def copyPieces (src dst n : Nat) : List Piece := runPieces (fun o => .mem (src + o)) dst n

/-- The source unit that a piece lands whole, for source reuse (R248). -/
def wholeUnit (s : State) (l : List Piece) : Option Nat :=
  match l with
  | [k] => match k.src with
    | .mem a =>
      if k.len = 4096 && a % 4096 = 0 && k.dst % 4096 = 0 && k.op = .write then
        match region s a with
        | .hbm => some (a / 4096)
        | .far _ _ => some (a / 4096)
        | _ => none
      else none
    | _ => none
  | _ => none

/-- One unit for each destination line, its pieces in the command's order. -/
def bowUnitsOf (s : State) (p : Pa) (cls : StreamClass) (l : List Piece) : List BowUnit :=
  ((l.map fun k => k.dst / 4096).eraseDups).map fun line =>
    let ks := l.filter fun k => k.dst / 4096 = line
    { pieces := ks, fetch := ks.all (fun k => ownSpm p k.dst k.len), cls := cls, whole := wholeUnit s ks }

/-- The units of a stream that goes to an instruction: a unit for each 4 KiB of it (R199). -/
def streamUnits (l : List Piece) : List BowUnit :=
  ((l.map fun k => k.dst / 4096).eraseDups).map fun line =>
    { pieces := l.filter fun k => k.dst / 4096 = line, fetch := true, cls := .key, stream := true }

/-- Tags the Bow may hold. -/
def tagLimit (s : State) (p : Pa) : Nat :=
  let q := s.regField (.pa p .bowCfg) 24 7
  if q = 0 || 64 < q then 64 else q

/-! ## The queue (R227, R228) -/

/-- A command enters the queue under the Bow's next number. -/
def addCmd (c : BowCmd) (x : PaState) : PaState :=
  let n := x.bow.nextId
  { x with bow := { x.bow with
      queue := x.bow.queue ++ [{ c with id := n, key := c.key.map fun kb => { kb with cmd := n } }], nextId := n + 1 } }

/-- A command of thread `t` at its pc. -/
def cmdAt (x : PaState) (t : Thr) (fresh : Bool) (us : List BowUnit) (key : Option KeyBlocks) (whole : Bool) : BowCmd where
  id := 0
  thr := t
  fpc := (x.thr t).pc
  hnd := (x.thr t).st = .handler
  before := x.nextOp
  fresh := fresh
  left := us
  out := 0
  key := key
  whole := whole

/-- The command enters the queue; one without a unit completes at once. -/
def enqueue (t : Thr) (fresh : Bool) (us : List BowUnit) (key : Option KeyBlocks) (whole : Bool) (x : PaState) :
    PaState :=
  if us = [] then
    match key with
    | some kb =>
      { x with bow := { x.bow with keys := x.bow.keys ++ [(t, { kb with cmd := x.bow.nextId })], nextId := x.bow.nextId + 1 } }
    | none => x
  else addCmd (cmdAt x t fresh us key whole) x

/-- Replace a command of the queue. -/
def setCmd (x : PaState) (id : Nat) (f : BowCmd → BowCmd) : PaState :=
  { x with bow := { x.bow with queue := x.bow.queue.map fun c => if c.id = id then f c else c } }

/-! ## Key blocks (R191, R237) -/

/-- The set with the lower command number. -/
def olderKey (a b : KeyBlocks) : KeyBlocks := if b.cmd < a.cmd then b else a

/-- The oldest unconsumed BKEY of a thread that names entry `e`, wherever its blocks are. -/
def findKey (x : PaState) (t : Thr) (e : Nat) : Option KeyBlocks :=
  let landed := x.bow.keys.filterMap fun k => if k.1 = t then some k.2 else none
  let queued := x.bow.queue.filterMap fun c => if c.thr = t && !c.aborted then c.key else none
  match (landed ++ queued).filter fun kb => kb.entry = e && !kb.consumed with
  | [] => none
  | kb :: r => some (r.foldl olderKey kb)

/-- The blocks of a BKEY have not all landed. -/
def keyQueued (x : PaState) (kb : KeyBlocks) : Bool := x.bow.queue.any (·.id = kb.cmd)

/-- The landed blocks of a BKEY leave the key area. -/
def takeLanded (kb : KeyBlocks) (x : PaState) : PaState :=
  { x with bow := { x.bow with keys := x.bow.keys.filter (·.2.cmd ≠ kb.cmd) } }

/-- No more of a command's blocks are requested, and those in flight are wasted. -/
def wasteCmd (id : Nat) (x : PaState) : PaState :=
  let f := fun (c : BowCmd) =>
    { c with left := [], aborted := true, key := c.key.map fun kb => { kb with consumed := true, wasted := true } }
  let x1 := setCmd x id f
  { x1 with bow := { x1.bow with
      queue := x1.bow.queue.filter fun c => !(c.id = id && c.out = 0)
      tags := dropTags (fun g => g.cmd = id) x1.bow.tags } }

/-- R54, R191, R237: a thread's BKEY is discarded: what has landed is counted, what is in flight will be. A discard for a
limb-count mismatch shows in PA_BOW_FLAGS.key_discard. -/
def discardKey (flag : Bool) (s : State) (p : Pa) (t : Thr) (kb : KeyBlocks) : State :=
  let s1 := if flag then s.raiseBits (.pa p .bowFlags) (mask 2 1) else s
  let s2 := if kb.landed = 0 then s1 else s1.event p
    { code := 0x25, amount := kb.landed, thr := some t, handler := some ((s.thr p t).st = .handler) }
  s2.modPa p fun x => wasteCmd kb.cmd (takeLanded kb x)

/-- R237: the half of the key area in which the blocks of one more instruction land. -/
def freeHalf (x : PaState) : Fin 2 :=
  if (keySets x).any (·.half = 0) && !((keySets x).any (·.half = 1)) then 1 else 0

/-- A unit's blocks in half `h` of the key area at an address, of parts of `pb` bytes: the area's sixteen parts are taken
round. -/
def moveKey (base pb : Nat) (h : Fin 2) (u : BowUnit) : BowUnit :=
  { u with pieces := u.pieces.map fun k => { k with dst := base + (k.dst - base + 8 * h.val * pb) % (16 * pb) } }

/-! ## Places of the hub dies -/

/-- R22: the hub die of a PA's nearest hub stop. -/
def nearHub (p : Pa) : Hub := Fin.ofNat 4 ((if meshY p ≤ 3 then 0 else 2) + if meshX p < 8 then 0 else 1)

/-- The links of a path carry some flits (R445). -/
def countPath (s : State) (l : List Hop) (flits : Nat) : State := (routed s l).foldl (fun s h => countLink s h flits) s

end Sys2Proof.Machine
end

