-- ==== Sys2Proof/Machine/Chord.lean ====
section
/-! DEFINITION. Chord (chapter 6): evaluation keys and Rosin (R177 to R183), Chord groups (R184 to R188), the keyed ring
instructions and their sequence (R189 to R195). -/

namespace Sys2Proof.Machine

/-! ## Keys (R178, R179, R182) -/

/-- α: chain limbs of one digit. -/
def keyAlpha (h : KeyHdr) : Nat := ceilDiv h.limbs (max 1 h.dnum)

/-- Digits that a ciphertext of k limbs uses. -/
def digitsUsed (h : KeyHdr) (k : Nat) : Nat := ceilDiv k (max 1 (keyAlpha h))

/-- The chain limbs of digit `i` of a ciphertext of k limbs. -/
def digitLimbs (h : KeyHdr) (k i : Nat) : List Nat := upFrom (i * keyAlpha h) (min (keyAlpha h) (k - i * keyAlpha h))

/-- The modulus table entry of raised limb `l`: chain limbs first, then the special ones. -/
def raisedEntry (s : State) (k l : Nat) : Nat := if l < k then l else modC s + (l - k)

/-- The words that a stream of random bytes makes below q. -/
def rosinWords (q : Nat) : Nat → List Byte → List Nat
  | 0, _ => []
  | fuel + 1, bs =>
    let x := leNat (bs.take 8) % 2 ^ bitLen q
    if x < q then x :: rosinWords q fuel (bs.drop 8) else rosinWords q fuel (bs.drop 8)

/-- R182: block b of the a-half of limb (i, j). The stream is cut at 65,536 words, of which each is below q with a
probability of at least a half (log entry 13). -/
def rosinBlock (h : KeyHdr) (q i j b : Nat) : List Nat :=
  let seed := h.seed ++ byte1 h.kind ++ byte1 i ++ byte1 j ++ leBytes 2 b
  (rosinWords q 65536 (shake128 (65536 * 8) seed)).take 512

/-- R178: where limb (i, j, half) of a key of kinds 1 to 4 or 7 lies. -/
def keyLimbAt (h : KeyHdr) (i j half : Nat) : Nat :=
  let hs := if h.seeded then 1 else 2
  h.base + 4096 + ((i * (h.limbs + h.special) + j) * hs + half) * h.n * 8

/-- The modulus table entry of key limb j. -/
def keyEntry (s : State) (h : KeyHdr) (j : Nat) : Nat := if j < h.limbs then j else modC s + (j - h.limbs)

/-! ## Groups (R184, R186, R188) -/

/-- The group of a PA. -/
def groupOf (s : State) (p : Pa) : Option (Fin 4) :=
  (List.finRange 4).find? fun g => (s.rp.groups[g.val]).mask.getLsbD p.val

/-- The members of a group, ascending. -/
def members (s : State) (g : Fin 4) : List Pa :=
  (List.finRange 128).filter fun p => (s.rp.groups[g.val]).mask.getLsbD p.val

/-- R186: T for a group of `n` members and a raised basis of `l` limbs. -/
def teamSize (n l : Nat) : Nat := if l = 0 || n < l then 1 else 2 ^ Nat.log2 (n / l)

/-- P: part bytes of a limb of dimension n under a team of t. -/
def partBytes (n t : Nat) : Nat := ceilTo (n / t * 8) 4096

/-! ## The hybrid key switch (R192) -/

/-- What a key switch works with: the state, the key's header, log2 N, the source's limb count, and the key's limbs by digit,
raised limb and half, as the members hold them. -/
structure KsCtx where
  s : State
  h : KeyHdr
  lg : Nat
  k : Nat
  key : Nat → Nat → Nat → List Nat

def KsCtx.q (x : KsCtx) (l : Nat) : Nat := modQ x.s (raisedEntry x.s x.k l)

def KsCtx.psi (x : KsCtx) (l : Nat) : Nat := psiN x.s (raisedEntry x.s x.k l) x.lg

def KsCtx.primes (x : KsCtx) (ls : List Nat) : List Nat := ls.map x.q

/-- Stage 2: a limb in coefficient form, times the digit constant of its limb. -/
def KsCtx.scaled (x : KsCtx) (digit : List Nat) (j : Nat) (l : List Nat) : List Nat :=
  (inttList (x.q j) (x.psi j) x.lg l).map fun a => cellOp .mul (x.q j) false a (Config.digitConst (x.primes digit) (x.q j)) 0

/-- Stages 4 and 10: basis extension of the limbs `src` (of primes `ps`) to prime q: BCU sums, then reduction. -/
def extendLimbs (ps : List Nat) (src : List (List Nat)) (n q : Nat) : List Nat :=
  (upFrom 0 n).map fun w =>
    ((src.zip (upFrom 0 src.length)).foldl (fun a e => a + Config.extendConst ps e.2 q * e.1.getD w 0) 0) % 2 ^ 128 % q

/-- Stages 2 to 5: digit `i` of x extended to raised limb `l`, in evaluation form. -/
def KsCtx.digit (x : KsCtx) (src : List (List Nat)) (i l : Nat) : List Nat :=
  let ls := digitLimbs x.h x.k i
  let ys := ls.map fun j => x.scaled ls j (src.getD j [])
  nttList (x.q l) (x.psi l) x.lg (extendLimbs (x.primes ls) ys (2 ^ x.lg) (x.q l))

/-- Stage 7: the inner product of raised limb `l`, in the cells' lazy mode. -/
def KsCtx.inner (x : KsCtx) (src : List (List Nat)) (half l : Nat) : List Nat :=
  (upFrom 0 (digitsUsed x.h x.k)).foldl (fun acc i =>
    ((acc.zip (x.digit src i l)).zip (x.key i l half)).map fun e => cellOp .mad (x.q l) true e.1.2 e.2 e.1.1)
    (List.replicate (2 ^ x.lg) 0)

/-- Stages 8 to 10: chain limb `j` of one half of the switch, its last cell operation lazy or not. -/
def KsCtx.down (x : KsCtx) (src : List (List Nat)) (half j : Nat) (lazy : Bool) : List Nat :=
  let sp := upFrom x.k (modK x.s)
  let low := sp.map fun l => inttList (x.q l) (x.psi l) x.lg (x.inner src half l)
  let ext := nttList (x.q j) (x.psi j) x.lg (extendLimbs (x.primes sp) low (2 ^ x.lg) (x.q j))
  let pInv := invMod ((x.primes sp).foldl (· * ·) 1) (x.q j)
  ((x.inner src half j).zip ext).map fun e =>
    cellOp .mul (x.q j) lazy (cellOp .sub (x.q j) false e.1 0 e.2) pInv 0

/-! ## Table 6.3 -/

inductive KeyedOp where
  | cmul | chord | crot | cconj
  deriving DecidableEq, Repr

def KeyedOp.code : KeyedOp → Nat
  | .cmul => 0x20 | .chord => 0x21 | .crot => 0x22 | .cconj => 0x23

/-- The sources of a keyed instruction, limb by limb: components 0 and 1 of cs1, and of cs2. -/
structure KsSrc where
  a0 : List (List Nat)
  a1 : List (List Nat)
  b0 : List (List Nat)
  b1 : List (List Nat)

/-- Cell by cell, limb `j` of two polynomials. -/
def cells2 (op : CellOp) (q : Nat) (lazy : Bool) (a b : List Nat) : List Nat :=
  (a.zip b).map fun e => cellOp op q lazy e.1 e.2 e.2

/-- τ_g on every limb, in evaluation form. -/
def tau (lg g : Nat) (l : List (List Nat)) : List (List Nat) := l.map (autEval lg g)

/-- d2 of the tensor product. -/
def tensor2 (x : KsCtx) (r : KsSrc) : List (List Nat) :=
  (upFrom 0 x.k).map fun j => cells2 .mul (x.q j) false (r.a1.getD j []) (r.b1.getD j [])

/-- d0 and d1 of the tensor product at limb `j`. -/
def tensor01 (x : KsCtx) (r : KsSrc) (j comp : Nat) : List Nat :=
  let a0 := r.a0.getD j []
  let a1 := r.a1.getD j []
  let b0 := r.b0.getD j []
  let b1 := r.b1.getD j []
  if comp = 0 then cells2 .mul (x.q j) false a0 b0
  else cells2 .add (x.q j) false (cells2 .mul (x.q j) false a0 b1) (cells2 .mul (x.q j) false a1 b0)

/-- Component `comp`, chain limb `j` of the result. -/
def keyedResult (op : KeyedOp) (lazy : Bool) (x : KsCtx) (r : KsSrc) (comp j : Nat) : List Nat :=
  let n := 2 ^ x.lg
  match op with
  | .cmul => cells2 .add (x.q j) lazy (tensor01 x r j comp) (x.down (tensor2 x r) comp j false)
  | .chord =>
    if comp = 0 then cells2 .add (x.q j) lazy (r.a0.getD j []) (x.down r.a1 0 j false) else x.down r.a1 1 j lazy
  | .crot =>
    let c1 := tau x.lg x.h.galois r.a1
    if comp = 0 then cells2 .add (x.q j) lazy (autEval x.lg x.h.galois (r.a0.getD j [])) (x.down c1 0 j false)
    else x.down c1 1 j lazy
  | .cconj =>
    let c1 := tau x.lg (2 * n - 1) r.a1
    if comp = 0 then cells2 .add (x.q j) lazy (autEval x.lg (2 * n - 1) (r.a0.getD j [])) (x.down c1 0 j false)
    else x.down c1 1 j lazy

/-! ## Checks (R187 to R191) -/

/-- R190: the key kinds that an operation takes. -/
def KeyedOp.kindOk (op : KeyedOp) (k : Nat) : Bool :=
  match op with
  | .cmul => k = 1
  | .chord => k = 1 || k = 4
  | .crot => k = 2
  | .cconj => k = 3

/-- R190, R191. -/
def keyCauses (s : State) (op : KeyedOp) (f : PFields) (h : KeyHdr) (d : Desc) : List (Option Cause) :=
  [causeIf (!op.kindOk h.kind || h.lgn ≠ dLgn d || h.limbs < dLimbs d || h.special ≠ modK s) .illegal .k f.kh.val,
   causeIf (op = .crot && f.imm ≠ h.galois) .illegal .k f.kh.val,
   causeIf (op = .cconj && h.galois ≠ 2 * dN d - 1) .illegal .k f.kh.val,
   causeIf (dTag d ≠ h.tagIn) .keytag .k f.kh.val]

/-- R60: kks of a keyed operation. -/
def keyNoise (s : State) (p : Pa) (h : KeyHdr) (d : Desc) : Nat := max (noiseConst s p (dScheme d)).kks h.knoise.toNat

/-- The tracking of a keyed operation, of descriptors in registers `i` and `j`. -/
def trackKeyed (s : State) (p : Pa) (op : KeyedOp) (h : KeyHdr) (d1 d2 : Desc) (i j : Fin 16 := 0) :
    Tracked × List (Option Cause) :=
  let kks := keyNoise s p h d1
  match op with
  | .cmul =>
    let r := trackMul s p kks d1 d2 i j
    ({ r.1 with tag := h.tagOut }, r.2)
  | _ => ({ tracked d1 with tag := h.tagOut, eval := true, noise := lse (dNoise d1) kks }, [])

/-- The workspace and the staged parts of an issue: (base, bytes), sources then destination. -/
structure ChordArea where
  srcs : List Staged
  dst : Staged
  scratch : Nat × Nat
  deriving DecidableEq, Repr

/-- R187, R188: where a member's parts and its scratch lie. -/
def chordArea (s : State) (p : Pa) (g : Fin 4) (y : Thread) (op : KeyedOp) (f : PFields) (d : Desc) : ChordArea :=
  let l := dLimbs d + modK s
  let pb := partBytes (dN d) (teamSize (members s g).length l)
  let win := fun (r : Fin 16) => ({ reg := r, base := y.ra r.val, comps := 2, bytes := 2 * pb } : Staged)
  { srcs := win f.as1 :: if op = .cmul then [win f.as2] else [], dst := win f.ad
    scratch := (spmAddr p (s.rp.groups[g.val]).scratch, 16 * pb) }

/-- A member's place in its group. -/
def memberNo (s : State) (g : Fin 4) (p : Pa) : Nat := ((members s g).takeWhile (· ≠ p)).length

/-- R186, R187: the member owns a chain limb of an instruction on a source of k limbs. -/
def ownsChain (s : State) (g : Fin 4) (p : Pa) (k : Nat) : Bool :=
  memberNo s g p / teamSize (members s g).length (k + modK s) < k

/-- Where a member's staged parts meet, or meet its workspace; one that stages none is not asked (R187). -/
def areaOverlaps (ip owns : Bool) (a : ChordArea) : List (Option Cause) :=
  [causeIf (owns && a.srcs.any fun x => overlapBad ip [a.dst.range] [x.range]) .overlap,
   causeIf (owns && (a.dst :: a.srcs).any fun x => overlap x.base.toNat x.bytes a.scratch.1 a.scratch.2) .overlap]

/-- The source descriptors of a keyed instruction, with their registers. -/
def keyedReads (op : KeyedOp) (f : PFields) (d1 d2 : Desc) : List (Desc × Fin 16) :=
  if op = .cmul then [(d1, f.cs1), (d2, f.cs2)] else [(d1, f.cs1)]

/-- Every check of a keyed instruction at a member (Table 6.4, stage 1). -/
def chordCauses (s : State) (p : Pa) (y : Thread) (g : Fin 4) (op : KeyedOp) (f : PFields) (h : KeyHdr) (d1 d2 : Desc)
    (r : Tracked) : List (Option Cause) :=
  let two := op = .cmul
  let a := chordArea s p g y op f d1
  let both := keyedReads op f d1 d2
  both.flatMap (fun x => schemeCause x.1 x.2 :: objChecks s x.1 x.2)
    ++ both.map (fun x => causeIf (!dEval x.1) .illegal .c x.2.val)
    ++ [causeIf ((members s g).length < dLimbs d1 + modK s) .illegal .c f.cs1.val]
    ++ keyCauses s op f h d1 ++ (if two then [causeIf (dTag d2 ≠ h.tagIn) .keytag .k f.kh.val] else [])
    ++ (trackKeyed s p op h d1 d2 f.cs1 f.cs2).2
    ++ [noiseCause s p (both.any fun x => dUnreliable x.1) (trackKeyed s p op h d1 d2).1 (noisiest both)]
    ++ resultBase s y f r ++ a.dst.causes p ++ a.srcs.flatMap (Staged.causes p)
    ++ areaOverlaps f.ip (ownsChain s g p (dLimbs d1)) a

/-! ## Key blocks (R183, R237) -/

/-- The pieces of block `half` of limb (i, j) of a key for part `r` of `t`, at an address: from the key's body, or regenerated by
the Rosin expander (R182). -/
def blockPieces (s : State) (e : Nat) (h : KeyHdr) (t r i j half dst : Nat) : List Piece :=
  let bytes := h.n / t * 8
  runPieces (fun o =>
    let at_ := r * bytes + o
    if h.seeded && half = 1 then .rosin e i j (keyEntry s h j) (at_ / 4096) (at_ % 4096) else .mem (keyLimbAt h i j half + at_)) dst bytes

/-- R237: the blocks that a member needs of the key of entry `e` for a source of k limbs: its part of both halves of each digit,
for its limb, in the first half of the key area; the part size beside them. -/
def keyPieces (s : State) (p : Pa) (g : Fin 4) (e : Nat) (h : KeyHdr) (k : Nat) : List Piece × Nat :=
  let n := (members s g).length
  let l := k + modK s
  let t := teamSize n l
  let m := memberNo s g p
  let pb := partBytes h.n t
  if n < l || l * t ≤ m then ([], pb)
  else
    let j := if m / t < k then m / t else h.limbs + (m / t - k)
    ((upFrom 0 (digitsUsed h k)).flatMap fun i => (upFrom 0 2).flatMap fun half =>
      blockPieces s e h t (m % t) i j half (spmAddr p ((s.rp.groups[g.val]).scratch + (2 * i + half) * pb)), pb)

/-- The units of those blocks, in half `hf` of the key area, and what the command that fetches them holds. -/
def keyUnits (s : State) (p : Pa) (g : Fin 4) (e : Nat) (h : KeyHdr) (k : Nat) (hf : Fin 2) : List BowUnit × KeyBlocks :=
  let l := keyPieces s p g e h k
  ((bowUnitsOf s p .key l.1).map (moveKey (spmAddr p (s.rp.groups[g.val]).scratch) l.2 hf),
   { entry := e, limbs := k, part := l.2, half := hf })

/-- R237: where a started member's key blocks come from: the BKEY of its thread that it consumes, as the command that still
fetches them or as the blocks; nothing where none matches, one of another limb count having been discarded. -/
def meetKey (s : State) (p : Pa) (t : Thr) (e k : Nat) : State × Option (Option Nat × Option KeyBlocks) :=
  match findKey (s.pa p) t e with
  | none => (s, none)
  | some kb =>
    if kb.limbs ≠ k then (discardKey true s p t kb, none)
    else if keyQueued (s.pa p) kb then
      (s.modPa p fun x => setCmd x kb.cmd fun c => { c with key := c.key.map fun b => { b with consumed := true } },
       some (some kb.cmd, none))
    else (s.modPa p (takeLanded kb), some (none, some kb))

/-- R237: a keyed instruction with no BKEY requests its own blocks as it starts. -/
def ownKey (s : State) (g : Fin 4) (i : ChordIssue) (h : KeyHdr) (k : Nat) : State × Option Nat × Option KeyBlocks :=
  let u := keyUnits s i.pa g i.entry h k (freeHalf (s.pa i.pa))
  let kb := { u.2 with consumed := true }
  if u.1 = [] then (s, none, some kb)
  else
    (s.modPa i.pa fun x => addCmd { cmdAt x i.thr false u.1 (some kb) false with fpc := i.fpc } x,
     some (s.pa i.pa).bow.nextId, none)

/-- The key blocks of a starting member. -/
def memberKey (s : State) (g : Fin 4) (i : ChordIssue) (h : KeyHdr) (k : Nat) : State × Option Nat × Option KeyBlocks :=
  match meetKey s i.pa i.thr i.entry k with
  | (s1, some r) => (s1, r)
  | (s1, none) => ownKey s1 g i h k

/-- R191: on a tag mismatch the BKEY that the instruction would have consumed is discarded. -/
def spoilKey (s : State) (p : Pa) (t : Thr) (e : Nat) : State :=
  match findKey (s.pa p) t e with
  | some kb => discardKey false s p t kb
  | none => s

/-! ## The start (R185, R192) -/

/-- Modular operations of member `m` (R197). -/
def chordOps (h : KeyHdr) (op : KeyedOp) (lg k ks t m : Nat) : Nat :=
  let l := k + ks
  let n := 2 ^ lg / t
  let bf := butterflies lg / t
  let j := m / t
  let dg := upFrom 0 (digitsUsed h k)
  let ext := ((dg.filter fun i => !(digitLimbs h k i).contains j).map fun i => (digitLimbs h k i).length * n + 2 * n + bf).foldl
    (· + ·) 0
  if m ≥ l * t then 0
  else if j < k then
    bf + ext + 2 * dg.length * n + 2 * (ks * n + 2 * n + bf) + 4 * n
      + (match op with
        | .cmul => 4 * n
        | .chord => 0
        | _ => 2 * n)
  else ext + 2 * dg.length * n + 2 * bf

/-- A component of a source, limb by limb, gathered from its owners' parts. -/
def gather (s : State) (is : List ChordIssue) (at_ : ChordIssue → Nat) (k n t pb comp : Nat) : List (List Nat) :=
  (upFrom 0 k).map fun j => (upFrom 0 t).flatMap fun r =>
    match is[j * t + r]? with
    | some i => (s.words (at_ i + comp * pb) (n / t)).map BitVec.toNat
    | none => []

/-- Part r of a limb. -/
def limbPart (n t r : Nat) (l : List Nat) : List Nat := (l.drop (r * (n / t))).take (n / t)

/-- What member `m` writes: its parts of both components, and its descriptor (Table 6.4, stage 11). -/
def memberWrites (i : ChordIssue) (k n t pb m : Nat) (res : Nat → Nat → List Nat) : List Wr :=
  if m / t < k then
    (upFrom 0 2).map (fun c => Wr.mem (i.ad + c * pb) (limbBytes (limbPart n t (m % t) (res c (m / t)))))
      ++ [.c i.cd i.result]
  else []

/-- A member's part of a keyed instruction in flight. -/
def memberOp (s : State) (k : Fin 4 × Nat) (p : Pa) : Option Op := (s.pa p).ops.find? (·.keyed = some k)

/-- Words of a member's key blocks: those of block `half` of digit `i`. -/
def blockWords (kb : KeyBlocks) (i half words : Nat) : List Nat :=
  (upFrom 0 words).map fun w => leNat ((upFrom ((2 * i + half) * kb.part + 8 * w) 8).map (sget noByte kb.blocks))

/-- Raised limb `l` of a key, from the blocks of the members of its team. -/
def teamLimb (sets : List KeyBlocks) (n t i l half : Nat) : List Nat :=
  (upFrom 0 t).flatMap fun r => match sets[l * t + r]? with
    | some kb => blockWords kb i half (n / t)
    | none => []

def keyedOpOf (c : Nat) : KeyedOp :=
  match c with
  | 0x20 => .cmul | 0x21 => .chord | 0x22 => .crot | _ => .cconj

/-- The results of a started instruction, by component and chain limb, once every member has its key blocks. -/
def runResult (s : State) (r : ChordRun) (h : KeyHdr) (i0 : ChordIssue) : Nat → Nat → List Nat :=
  let lg := 12 + dLgn i0.d1
  let k := dLimbs i0.d1
  let t := teamSize r.issues.length (k + modK s)
  let sets := r.issues.map fun i => ((memberOp s (r.group, r.seq) i.pa).bind (·.keySet)).getD { entry := r.entry, limbs := k }
  keyedResult (keyedOpOf (wOp i0.word)) (pFields i0.word).lazy
    { s := s, h := h, lg := lg, k := k, key := fun i l half => teamLimb sets (2 ^ lg) t i l half }
    { a0 := r.a0, a1 := r.a1, b0 := r.b0, b1 := r.b1 }

/-- The members' results are what the stages leave of the sources and the key blocks. -/
def fillRun (s : State) (r : ChordRun) : State :=
  match r.issues, s.rp.keys[r.entry]? with
  | i0 :: _, some h =>
    let k := dLimbs i0.d1
    let n := 2 ^ (12 + dLgn i0.d1)
    let t := teamSize r.issues.length (k + modK s)
    let res := runResult s r h i0
    (r.issues.zip (upFrom 0 r.issues.length)).foldl (fun s e =>
      match memberOp s (r.group, r.seq) e.1.pa with
      | some o => setOp s e.1.pa o.id fun o => { o with writes := memberWrites e.1 k n t (partBytes n t) e.2 res }
      | none => s) s
  | _, _ => s

/-- Some member of a started instruction still waits for key blocks (R192). -/
def runWaits (s : State) (r : ChordRun) : Bool :=
  r.issues.any fun i => (memberOp s (r.group, r.seq) i.pa).any (·.keyCmd.isSome)

/-- Started instructions whose members all have their key blocks go on to their end. -/
def settleRuns (s : State) : State :=
  (s.rp.runs.filter fun r => !runWaits s r).foldl (fun s r => dropRuns (· = r) (fillRun s r)) s

/-- The key area that a member's blocks take. -/
def keyArea (h : KeyHdr) (off k : Nat) (hf : Fin 2) (pb : Nat) : Nat × Nat :=
  if digitsUsed h k ≤ 4 then (off + 8 * hf.val * pb, 8 * pb) else (off, 16 * pb)

/-- A member's part is on its way; its workspace holds undefined data from now on. -/
def launchMember (g : Fin 4) (op : KeyedOp) (h : KeyHdr) (k lg t pb : Nat) (s : State) (im : ChordIssue × Nat) : State :=
  let i := im.1
  let m := im.2
  let p := i.pa
  let off := (s.rp.groups[g.val]).scratch
  let key := memberKey s g i h k
  let hf := match key.2.2 with
    | some kb => kb.half
    | none => freeHalf (s.pa p)
  let area := keyArea h off k hf pb
  let parts := (i.as1, 2 * pb) :: if op = .cmul then [(i.as2, 2 * pb)] else []
  let own := m / t < k
  let s1 := countWork (clouded true key.1 [(spmAddr p off, 16 * pb)]) p i.thr 0 0 (chordOps h op lg k (modK s) t m)
  launch s1 p
    { thr := i.thr, fpc := i.fpc, unit := .cells, uses := if own then spmRes (spmOffsets p parts) else []
      defs := (if own then .c i.cd :: spmRes (spmOffsets p [(i.ad, 2 * pb)]) else []) ++ spmRes [area]
      writes := [], poison := some i.cd, bad := if own then (firstBad s parts).map (BitVec.ofNat 48) else none
      keyed := some (g, s.rp.chordSeq[g.val]), keyCmd := key.2.1, keySet := key.2.2, busyTo := (s.pa p).cycle }

/-- Stages 3 and 9: the parts that member `m` receives over the Fretboard: its part of every other chain limb, and, at an owner
of a chain limb, of every special one. -/
def gatherTo (is : List ChordIssue) (k l t bytes : Nat) (s : State) (im : ChordIssue × Nat) : State :=
  let from_ := if l * t ≤ im.2 then [] else if im.2 / t < k then upFrom 0 l else upFrom 0 k
  (from_.filter (· ≠ im.2 / t)).foldl (fun s j => match is[j * t + im.2 % t]? with
    | some i => countPath s (paPath i.pa im.1.pa false) (flitsOf bytes)
    | none => s) s

/-- R185: two members' issues agree. -/
def issuesAgree (a b : ChordIssue) : Bool :=
  wOp a.word = wOp b.word && a.entry = b.entry && (pFields a.word).imm = (pFields b.word).imm && a.d1 = b.d1 && a.d2 = b.d2

/-- The oldest waiting issue of each member, members ascending. -/
def firstIssues (s : State) (g : Fin 4) : List ChordIssue :=
  (members s g).filterMap fun p => (liveIssues s g).find? (·.pa = p)

/-- Take issues out of the group's waiting list. -/
def dropIssues (s : State) (g : Fin 4) (l : List ChordIssue) : State :=
  { s with rp := { s.rp with chords := s.rp.chords.set g.val ((liveIssues s g).filter fun i => !l.contains i) } }

/-- Every member has issued: the sequence starts, from the sources as they stand. -/
def startChord (s : State) (g : Fin 4) (is : List ChordIssue) : State :=
  match is with
  | [] => s
  | i0 :: _ =>
    match s.rp.keys[i0.entry]? with
    | none => s
    | some h =>
      let k := dLimbs i0.d1
      let lg := 12 + dLgn i0.d1
      let n := 2 ^ lg
      let l := k + modK s
      let t := teamSize is.length l
      let pb := partBytes n t
      let run : ChordRun :=
        { group := g, seq := s.rp.chordSeq[g.val], issues := is, entry := i0.entry
          a0 := gather s is (·.as1) k n t pb 0, a1 := gather s is (·.as1) k n t pb 1
          b0 := gather s is (·.as2) k n t pb 0, b1 := gather s is (·.as2) k n t pb 1 }
      let nos := is.zip (upFrom 0 is.length)
      let s1 := nos.foldl (launchMember g (keyedOpOf (wOp i0.word)) h k lg t pb) s
      let s2 := nos.foldl (gatherTo is k l t (n / t * 8)) s1
      settleRuns { s2 with rp := { s2.rp with
        chordSeq := s2.rp.chordSeq.set g.val (s2.rp.chordSeq[g.val] + 1), runs := s2.rp.runs ++ [run] } }

/-- The instruction starts: its issues are no longer waiting, and the members' threads go on. -/
def chordStarted (s : State) (g : Fin 4) (p : Pa) (t : Thr) (is : List ChordIssue) : State :=
  ((is.filter fun i => !(i.pa = p && i.thr = t)).foldl (fun s i => releaseThread i.pa s i.thr)
    (startChord (dropIssues s g is) g is)).modThr p t fun y => { y with wait := .none }

/-- The issues of all members agree. -/
def allAgree (is : List ChordIssue) : Bool :=
  match is with
  | [] => false
  | i0 :: rest => rest.all (issuesAgree i0)

/-! ## One member's issue -/

/-- The fields of a keyed word (R187): the whole object, and no second source but of CMUL. -/
def keyedForm (op : KeyedOp) (f : PFields) : Bool :=
  !f.rsvd && f.lw = 0 && f.lc = 0 && f.comp = 0 && (op = .cmul || f.cs2 = 0 && f.as2 = 0) && (op = .crot || f.imm = 0)

/-- The second source of a keyed instruction. -/
def keyedSecond (op : KeyedOp) (y : Thread) (f : PFields) : Desc := if op = .cmul then y.rc f.cs2.val else 0

/-- The descriptor that a keyed instruction forms, before its budget. -/
def keyedTracked (op : KeyedOp) (s : State) (p : Pa) (y : Thread) (f : PFields) (h : KeyHdr) : Tracked :=
  (trackKeyed s p op h (y.rc f.cs1.val) (keyedSecond op y f)).1

/-- The member's issue of a keyed instruction under key entry `e`. -/
def keyedIssue (op : KeyedOp) (s : State) (p : Pa) (t : Thr) (w : IWord) (e : Nat) (h : KeyHdr) : ChordIssue :=
  let f := pFields w
  let y := s.thr p t
  let d1 := y.rc f.cs1.val
  let d2 := keyedSecond op y f
  let res := (budget s p ((keyedReads op f d1 d2).any fun x => dUnreliable x.1) (keyedTracked op s p y f h)).1
  { pa := p, thr := t, fpc := y.pc, word := w, entry := e, ad := (y.ra f.ad.val).toNat
    as1 := (y.ra f.as1.val).toNat, as2 := (y.ra f.as2.val).toNat, cd := f.cd, d1 := d1, d2 := d2
    result := res.pack ((y.ra f.ab.val).toNat % 2 ^ 48) }

/-- The checks of a keyed instruction at a member. -/
def keyedCauses (op : KeyedOp) (s : State) (p : Pa) (y : Thread) (g : Fin 4) (f : PFields) (h : KeyHdr) :
    List (Option Cause) :=
  chordCauses s p y g op f h (y.rc f.cs1.val) (keyedSecond op y f) (keyedTracked op s p y f h)

/-- What refuses a member's issue once every member has issued: a difference among them, or a check of its own. -/
def issueCause (s : State) (g : Fin 4) (is : List ChordIssue) (i : ChordIssue) : Option Cause :=
  match s.rp.keys[i.entry]? with
  | none => some { exc := .illegal }
  | some h =>
    if !allAgree is then some { exc := .illegal }
    else pickCause (keyedCauses (keyedOpOf (wOp i.word)) s i.pa (s.thr i.pa i.thr) g (pFields i.word) h)

/-- A waiting member receives a precise exception. -/
def endIssue (s : State) (i : ChordIssue) (c : Cause) : State :=
  takeException (s.modThr i.pa i.thr fun y => { y with wait := .none }) i.pa i.thr c

/-- A member is refused: its destination is poisoned (R66), and on a tag mismatch its key blocks are discarded (R191). -/
def refuseIssue (s : State) (e : ChordIssue × Cause) : State :=
  let s1 := if e.2.exc = .keytag then spoilKey s e.1.pa e.1.thr e.1.entry else s
  endIssue (poisonReg s1 e.1.pa e.1.thr e.1.cd) e.1 e.2

/-- The last member has issued: the instruction starts and the waiting members' threads go on, or those whose checks fail are
refused. -/
def resolveChord (s : State) (g : Fin 4) (p : Pa) (t : Thr) (is : List ChordIssue) : Issue :=
  match is.filterMap fun i => (issueCause s g is i).map fun c => (i, c) with
  | [] => .next (chordStarted s g p t is)
  | bad =>
    let s1 := settlePas (bad.map fun e => (e.1.pa, e.1.thr)) (bad.foldl refuseIssue (dropIssues s g (bad.map (·.1))))
    if bad.any fun e => e.1.pa = p && e.1.thr = t then .taken s1 else .wait [] s1

/-- The member's issue waits in its group. -/
def chordWaiting (s : State) (g : Fin 4) (i : ChordIssue) : State :=
  let old := (liveIssues s g).filter fun j => !(j.pa = i.pa && j.thr = i.thr)
  ({ s with rp := { s.rp with chords := s.rp.chords.set g.val (old ++ [i]) } } : State).modThr i.pa i.thr
    fun y => { y with wait := .chord }

/-- Issue `i` makes the group complete: every member has a waiting issue, and `i` is its member's oldest. -/
def chordComplete (s : State) (g : Fin 4) (i : ChordIssue) : Bool :=
  (firstIssues s g).length = (members s g).length && (firstIssues s g).contains i

/-- The member's issue joins its group. -/
def joinChord (s : State) (g : Fin 4) (i : ChordIssue) : Issue :=
  let s1 := chordWaiting s g i
  if chordComplete s1 g i then resolveChord s1 g i.pa i.thr (firstIssues s1 g) else .wait [] s1

/-- R233: a keyed instruction whose tags match waits for the landings of the BKEY that it will consume. -/
def keyNeeds (s : State) (p : Pa) (t : Thr) (e : Nat) (h : KeyHdr) (d : Desc) : List Need :=
  match findKey (s.pa p) t e with
  | some kb => if dTag d = h.tagIn && kb.limbs = dLimbs d && keyQueued (s.pa p) kb then [.keyBlocks kb.cmd] else []
  | none => []

/-- What a member waits for before its issue joins the group: one of the two keyed instructions that it holds, the cells, its key
blocks, and its staged parts. -/
def keyedNeeds (op : KeyedOp) (s : State) (p : Pa) (t : Thr) (g : Fin 4) (f : PFields) (e : Nat) (h : KeyHdr) : List Need :=
  let y := s.thr p t
  let d := y.rc f.cs1.val
  let a := chordArea s p g y op f d
  let owns := ownsChain s g p (dLimbs d)
  .members g :: .keyedCells :: .limit :: keyNeeds s p t e h d
    ++ if owns then spmNeeds (spmOffsets p (a.srcs.map Staged.range)) (spmOffsets p [a.dst.range]) true else []

/-- A keyed instruction on one member. -/
def keyedBody (op : KeyedOp) (p : Pa) (t : Thr) (w : IWord) (s : State) : Issue :=
  let f := pFields w
  if wFmt w ≠ 6 then illegal
  else if isReleased (s.thr p t) then .next s
  else if !keyedForm op f then refuse .illegal (some f.cd)
  else needRegs p t (.k f.kh :: descRegs f (op = .cmul)) s
    (match groupOf s p, (s.thr p t).k.toArray.getD f.kh.val none with
     | some g, some e =>
       match s.rp.keys[e.val]? with
       | none => .refuse { exc := .illegal, file := .k, reg := f.kh.val } (some f.cd)
       | some h => unlessWaits s p t (keyedNeeds op s p t g f e.val h) (joinChord s g (keyedIssue op s p t w e.val h))
     | some _, none => .refuse { exc := .illegal, file := .k, reg := f.kh.val } (some f.cd)
     | none, _ => refuse .illegal (some f.cd))

/-! ## The rows -/

/-- CMUL. -/
def execCmul (p : Pa) (t : Thr) (w : IWord) (s : State) : Host.Outcome State Fault Refusal :=
  .next (attemptOf 6 0x20 p t w (keyedBody .cmul p t w) s)

/-- CHORD. -/
def execChord (p : Pa) (t : Thr) (w : IWord) (s : State) : Host.Outcome State Fault Refusal :=
  .next (attemptOf 6 0x21 p t w (keyedBody .chord p t w) s)

/-- CROT. -/
def execCrot (p : Pa) (t : Thr) (w : IWord) (s : State) : Host.Outcome State Fault Refusal :=
  .next (attemptOf 6 0x22 p t w (keyedBody .crot p t w) s)

/-- CCONJ. -/
def execCconj (p : Pa) (t : Thr) (w : IWord) (s : State) : Host.Outcome State Fault Refusal :=
  .next (attemptOf 6 0x23 p t w (keyedBody .cconj p t w) s)

/-- CHORD_ISSUE_TIMEOUT: some member has not issued, and every member that has receives EXC_DEADLOCK. -/
def execChordIssueTimeout (g : Fin 4) (s : State) : Host.Outcome State Fault Refusal :=
  let is := firstIssues s g
  .next (if is = [] || is.length = (members s g).length then s
    else settlePas (is.map fun i => (i.pa, i.thr)) (is.foldl (fun s i => endIssue s i { exc := .deadlock }) (dropIssues s g is)))

end Sys2Proof.Machine
end

