-- ==== Sys2Proof/Machine/Bow.lean ====
section
/-! DEFINITION. The Bow (group 11, chapter 8): its commands and their checks (R227 to R246), and its units: their requests
(R229 to R231, R248), landings and acknowledgements (R229, R251). -/

namespace Sys2Proof.Machine

/-! ## Queueing a command (R227, R228, R233) -/

/-- What a well-formed command asks for: the registers that it names, what refuses it, the bytes of the SPM that it reads
as it issues, what then refuses it, and its units. -/
structure BowPlan where
  regs : List Res
  causes : List (Option Cause)
  reads : List (Nat × Nat) := []
  later : List (Option Cause) := []
  fresh : Bool
  units : List BowUnit
  key : Option KeyBlocks := none
  /-- an in-place transpose, which reads its source before it writes -/
  whole : Bool := false
  /-- an index was clamped or dropped -/
  clp : Bool := false
  /-- BMOVT issues in 8 cycles -/
  slow : Bool := false
  deriving DecidableEq, Repr

/-- Nothing refuses a list of checks. -/
def clear (l : List (Option Cause)) : Bool := (pickCause l).isNone

/-- Set PA_BOW_FLAGS.clp. -/
def noteClp (s : State) (p : Pa) (b : Bool) : State := if b then s.raiseBits (.pa p .bowFlags) 1 else s

/-- The command is queued. -/
def bowSend (s : State) (p : Pa) (t : Thr) (b : BowPlan) : State :=
  (noteClp s p b.clp).modPa p (enqueue t b.fresh b.units b.key b.whole)

/-- BMOVT issues in 8 cycles, counted as sync. -/
def slowIssue (s : State) (p : Pa) (t : Thr) : State :=
  s.modThr p t fun y => { y.advance with needs := [.issuing], holdTo := (s.pa p).cycle + 8 }

/-- A command of the Bow: its registers, its checks, the bytes that it reads as it issues, and room. A word with no plan is
illegal. -/
def bowRun (p : Pa) (t : Thr) (w : IWord) (plan : Pa → Thr → IWord → State → Option BowPlan) (s : State) : Issue :=
  match plan p t w s with
  | none => illegal
  | some b => needRegs p t b.regs s
      (unlessRefused b.causes none
        (unlessWaits s p t (if b.reads = [] then [] else spmNeeds (spmOffsets p b.reads) [] false)
          (unlessRefused b.later none
            (unlessWaits s p t [.bow b.units]
              (if b.slow then .jumped (slowIssue (bowSend s p t b) p t) else .next (bowSend s p t b))))))

/-! ## Format 6 commands (R235 to R237) -/

/-- Bytes of a limb of an object. -/
def limbSize (d : Desc) : Nat := if dScheme d = 3 && !dPlain d then (dN d + 512) * 8 else dN d * 8

/-- The components of an object that comp selects. A ring-GSW object has 2d rows of two. -/
def selected (s : State) (d : Desc) (comp : Nat) : List Nat :=
  if dScheme d = 3 || dPlain d then [0]
  else if dScheme d = 4 then
    (upFrom 0 (4 * gswDigits s)).filter fun c => comp = 0 || c % 2 = comp - 1
  else match comp with
    | 0 => [0, 1]
    | 1 => [0]
    | _ => [1]

/-- A one-component object has no component 1. -/
def compBad (d : Desc) (comp : Nat) : Bool := comp = 3 || (comp = 2 && (dPlain d || dScheme d = 3))

/-- Where limb `j` of component `c` of an object of k limbs lies. -/
def homeLimb (base k : Nat) (d : Desc) (c j : Nat) : Nat := base + (c * k + j) * limbSize d

/-- Bytes of the home footprint of an object of k limbs. -/
def homeBytes (s : State) (d : Desc) (k : Nat) : Nat :=
  (if dScheme d = 3 || dPlain d then 1 else if dScheme d = 4 then 4 * gswDigits s else 2) * k * limbSize d

/-- The class of a command's units (R257). -/
def objClass (d : Desc) : StreamClass := if dPlain d then .plaintext else .ciphertext

/-- A window or part command: its home, what it stages and the pairs (home address, staged offset, bytes) it moves. -/
structure ObjMove where
  desc : Desc
  k : Nat
  home : Nat
  /-- the register that gives the home, as an exception names it -/
  homeFile : RegFile
  homeReg : Nat
  staged : Staged
  pairs : List (Nat × Nat × Nat)
  /-- to the home rather than from it -/
  out : Bool
  limb : Nat

/-- The checks of R236 and R246. -/
def objMoveCauses (s : State) (p : Pa) (f : PFields) (m : ObjMove) : List (Option Cause) :=
  let n := homeBytes s m.desc m.k
  readChecks s m.desc f.cs1 ++ [causeIf (m.k ≤ m.limb || compBad m.desc f.comp) .illegal,
    causeIf (m.home % 4096 ≠ 0) .align m.homeFile m.homeReg m.home,
    causeIf (!populated s m.home n m.out) .window m.homeFile m.homeReg m.home,
    causeIf (overlap m.home n m.staged.base.toNat m.staged.bytes) .overlap]
    ++ m.staged.causes p

/-- The units of a window or part command. -/
def objUnits (s : State) (p : Pa) (m : ObjMove) : List BowUnit :=
  bowUnitsOf s p (objClass m.desc) (m.pairs.flatMap fun e =>
    let st := m.staged.base.toNat + e.2.1
    if m.out then copyPieces st e.1 e.2.2 else copyPieces e.1 st e.2.2)

/-- Format 6 fields that no command of group 11 uses; the Bow's `fresh` stands where Table 5.1 has `lazy`. -/
def bowForm6 (w : IWord) (uses : PFields → Bool) : Bool :=
  let f := pFields w
  wFmt w = 6 && !f.ip && f.cd = 0 && f.cs2 = 0 && f.as1 = 0 && f.as2 = 0 && !f.rsvd && uses f

/-- The home of a command: the descriptor's base, or a[ab]. -/
def homeOf (y : Thread) (f : PFields) (out : Bool) : Nat × RegFile × Nat :=
  if out then ((y.ra f.ab.val).toNat, .a, f.ab.val) else (dBase (y.rc f.cs1.val), .c, f.cs1.val)

/-- The plan of a window or part command. -/
def objPlan (s : State) (p : Pa) (f : PFields) (m : ObjMove) : BowPlan :=
  { regs := [.c f.cs1, .a f.ab, .a f.ad], causes := objMoveCauses s p f m, fresh := f.lazy
    units := if clear (objMoveCauses s p f m) then objUnits s p m else [] }

/-- What BLDW and BSTW move: the staged window of R156, limb by limb. -/
def windowMove (out : Bool) (s : State) (y : Thread) (f : PFields) : ObjMove :=
  let d := y.rc f.cs1.val
  let k := if out then f.imm + 1 else dLimbs d
  let cs := selected s d f.comp
  let wl := f.lc + 1
  let h := homeOf y f out
  { desc := d, k := k, home := h.1, homeFile := h.2.1, homeReg := h.2.2
    staged := { reg := f.ad, base := y.ra f.ad.val, comps := cs.length, bytes := cs.length * wl * limbSize d }
    pairs := (cs.zip (upFrom 0 cs.length)).flatMap fun ci => (upFrom 0 wl).map fun j =>
      (homeLimb h.1 k d ci.1 (f.lw + j), (ci.2 * wl + j) * limbSize d, limbSize d)
    out := out, limb := f.lw + f.lc }

/-- BLDW and BSTW. -/
def windowPlan (out : Bool) (p : Pa) (t : Thr) (w : IWord) (s : State) : Option BowPlan :=
  if !bowForm6 w (fun f => f.comp ≠ 3 && f.kh = 0 && (if out then f.imm < 64 else f.imm = 0 && f.ab = 0)) then none
  else some (objPlan s p (pFields w) (windowMove out s (s.thr p t) (pFields w)))

/-- The part fields of imm: r, T. -/
def partR (f : PFields) : Nat := f.imm / 128 % 128
def partT (f : PFields) : Nat := 2 ^ (f.imm / 2 ^ 14 % 8)

/-- What BLDP and BSTP move: one part of one limb of each component. -/
def partMove (out : Bool) (s : State) (y : Thread) (f : PFields) : ObjMove :=
  let d := y.rc f.cs1.val
  let k := if out then f.imm % 64 + 1 else dLimbs d
  let cs := selected s d 0
  let n := dN d / partT f * 8
  let pb := ceilTo n 4096
  let h := homeOf y f out
  { desc := d, k := k, home := h.1, homeFile := h.2.1, homeReg := h.2.2
    staged := { reg := f.ad, base := y.ra f.ad.val, comps := cs.length, bytes := cs.length * pb }
    pairs := (cs.zip (upFrom 0 cs.length)).map fun ci =>
      (homeLimb h.1 k d ci.1 f.lw + partR f * n, ci.2 * pb, n)
    out := out, limb := f.lw }

/-- BLDP and BSTP. -/
def partPlan (out : Bool) (p : Pa) (t : Thr) (w : IWord) (s : State) : Option BowPlan :=
  if !bowForm6 w (fun f => f.lc = 0 && f.comp = 0 && f.kh = 0 && f.imm < 2 ^ 17 && partR f < partT f
      && (if out then f.imm / 64 % 2 = 0 else f.imm % 128 = 0 && f.ab = 0)) then none
  else some (objPlan s p (pFields w) (partMove out s (s.thr p t) (pFields w)))

/-- BKEY: a PA of no group, or a handle of no key, is illegal. -/
def bkeyPlan (p : Pa) (t : Thr) (w : IWord) (s : State) : Option BowPlan :=
  if !bowForm6 w (fun f => f.ab = 0 && f.ad = 0 && f.lw = 0 && f.lc = 0 && f.comp = 0 && f.imm = 0) then none
  else
    let f := pFields w
    let y := s.thr p t
    let d := y.rc f.cs1.val
    let regs : List Res := [.c f.cs1, .k f.kh]
    match groupOf s p, (y.k.toArray.getD f.kh.val none).bind fun e => (s.rp.keys[e.val]?).map fun h => (e.val, h) with
    | some g, some (e, h) =>
      let causes := readChecks s d f.cs1 ++ [causeIf (4 < h.kind || h.limbs < dLimbs d) .illegal .k f.kh.val]
      some
        { regs := regs, causes := causes, fresh := f.lazy
          units := if clear causes then (keyUnits s p g e h (dLimbs d) 0).1 else []
          key := some (keyUnits s p g e h (dLimbs d) 0).2 }
    | _, _ => some { regs := regs, causes := [causeIf true .illegal], fresh := f.lazy, units := [] }

/-! ## Format 7 commands (R238, R239) -/

structure BFields where
  ip : Bool
  fresh : Bool
  mode : Nat
  ad : Fin 16
  as1 : Fin 16
  ar : Fin 16
  rl : Fin 32
  csrc : Bool
  mi : Nat
  rsvd : Bool
  len : Nat
  rowq : Nat
  deriving DecidableEq, Repr

def bFields (w : IWord) : BFields where
  ip := bit w 16
  fresh := bit w 17
  mode := (field w 18 4).toNat
  ad := fa (field w 22 4).toNat
  as1 := fa (field w 26 4).toNat
  ar := fa (field w 30 4).toNat
  rl := fs (field w 34 5).toNat
  csrc := bit w 39
  mi := (field w 40 6).toNat
  rsvd := field w 46 18 ≠ 0 || field w 105 23 ≠ 0
  len := (field w 64 32).toNat
  rowq := (field w 96 9).toNat

/-- The checks of a range from an address register, of `n` bytes. -/
def rangeCauses (s : State) (y : Thread) (r : Fin 16) (align n : Nat) (wr : Bool) : List (Option Cause) :=
  let b := y.ra r.val
  [causeIf (b.toNat % align ≠ 0) .align .a r.val b.toNat,
   causeIf (n ≠ 0 && (!addrOk b || !populated s b.toNat n wr)) .window .a r.val b.toNat]

/-- BCPY. -/
def bcpyPlan (p : Pa) (t : Thr) (w : IWord) (s : State) : Option BowPlan :=
  let f := bFields w
  if wFmt w ≠ 7 || f.ip || f.mode ≠ 0 || f.ar ≠ 0 || f.mi ≠ 0 || f.rsvd || f.rowq ≠ 0 || (if f.csrc then f.len ≠ 0 else f.rl ≠ 0)
  then none
  else
    let y := s.thr p t
    let n := if f.csrc then (y.rs f.rl.val).toNat else f.len
    let src := (y.ra f.as1.val).toNat
    let dst := (y.ra f.ad.val).toNat
    let causes := [causeIf (0xFFFFFFF8 < n) .illegal .s f.rl.val, causeIf (n % 8 ≠ 0) .align .s f.rl.val,
      causeIf (!ownSpm p src n && !ownSpm p dst n) .illegal, causeIf (overlap src n dst n) .overlap]
      ++ rangeCauses s y f.as1 8 n false ++ rangeCauses s y f.ad 8 n true
    some
      { regs := [.a f.ad, .a f.as1, .s f.rl], causes := causes, fresh := f.fresh
        units := if clear causes then bowUnitsOf s p .scratch (copyPieces src dst n) else [] }

/-! ## Tensor moves (R240 to R243) -/

/-- One dimension of a move. -/
structure Dim where
  size : Nat
  dext : Nat
  sext : Nat
  soff : Int
  sstr : Int
  dstr : Int
  deriving DecidableEq, Repr

/-- A move descriptor. -/
structure Move where
  src : Nat
  dst : Nat
  esize : Nat
  wpad : Bool
  dims : List Dim
  pad : Word
  /-- a reserved field, or a field of an inactive dimension, is nonzero -/
  bad : Bool
  deriving DecidableEq, Repr

/-- Dimension `d` of the descriptor's words. -/
def dimAt (w : Nat → Word) (d : Nat) : Dim where
  size := (field (w 2) (16 * d) 16).toNat
  dext := (field (w 3) (16 * d) 16).toNat
  sext := (field (w 4) (16 * d) 16).toNat
  soff := (field (w 5) (16 * d) 16).toInt
  sstr := (field (w (6 + d / 2)) (32 * (d % 2)) 32).toInt
  dstr := (field (w (8 + d / 2)) (32 * (d % 2)) 32).toInt

def Dim.zero (d : Dim) : Bool := d.size = 0 && d.dext = 0 && d.sext = 0 && d.soff = 0 && d.sstr = 0 && d.dstr = 0

/-- Table 8.7, from the sixteen words at an address. -/
def moveAt (s : State) (a : Nat) : Move :=
  let w := fun i => s.word (a + i * 8)
  let nd := (field (w 0) 51 2).toNat + 1
  { src := (field (w 0) 0 48).toNat
    dst := (field (w 1) 0 48).toNat
    esize := 2 ^ (field (w 0) 48 2).toNat
    wpad := bit (w 0) 50
    dims := (upFrom 0 nd).map (dimAt w)
    pad := w 10
    bad := field (w 0) 53 11 ≠ 0 || field (w 1) 48 16 ≠ 0 || (upFrom 11 5).any (fun i => w i ≠ 0)
      || (upFrom nd (4 - nd)).any (fun d => !(dimAt w d).zero) }

/-- The index vectors of a box, dimension 0 fastest. -/
def boxVectors : List Nat → List (List Nat)
  | [] => [[]]
  | n :: r => (boxVectors r).flatMap fun v => (upFrom 0 n).map fun i => i :: v

/-- The clamped source position along a dimension. -/
def Dim.clampAt (d : Dim) (i : Nat) : Int := min (max ((i : Int) + d.soff) 0) ((d.sext : Int) - 1)

/-- The extent written along a dimension. -/
def Move.extent (m : Move) (d : Dim) : Nat := if m.wpad then d.dext else d.size

/-- The offset of an index vector under strides. -/
def boxOffset (l : List (Int × Int)) : Int := (l.map fun e => e.1 * e.2).foldl (· + ·) 0

/-- The byte range of a box of positions `lo` to `hi` along each dimension. -/
def boxRange (base : Nat) (esize : Nat) (l : List (Int × Int × Int)) : Int × Int :=
  let lo := (l.map fun e => min (e.1 * e.2.2) (e.2.1 * e.2.2)).foldl (· + ·) (base : Int)
  let hi := (l.map fun e => max (e.1 * e.2.2) (e.2.1 * e.2.2)).foldl (· + ·) (base : Int)
  (lo, hi + esize)

/-- R241: the source footprint, of the clamped box; nothing when the box is empty. -/
def Move.srcRange (m : Move) : Option (Int × Int) :=
  if m.dims.any (·.size = 0) then none
  else some (boxRange m.src m.esize (m.dims.map fun d => (d.clampAt 0, d.clampAt (d.size - 1), d.sstr)))

def Move.dstRange (m : Move) : Option (Int × Int) :=
  if m.dims.any (m.extent · = 0) then none
  else some (boxRange m.dst m.esize (m.dims.map fun d => (0, (m.extent d : Int) - 1, d.dstr)))

/-- R243: the in-place square transpose. -/
def Move.square (m : Move) : Bool :=
  match m.dims with
  | [d0, d1] =>
    d0.size = d1.size && d0.size ≤ 64 && m.src = m.dst && d0.soff = 0 && d1.soff = 0 && d0.sext = d0.size
      && d1.sext = d1.size && d0.sstr = d1.dstr && d1.sstr = d0.dstr && !m.wpad
  | _ => false

/-- A footprint is populated, or empty. -/
def footOk (s : State) (wr : Bool) : Option (Int × Int) → Bool
  | none => true
  | some r => 0 ≤ r.1 && populated s r.1.toNat (r.2 - r.1).toNat wr

/-- A footprint lies in the own SPM. -/
def footOwn (p : Pa) : Option (Int × Int) → Bool
  | none => true
  | some r => 0 ≤ r.1 && ownSpm p r.1.toNat (r.2 - r.1).toNat

def footMeet : Option (Int × Int) → Option (Int × Int) → Bool
  | some a, some b => a.1 < b.2 && b.1 < a.2
  | _, _ => false

/-- What refuses a move. -/
def moveCauses (s : State) (p : Pa) (ip : Bool) (m : Move) : List (Option Cause) :=
  [causeIf (m.bad || m.dims.any (·.sext = 0) || (m.wpad && m.dims.any fun d => d.dext < d.size)
      || (ip && !m.square) || !(footOwn p m.srcRange || footOwn p m.dstRange)) .illegal,
   causeIf (m.src % m.esize ≠ 0 || m.dst % m.esize ≠ 0
      || m.dims.any fun d => d.sstr % (m.esize : Int) ≠ 0 || d.dstr % (m.esize : Int) ≠ 0) .align,
   causeIf (!footOk s false m.srcRange) .window .none 0 m.src, causeIf (!footOk s true m.dstRange) .window .none 0 m.dst,
   causeIf (!ip && footMeet m.srcRange m.dstRange) .overlap]

/-- The write of one index vector. -/
def Move.piece (m : Move) (v : List Nat) : Piece :=
  let iv := m.dims.zip v
  let da := ((m.dst : Int) + boxOffset (iv.map fun e => ((e.2 : Int), e.1.dstr))).toNat
  let sa := ((m.src : Int) + boxOffset (iv.map fun e => (e.1.clampAt e.2, e.1.sstr))).toNat
  { src := if iv.all fun e => e.2 < e.1.size then .mem sa else .lit (leBytes m.esize m.pad.toNat), dst := da, len := m.esize }

/-- The units of a move. -/
def moveUnits (s : State) (p : Pa) (m : Move) : List BowUnit :=
  bowUnitsOf s p .scratch ((boxVectors (m.dims.map m.extent)).map m.piece)

/-- BMOVT. -/
def bmovtPlan (p : Pa) (t : Thr) (w : IWord) (s : State) : Option BowPlan :=
  let f := bFields w
  if wFmt w ≠ 7 || f.mode ≠ 0 || f.ad ≠ 0 || f.as1 ≠ 0 || f.mi ≠ 0 || f.rsvd || f.rowq ≠ 0 || f.csrc || f.len ≠ 0 || f.rl ≠ 0
  then none
  else
    let y := s.thr p t
    let a := (y.ra f.ar.val).toNat
    let m := moveAt s a
    let later := moveCauses s p f.ip m
    some
      { regs := [.a f.ar], causes := spmCauses p y f.ar 128 [(a, 128)], reads := [(a, 128)], later := later
        fresh := f.fresh, units := if clear later then moveUnits s p m else [], whole := f.ip, slow := true }

/-! ## Gather and scatter (R244, R245) -/

def rowBytes (f : BFields) : Nat := (f.rowq + 1) * 8

/-- The fields of BGATH and BSCAT. -/
def rowsForm (w : IWord) (mode mi : Bool) : Bool :=
  let f := bFields w
  wFmt w = 7 && !f.ip && !f.csrc && !f.rsvd && (mode || f.mode = 0) && (mi || f.mi = 0)

/-- The index tensor of a command. -/
def bowIndex (y : Thread) (f : BFields) : List (Nat × Nat) := if f.len = 0 then [] else [((y.ra f.ar.val).toNat, f.len * 4)]

/-- The indices of a command. -/
def bowIndices (s : State) (y : Thread) (f : BFields) : List Nat :=
  (upFrom 0 f.len).map (indexEntry s (y.ra f.ar.val).toNat)

/-- The pieces of a BGATH of rows of a table of `b` rows: an index beyond the table reads its last row. -/
def gatherPieces (y : Thread) (f : BFields) (b : Nat) (is : List Nat) : List Piece :=
  let r := rowBytes f
  (is.zip (upFrom 0 f.len)).flatMap fun e =>
    copyPieces ((y.ra f.as1.val).toNat + min e.1 (b - 1) * r) ((y.ra f.ad.val).toNat + e.2 * r) r

/-- BGATH. -/
def bgathPlan (p : Pa) (t : Thr) (w : IWord) (s : State) : Option BowPlan :=
  let f := bFields w
  if !rowsForm w false false then none
  else
    let y := s.thr p t
    let r := rowBytes f
    let b := (y.rs f.rl.val).toNat
    let ix := bowIndex y f
    let src := (y.ra f.as1.val).toNat
    let dst := (y.ra f.ad.val).toNat
    let causes := [causeIf (b = 0) .illegal .s f.rl.val, causeIf (overlap src (b * r) dst (f.len * r)) .overlap,
        causeIf (ix.any fun g => overlap g.1 g.2 dst (f.len * r)) .overlap]
      ++ rangeCauses s y f.as1 8 (b * r) false ++ spmCauses p y f.ad 8 (if f.len = 0 then [] else [(dst, f.len * r)])
      ++ spmCauses p y f.ar 4096 ix
    some
      { regs := [.a f.ad, .a f.as1, .a f.ar, .s f.rl], causes := causes, reads := ix, fresh := f.fresh
        units := if clear causes then bowUnitsOf s p .scratch (gatherPieces y f b (bowIndices s y f)) else []
        clp := clear causes && (bowIndices s y f).any fun i => b ≤ i }

/-- What a row of a BSCAT does. -/
def scatOp (s : State) (f : BFields) : PieceOp :=
  match f.mode with
  | 1 => .addWrap
  | 2 => .addMod (modQ s f.mi)
  | _ => .write

/-- Where atomics cannot reach: the far tier and Bridge windows. -/
def noAtomics (s : State) (a : Nat) : Bool :=
  match region s a with
  | .far _ _ => true
  | .bridge _ _ => true
  | _ => false

/-- The pieces of a BSCAT into a table of `b` rows: an index beyond the table drops its row. -/
def scatterPieces (s : State) (y : Thread) (f : BFields) (b : Nat) (is : List Nat) : List Piece :=
  let r := rowBytes f
  (is.zip (upFrom 0 f.len)).flatMap fun e =>
    if b ≤ e.1 then []
    else (copyPieces ((y.ra f.as1.val).toNat + e.2 * r) ((y.ra f.ad.val).toNat + e.1 * r) r).map fun k =>
      { k with op := scatOp s f }

/-- BSCAT. -/
def bscatPlan (p : Pa) (t : Thr) (w : IWord) (s : State) : Option BowPlan :=
  let f := bFields w
  if !rowsForm w true (f.mode = 2) || 3 ≤ f.mode then none
  else
    let y := s.thr p t
    let r := rowBytes f
    let b := (y.rs f.rl.val).toNat
    let ix := bowIndex y f
    let src := (y.ra f.as1.val).toNat
    let dst := (y.ra f.ad.val).toNat
    let causes := [causeIf (f.mode = 2 && (modEntry s f.mi).isNone) .illegal,
        causeIf (f.mode ≠ 0 && noAtomics s dst) .illegal, causeIf (overlap src (f.len * r) dst (b * r)) .overlap,
        causeIf (ix.any fun g => overlap g.1 g.2 dst (b * r)) .overlap]
      ++ rangeCauses s y f.ad 8 (b * r) true ++ spmCauses p y f.as1 8 (if f.len = 0 then [] else [(src, f.len * r)])
      ++ spmCauses p y f.ar 4096 ix
    some
      { regs := [.a f.ad, .a f.as1, .a f.ar, .s f.rl], causes := causes, reads := ix, fresh := f.fresh
        units := if clear causes then bowUnitsOf s p .scratch (scatterPieces s y f b (bowIndices s y f)) else []
        clp := clear causes && (bowIndices s y f).any fun i => b ≤ i }

/-- BCAN: the thread's run-ahead is cancelled; the command ends when its last requested unit has. -/
def bcanBody (p : Pa) (t : Thr) (w : IWord) (s : State) : Issue :=
  if wFmt w ≠ 7 || field w 16 112 ≠ 0 then illegal
  else if isReleased (s.thr p t) then .next s
  else
    let s1 := s.modPa p (cancelBow t)
    if (s1.pa p).bow.tags.any (·.thr = t) then .wait [] (s1.modThr p t fun y => { y with wait := .cancel })
    else .next s1

/-! ## Requesting units (R229 to R231, R248) -/

/-- The address outside the own SPM of a piece of a fetch unit, or of an egress unit. -/
def Piece.far (p : Pa) (fetch : Bool) (k : Piece) : Option Nat :=
  if fetch then (match k.src with
    | .mem a => if ownSpm p a k.len then none else some a
    | _ => none) else some k.dst

/-- The events of a unit (Table 16.3): thread, state at issue, class and the address outside the own SPM. -/
def unitEvent (p : Pa) (c : Thr) (hnd : Bool) (u : BowUnit) (code n : Nat) (s : State) : State :=
  let a := (u.pieces.findSome? (Piece.far p u.fetch)).getD ((u.pieces.head?.map (·.dst)).getD 0)
  s.event p { code := code, amount := n, thr := some c, handler := some hnd, cls := some u.cls, addr := some a }

/-- Bytes that a unit moves. -/
def BowUnit.bytes (u : BowUnit) : Nat := (u.pieces.map (·.len)).foldl (· + ·) 0

/-- A BKEY waits for room in the key area, which holds the blocks of two keyed instructions; an instruction's own blocks do
not (log entry 71). -/
def keyRoom (x : PaState) (c : BowCmd) : Bool :=
  match c.key with
  | none => true
  | some kb => kb.consumed || c.keyStands.isSome || (keySets x).length < 2

/-- R248: the unit's pair is in the source reuse table. -/
def reuseHit (s : State) (p : Pa) (c : BowCmd) (u : BowUnit) : Option (Nat × Nat) :=
  if c.fresh || !s.regBit (.pa p .bowCfg) 16 || !u.fetch then none
  else match u.whole, u.pieces with
    | some src, k :: _ =>
      let e := ((k.dst - spmAddr p 0) / 4096, src)
      if (s.pa p).bow.reuse.contains e then some e else none
    | _, _ => none

/-- The head command of a thread whose next unit may be requested; a trip halt holds every request (R427). -/
def requestable (s : State) (p : Pa) (t : Thr) : Option (BowCmd × BowUnit) :=
  let x := s.pa p
  if s.capo.tripHalt then none
  else match x.bow.queue.find? (fun c => c.thr = t && c.left ≠ [] && keyRoom x c) with
  | some c => match c.left with
    | u :: _ =>
      if unitHeld x p c u then none
      else if (reuseHit s p c u).isSome || x.bow.tags.length < tagLimit s p then some (c, u) else none
    | [] => none
  | none => none

/-- The next unit in the round of the threads. -/
def nextUnit (s : State) (p : Pa) : Option (BowCmd × BowUnit) :=
  ((upFrom 0 8).map fun k => ((s.pa p).bow.turn + Fin.ofNat 8 k : Fin 8)).findSome? (requestable s p)

/-- The part of a piece that is read of the own SPM. -/
def Piece.ownSrc (p : Pa) (k : Piece) : Option (Nat × Nat) :=
  match k.src with
  | .mem a => if ownSpm p a k.len then some (a, k.len) else none
  | _ => none

/-- A piece whose source is in the own SPM is read as its unit is requested. -/
def capture (s : State) (p : Pa) (k : Piece) : Piece :=
  match k.ownSrc p with
  | some r => { k with src := .lit (s.bytes r.1 r.2) }
  | none => k

/-- The uncorrectable words of a source, with the places of their bytes at the destination. -/
def badWords (l : List Nat) (a dst n : Nat) : List (Nat × Nat) :=
  (l.filter fun w => overlap w 8 a n).map fun w => (max w a, dst + (max w a - a))

/-- A unit with its own-SPM sources read, and the uncorrectable words among them. -/
def BowUnit.read (s : State) (p : Pa) (u : BowUnit) : BowUnit :=
  { u with
    pieces := u.pieces.map (capture s p)
    bad := u.pieces.flatMap fun k => match k.ownSrc p with
      | some r => badWords s.mem.unc r.1 k.dst r.2
      | none => [] }

/-- What a unit's reads of the own SPM count (R94, R439). -/
def countSources (p : Pa) (fixed : List Nat) (u : BowUnit) (s : State) : State :=
  let own := u.pieces.filterMap (Piece.ownSrc p)
  let s1 := own.foldl (fun s r => countHome (.bow p) s r.1 r.2 false) s
  let s2 := ((u.read s p).bad.map fun e => floorTo e.1 8).eraseDups.foldl noteBad s1
  noteFixed p (spmOffsets p own) fixed s2

/-- R250: a command ends when its last unit does: its key blocks are its instruction's, or await it; a stream ends with it. -/
def retireCmds (x : PaState) : PaState :=
  let done := x.bow.queue.filter fun c => c.left = [] && c.out = 0
  let feed := fun (o : Op) => match done.find? fun c => o.keyCmd = some c.id with
    | some c => { o with keyCmd := none, keySet := c.key <|> o.keySet }
    | none => o
  { x with
    ops := x.ops.map feed
    bow := { x.bow with
      queue := x.bow.queue.filter fun c => !(c.left = [] && c.out = 0)
      keys := x.bow.keys ++ done.filterMap fun c => match c.key with
        | some kb => if kb.consumed || c.aborted then none else some (c.thr, kb)
        | none => none } }

/-- R248: an elided unit completes as it would have been requested. -/
def elide (s : State) (p : Pa) (c : BowCmd) (u : BowUnit) (e : Nat × Nat) : State :=
  (unitEvent p c.thr c.hnd u 0x23 u.bytes s).modPa p fun x =>
    let x1 := setCmd x c.id fun c => { c with left := c.left.drop 1 }
    retireCmds { x1 with bow := { x1.bow with turn := c.thr + 1, reuse := e :: x1.bow.reuse.erase e } }

/-- The requests that a unit makes of windows of Bridge peers. -/
def windowPieces (p : Pa) (s : State) (tag : Nat) (u : BowUnit) : State :=
  (u.pieces.zip (upFrom 0 u.pieces.length)).foldl (fun s ke =>
    let k := ke.1
    let s1 := match k.src with
      | .mem a => match region s a with
        | .bridge dev off => requestWindow s p tag dev off k.len none (some ke.2)
        | _ => s
      | _ => s
    match region s1 k.dst, k.src with
    | .bridge dev off, .lit bs => requestWindow s1 p tag dev off k.len (some bs) (some ke.2)
    | _, _ => s1) s

/-- What a unit asks of homes outside the own SPM: the address and bytes of each read or write. -/
def unitAsks (p : Pa) (u : BowUnit) : List (Nat × Nat) :=
  u.pieces.filterMap fun k =>
    if !u.fetch then some (k.dst, k.len)
    else match k.src with
      | .mem a => if ownSpm p a k.len then none else some (a, k.len)
      | _ => none

/-- The ways to the homes of a unit: an address of each, and the bytes for it. -/
def unitHomes (s : State) (p : Pa) (u : BowUnit) : List (Nat × Nat) :=
  let l := (unitAsks p u).filter fun e => travels s p e.1
  ((l.map fun e => homePath s p e.1).eraseDups).filterMap fun h =>
    let m := l.filter fun e => homePath s p e.1 = h
    m.head?.map fun e => (e.1, (m.map (·.2)).foldl (· + ·) 0)

/-- A unit's request packets leave its PA. -/
def sendUnit (p : Pa) (tag : Nat) (u : BowUnit) (s : State) : State :=
  (unitHomes s p u).foldl (fun s e =>
    inject (.unit p tag) 0 (if u.fetch then 1 else flitsOf e.2) 0 [homePath s p e.1] s) s

/-- R194: where the bytes of a key block come from. -/
def keySources (u : BowUnit) : List PieceSrc := u.pieces.map (·.src)

/-- R194: a request for a key block that is outstanding is merged with it; else it is the first for its block. -/
def joinFetch (p : Pa) (tag : Nat) (u : BowUnit) (s : State) : State :=
  if u.cls ≠ .key then s
  else
    let l := keySources u
    let hit := fun (f : KeyFetch) => f.srcs = l && f.data.isNone
    let fs := s.rp.fetches
    if fs.any hit then
      { s with rp := { s.rp with fetches := fs.map fun f => if hit f then { f with left := f.left ++ [(p, tag)] } else f } }
    else { s with rp := { s.rp with
      fetches := fs ++ [{ id := s.rp.nextFetch, first := p, srcs := l, left := [(p, tag)] }], nextFetch := s.rp.nextFetch + 1 } }

/-- R183: a Rosin expander is asked over the PA's nearest hub stop. -/
def askRosin (p : Pa) (tag : Nat) (u : BowUnit) (s : State) : State :=
  if u.pieces.any fun k => match k.src with
    | .rosin _ _ _ _ _ _ => true
    | _ => false
  then inject (.unit p tag) 0 1 0 [hubPath p (nearHub p)] s else s

/-- A command whose key blocks have no place yet has them moved to a free half of the key area (R237). -/
def placeCmd (s : State) (p : Pa) (c : BowCmd) : BowCmd :=
  match c.key, groupOf s p with
  | some kb, some g =>
    if kb.consumed || c.keyStands.isSome then c
    else
      let h := freeHalf (s.pa p)
      { c with key := some { kb with half := h }
               left := c.left.map (moveKey (spmAddr p (s.rp.groups[g.val]).scratch) kb.part h) }
  | _, _ => c

/-- The command after its next unit has been requested. -/
def BowCmd.requested (s : State) (p : Pa) (c : BowCmd) : BowCmd :=
  { c with left := if c.whole then (c.left.drop 1).map (BowUnit.read s p) else c.left.drop 1, out := c.out + 1 }

/-- A unit is requested: it takes a tag, its own-SPM sources are read, and its requests leave. -/
def requestUnit (s : State) (p : Pa) (c0 : BowCmd) (fixed : List Nat) : State :=
  let c := placeCmd s p c0
  match c.left with
  | [] => s
  | u :: _ =>
    let s0 := (if c.whole then c.left else [u]).foldl (fun s u => countSources p fixed u s) (unitEvent p c.thr c.hnd u 0x20 1 s)
    let tag := (s.pa p).bow.nextId
    let u1 := if u.bad = [] then u.read s p else u
    let s1 := s0.modPa p fun x =>
      let x1 := setCmd x c.id fun _ => c.requested s p
      { x1 with bow := { x1.bow with
          turn := c.thr + 1, nextId := x1.bow.nextId + 1
          tags := x1.bow.tags ++ [{ id := tag, cmd := c.id, thr := c.thr, unit := u1 }] } }
    let s2 := if u.fetch then s1 else u.pieces.foldl (fun s k => s.modPa p fun x => dropReuseSource x k.dst k.len) s1
    joinFetch p tag u1 (askRosin p tag u1 (sendUnit p tag u1 (windowPieces p s2 tag u1)))

/-- The line of the own SPM by which a unit asks for a read port. -/
def sourceLine (p : Pa) (u : BowUnit) : Option Nat :=
  (u.pieces.findSome? (Piece.ownSrc p)).map fun r => (r.1 - spmAddr p 0) / 4096

/-- The unit whose turn it is completes by source reuse, or is requested; one that reads the own SPM takes a read port of the
cycle, or waits for one (R91). -/
def requestNext (s : State) (p : Pa) (fixed : List Nat) : State :=
  match nextUnit s p with
  | none => s
  | some (c, u) => match reuseHit s p c u, sourceLine p u with
    | some e, _ => elide s p c u e
    | none, none => requestUnit s p c fixed
    | none, some l => match askRead (.egress c.id) l (s.pa p) with
      | (some x, _) => requestUnit (s.setPa p x) p c fixed
      | (none, x) => s.setPa p x

/-! ## A unit's accesses at their homes (R256, R91) -/

/-- Replace a tag. -/
def setTag (p : Pa) (id : Nat) (f : Tag → Tag) (s : State) : State :=
  s.modPa p fun x => { x with bow := { x.bow with tags := x.bow.tags.map fun g => if g.id = id then f g else g } }

/-- The unit's access of an address has passed its home. -/
def hasPassed (s : State) (p : Pa) (id a : Nat) : Bool := (s.pa p).bow.tags.any fun g => g.id = id && g.passed.contains a

/-- An access of a unit passes its home: the slice of its HBM unit, or a read port of another PA's SPM; the state in which it
waits beside. -/
def passHome (s : State) (p : Pa) (c : StreamClass) (a : Nat) (acc : Access) : Option State × State :=
  match region s a with
  | .hbm => passSlices (.bow p) s a acc c
  | .spm q off => if q = p then (some s, s) else takeRead (.bow p) s q off acc
  | _ => (some s, s)

/-- The sources that a unit reads at homes outside the own SPM. -/
def readAsks (p : Pa) (u : BowUnit) : List (Nat × Access) :=
  u.pieces.filterMap fun k => match k.src with
    | .mem a => if ownSpm p a k.len then none else some (a, .read k.len)
    | _ => none

/-! ## The data of a unit (R229, R251) -/

/-- R182: the bytes of a piece that a Rosin expander makes. -/
def rosinBytes (s : State) (e i j tab b off n : Nat) : List Byte :=
  match s.rp.keys[e]? with
  | some h => ((limbBytes (rosinBlock h (modQ s tab) i j b)).drop off).take n
  | none => []

/-- The bytes of a piece's source: none while a Bridge window has not answered. -/
def pieceData (s : State) (k : Piece) : Option (List Byte) :=
  match k.src with
  | .lit bs => some bs
  | .rosin e i j tab b off => some (rosinBytes s e i j tab b off k.len)
  | .mem a => match region s a with
    | .bridge _ _ => none
    | _ => some (s.bytes a k.len)

/-- The sum of two words: wrapping, or modulo q with both reduced first. -/
def addWord (q : Option Nat) (a b : Nat) : Nat :=
  match q with
  | none => (a + b) % 2 ^ 64
  | some q => (a % q + b % q) % q

/-- Add `n` words where they land. -/
def addWords (q : Option Nat) : Nat → List Byte → List Byte → List Byte
  | 0, _, _ => []
  | n + 1, old, new =>
    leBytes 8 (addWord q (leNat (old.take 8)) (leNat (new.take 8))) ++ addWords q n (old.drop 8) (new.drop 8)

/-- What a piece leaves at its destination. -/
def pieceResult (s : State) (k : Piece) (bs : List Byte) : List Byte :=
  match k.op with
  | .write => bs
  | .addWrap => addWords none (k.len / 8) (s.bytes k.dst k.len) bs
  | .addMod q => addWords (some q) (k.len / 8) (s.bytes k.dst k.len) bs

/-- The words whose reads fail: those that memory holds as uncorrectable, and one that the landing reports. -/
def failingWords (s : State) (extra : Option (BitVec 48)) : List Nat :=
  s.mem.unc ++ (s.mem.uncBurst.flatMap fun u => [u, u + 8, u + 16, u + 24])
    ++ match extra with
      | some e => [floorTo e.toNat 8]
      | none => []

/-- The words of `n` bytes from an address. -/
def wordsFrom (a n : Nat) : List Nat := (upFrom 0 (ceilDiv n 8)).map fun i => a + 8 * i

/-- The words of a piece that fail, as source and destination addresses: those of its source, all of one that nothing reaches
(R273), and those of a destination that it adds to. -/
def pieceBad (s : State) (l : List Nat) (k : Piece) : List (Nat × Nat) :=
  (match k.src with
    | .mem a => badWords (if homeDown s a then wordsFrom (floorTo a 8) (k.len + a % 8) else l) a k.dst k.len
    | _ => [])
    ++ if k.op = .write then [] else badWords l k.dst k.dst k.len

/-- What failing reads at homes count and record: each uncorrectable word or HBM burst once (R94, R259, R267). -/
def noteReads (s : State) (l : List Nat) : State :=
  ((l.filter fun a => !homeDown s a).map fun a =>
    if s.mem.uncBurst.any (fun u => overlap a 1 u 32) then floorTo a 32 else floorTo a 8).eraseDups.foldl noteBad s

/-- R273: what accesses to far-tier homes on a down link count. -/
def noteDown (s : State) (k : Piece) : State :=
  let s1 := match k.src with
    | .mem a => match region s a with
      | .far i _ => if homeDown s a then noteFarBad s i a false else s
      | _ => s
    | _ => s
  if homeDown s1 k.dst then noteDropped s1 k.dst else s1

/-- A piece whose destination, or source, nothing reaches. -/
def Piece.down (s : State) (k : Piece) : Option Nat :=
  if homeDown s k.dst then some k.dst
  else match k.src with
    | .mem a => if homeDown s a then some a else none
    | _ => none

/-- Write one piece; a destination in a Bridge window has had its own request, and what nothing reaches is not moved. -/
def landPiece (s : State) (k : Piece) : State :=
  match pieceData s k, region s k.dst with
  | _, .bridge _ _ => s
  | some bs, _ => if (k.down s).isSome then s else (notePartial s k.dst k.len).write k.dst (pieceResult s k bs)
  | none, _ => s

/-- An egress piece whose home takes its data as it passes: the slice of its stack, or its expander. -/
def Piece.atHome (s : State) (k : Piece) : Bool :=
  match region s k.dst with
  | .hbm => true
  | .far _ _ => true
  | _ => false

/-- The pieces of a unit that have moved already. -/
def Tag.moved (s : State) (g : Tag) (k : Piece) : Bool := !g.unit.fetch && g.passed.contains k.dst && k.atHome s

/-- A place lies in a piece's destination. -/
def Piece.covers (k : Piece) (d : Nat) : Bool := overlap d 1 k.dst k.len

/-- A piece moves at its home: its words that fail leave check patterns, and are counted and recorded. -/
def movePiece (p : Pa) (id : Nat) (s : State) (k : Piece) : State :=
  let held := ((s.pa p).bow.tags.filter (·.id = id)).flatMap (·.unit.bad)
  let bads := pieceBad s (failingWords s none) k
  let s1 := ((held.filter fun b => k.covers b.2) ++ bads).foldl (fun s b => s.spoil b.2) (landPiece s k)
  setTag p id (fun g => { g with unit := { g.unit with bad := g.unit.bad ++ bads } }) (noteReads s1 (bads.map (·.1)))

/-- An access of a unit has passed its home; data that it writes there moves. -/
def passed (p : Pa) (id : Nat) (s : State) (a : Nat) (acc : Access) : State :=
  let u := ((s.pa p).bow.tags.filter (·.id = id)).flatMap (·.unit.pieces)
  let s1 := setTag p id (fun g => { g with passed := a :: g.passed }) (countHome (.bow p) s a (accLen acc) (accWrites acc))
  if accWrites acc then (u.filter fun k => k.dst = a && k.atHome s1).foldl (movePiece p id) s1 else s1

/-- One access of a unit: it has passed, passes now, or waits; a home that nothing reaches does not hold it. -/
def passAccess (p : Pa) (id : Nat) (c : StreamClass) (s : State) (a : Nat) (acc : Access) : Option State × State :=
  if hasPassed s p id a || homeDown s a then (some s, s)
  else if inSlice s (.bow p) a acc then (none, s)
  else match passHome s p c a acc with
    | (some s1, s2) => (some (passed p id s1 a acc), s2)
    | r => r

/-- All of a unit's accesses, in turn. -/
def passAll (p : Pa) (id : Nat) (c : StreamClass) : List (Nat × Access) → State → Option State × State
  | [], s => (some s, s)
  | e :: r, s => match passAccess p id c s e.1 e.2 with
    | (some s1, _) => passAll p id c r s1
    | (none, s1) => (none, s1)

/-! ## Completing units -/

/-- The bytes of an SPM line that a unit writes. -/
def unitMask (u : BowUnit) : BitVec 4096 :=
  u.pieces.foldl (fun m k => m ||| lineMask (k.dst % 4096) k.len) 0

/-- The SPM that a unit writes, and its line. -/
def unitSpm (s : State) (u : BowUnit) : Option (Pa × Nat) :=
  match u.pieces with
  | k :: _ => match region s k.dst with
    | .spm q off => some (q, off / 4096)
    | _ => none
  | [] => none

/-- R91, R96: the SPM line that a unit writes takes it: a whole line over the write port of the cycle, part of one in the merge
buffer. -/
def takeWrite (s : State) (u : BowUnit) : Option State × State :=
  match unitSpm s u with
  | none => (some s, s)
  | some (q, line) =>
    let x := s.pa q
    if homeDown s (spmAddr q 0) then (some s, s)
    else if unitMask u = BitVec.allOnes 4096 then
      (if portFree x .write line false then some (s.setPa q (takePort .write line x)) else none, s)
    else (if mergeRoom x line then some s else none, s.modPa q forceOldest)

/-- R95: what a unit's write to an SPM line makes of its merge buffer, of reuse and of corrections that wait. -/
def mergeUnit (by_ : Option Thr) (q : Pa) (line : Nat) (u : BowUnit) (s : State) : State :=
  s.modPa q fun x => noteWritten (line * 4096) 4096 (mergeLine by_ line (unitMask u) x)

/-- Every Bridge window of a unit has answered. -/
def unitAnswered (s : State) (p : Pa) (g : Tag) : Bool :=
  !(s.brg.winReqs.any fun r => r.pa = p && r.op = g.id && r.piece.isSome) && g.unit.pieces.all fun k => (pieceData s k).isSome

/-- The command of a unit. -/
def cmdOf (s : State) (p : Pa) (g : Tag) : Option BowCmd := (s.pa p).bow.queue.find? (·.id = g.cmd)

/-- PA_BOW_ERR records a failing word, or that it has missed one. -/
def noteBowErr (p : Pa) (t : Thr) (s : State) (a : Nat) : State :=
  if s.regBit (.pa p .bowErr) 52 then s.raiseBits (.pa p .bowErr) (mask 53 1)
  else s.setReg (.pa p .bowErr) ((s.reg (.pa p .bowErr) &&& mask 53 1) ||| mask 52 1
          ||| BitVec.ofNat 64 (a % 2 ^ 48 + t.val * 2 ^ 48))

/-- The exception of an aborted command: its thread's, or that of the instruction whose key blocks it fetches, at every member
(R195, R251). -/
def raiseCmd (s : State) (p : Pa) (g : Tag) (fpc a : Nat) : State :=
  match (s.pa p).ops.find? (·.keyCmd = some g.cmd) with
  | some o => abortAll s p o .ecc a false
  | none => raiseDeferred s p g.thr { exc := .ecc, addr := a } fpc false

/-- R251: a command aborts at failing words, `a` first: no more of it is requested. A command that has aborted before has
raised its exception. -/
def abortCmd (s : State) (p : Pa) (g : Tag) (a : Nat) (more : List Nat) : State :=
  let old := cmdOf s p g
  let s1 := s.modPa p fun x => setCmd x g.cmd fun c => { c with left := [], aborted := true }
  let s2 := (a :: more).foldl (noteBowErr p g.thr) (s1.raiseBits (.pa p .bowFlags) (mask 1 1))
  match old with
  | some c => if c.aborted then s2 else raiseCmd s2 p g c.fpc a
  | none => s2

/-- The tag is free, its command one unit further; a BCAN that waited for it ends (R250), and instructions that have their key
blocks go on. -/
def freeTag (s0 : State) (p : Pa) (g : Tag) : State :=
  let s := (unitAsks p g.unit).foldl (fun s e => quitStops (.bow p) e.1 s) s0
  let s1 := settleRuns (s.modPa p fun x =>
    retireCmds (setCmd { x with bow := { x.bow with tags := x.bow.tags.filter (·.id ≠ g.id) } } g.cmd
      fun c => { c with out := c.out - 1 }))
  let y := s1.thr p g.thr
  if y.wait = .cancel && !((s1.pa p).bow.tags.any (·.thr = g.thr)) then releaseThread p s1 g.thr else s1

/-- R248: a whole aligned unit has landed whole on a line. -/
def noteReuse (s : State) (p : Pa) (u : BowUnit) : State :=
  match u.whole, u.pieces with
  | some src, k :: _ =>
    if s.regBit (.pa p .bowCfg) 16 && u.fetch then
      let line := (k.dst - spmAddr p 0) / 4096
      s.modPa p fun x => { x with bow := { x.bow with reuse := ((line, src) :: x.bow.reuse.filter (·.1 ≠ line)).take 128 } }
    else s
  | _, _ => s

/-- The state in which a unit's command issued. -/
def tagHandler (s : State) (p : Pa) (g : Tag) : Bool := (cmdOf s p g).any (·.hnd)

/-- A unit has failed at some addresses, or at none: its command aborts, or the unit may be reused. -/
def endUnit (s : State) (p : Pa) (g : Tag) (fails : List Nat) : State :=
  match fails with
  | a :: more => freeTag (abortCmd s p g a more) p g
  | [] => freeTag (noteReuse s p g.unit) p g

/-- Write a unit's data, with check patterns for its failing words, and end it. -/
def landUnit (s : State) (p : Pa) (g : Tag) (extra : Option (BitVec 48)) : State :=
  let u := g.unit
  let here := u.pieces.filter fun k => !g.moved s k
  let bads := here.flatMap fun k => (pieceBad s (failingWords s extra) k).filter fun b => !u.bad.contains b
  let downs := here.filterMap fun k => if homeDown s k.dst then some k.dst else none
  let s1 := here.foldl landPiece s
  let s2 := match unitSpm s u with
    | some (q, line) => mergeUnit (if q = p then some g.thr else none) q line u s1
    | none => s1
  let s3 := ((u.bad.filter fun b => here.any (·.covers b.2)) ++ bads).foldl (fun s b => s.spoil b.2) s2
  let s4 := here.foldl noteDown (noteReads s3 (bads.map (·.1)))
  let s5 := unitEvent p g.thr (tagHandler s p g) u (if u.fetch then 0x21 else 0x22) u.bytes s4
  endUnit s5 p g ((u.bad ++ bads).map (·.1) ++ downs)

/-- The unit that bears a number, of a direction. -/
def tagOf (s : State) (p : Pa) (n : Nat) (fetch : Bool) : Option Tag :=
  (s.pa p).bow.tags.find? fun g => g.id = n && g.unit.fetch = fetch

/-! ## The way of a unit's packets (R279, R281) -/

/-- A unit's requests have their ways to their homes free, and its responses theirs. -/
def unitArrives (s : State) (p : Pa) (g : Tag) : Bool :=
  (unitHomes s p g.unit).all fun e =>
    mayArrive s (.unit p g.id) (destOf (routed s (homePath s p e.1))) && pathOpen s (homeBack s p e.1).2

/-- They arrive, and the responses come back. -/
def bringUnit (s : State) (p : Pa) (g : Tag) : State :=
  (unitHomes s p g.unit).foldl (fun s e =>
    let b := homeBack s p e.1
    passHops 1 (if g.unit.fetch then flitsOf e.2 else 1) b.1 b.2
      (arrive (.unit p g.id) (destOf (routed s (homePath s p e.1))) s)) s

/-- A unit ends with what its data found: the SPM line takes it first. -/
def finishUnit (s : State) (p : Pa) (g : Tag) (extra : Option (BitVec 48)) : State :=
  match takeWrite s g.unit with
  | (some s1, _) => landUnit (bringUnit s1 p g) p (((s.pa p).bow.tags.find? (·.id = g.id)).getD g) extra
  | (none, s1) => s1

/-- A unit whose packet has been lost ends with no data moved (R304). -/
def loseUnit (s : State) (p : Pa) (g : Tag) : State :=
  let a := (g.unit.pieces.findSome? (Piece.far p g.unit.fetch)).getD 0
  freeTag (abortCmd (dropFlow (.unit p g.id) s) p g a []) p g

/-! ## Key blocks (R183, R194, R237) -/

/-- The merged request that a unit belongs to. -/
def fetchOf (s : State) (p : Pa) (id : Nat) : Option KeyFetch := s.rp.fetches.find? fun f => f.left.contains (p, id)

/-- Replace a merged request; one that all its requesters have is over. -/
def setFetch (id : Nat) (f : KeyFetch → KeyFetch) (s : State) : State :=
  { s with rp := { s.rp with
      fetches := (s.rp.fetches.map fun x => if x.id = id then f x else x).filter fun x => x.left ≠ [] } }

/-- R194: a requester takes no further block while another has yet to take an earlier one that both await. -/
def streamHeld (s : State) (p : Pa) (f : KeyFetch) : Bool :=
  (s.rp.fetches.takeWhile (·.id ≠ f.id)).any fun e => e.taken.contains p && e.left ≠ []

/-- The hub die that a block comes from: that of its HBM unit, or that of its expander. -/
def fetchHub (s : State) (f : KeyFetch) : Option Hub :=
  match f.srcs.head? with
  | some (.mem a) => match region s a with
    | .hbm => some (hbmHub a)
    | .far i _ => some (cxlHub i)
    | _ => none
  | some (.rosin _ _ _ _ _ _) => some (nearHub f.first)
  | _ => none

/-- The way of a block from its hub stop to a requester, and the input by which it enters the mesh. -/
def blockPath (f : KeyFetch) (h : Hub) (q : Pa) : List Hop :=
  walk 24 (stopCol f.first h) (hubRow h) (meshX q) (meshY q) false ++ [{ router := routerAt (meshX q) (meshY q), out := 0 }]

/-- The ways of a requester's own request. -/
def keyWays (s : State) (q : Pa) (u : BowUnit) : List (List Hop) :=
  ((unitHomes s q u).map fun e => homePath s q e.1) ++ if u.pieces.any fun k => match k.src with
    | .rosin _ _ _ _ _ _ => true
    | _ => false
  then [hubPath q (nearHub q)] else []

/-- The tag of a requester. -/
def tagAt (s : State) (e : Pa × Nat) : Option Tag := (s.pa e.1).bow.tags.find? (·.id = e.2)

/-- Every requester's request has come. -/
def requestsCome (s : State) (f : KeyFetch) : Bool :=
  f.left.all fun e => match tagAt s e with
    | some g => (keyWays s e.1 g.unit).all fun l => mayArrive s (.unit e.1 e.2) (destOf (routed s l))
    | none => true

/-- They arrive. -/
def bringRequests (f : KeyFetch) (s : State) : State :=
  f.left.foldl (fun s e => match tagAt s e with
    | some g => (keyWays s e.1 g.unit).foldl (fun s l => arrive (.unit e.1 e.2) (destOf (routed s l)) s) s
    | none => s) s

/-- R183: bytes that the expander of a hub die delivers over its stop (Table 16.5). -/
def countRosin (f : KeyFetch) (u : BowUnit) (s : State) : State :=
  let n := (u.pieces.map fun k => match k.src with
    | .rosin _ _ _ _ _ _ => k.len
    | _ => 0).foldl (· + ·) 0
  if n = 0 then s
  else
    let h := nearHub f.first
    (s.portBytes (Fin.ofNat 76 (68 + h.val)) true n).portBytes
      (Fin.ofNat 76 (36 + (useStop s (stopOf h (stopCol f.first h))).1.val)) true n

/-- The failing words of a block: the piece, the place in it, and the source address. -/
def blockBad (s : State) (extra : Option (BitVec 48)) (u : BowUnit) : List (Nat × Nat × Nat) :=
  (u.pieces.zip (upFrom 0 u.pieces.length)).flatMap fun e =>
    (pieceBad s (failingWords s extra) e.1).map fun b => (e.2, b.2 - e.1.dst, b.1)

/-- A block is fetched or expanded, once, and leaves for every requester. -/
def readBlock (s : State) (f : KeyFetch) (u : BowUnit) (extra : Option (BitVec 48)) : State :=
  let bad := blockBad s extra u
  let new := (bad.map (·.2.2)).filter fun a => !(u.bad.any fun b => b.1 = a)
  let s1 := u.pieces.foldl noteDown (noteReads (countRosin f u (bringRequests f s)) new)
  let s2 := match fetchHub s f with
    | some h => inject (.block f.id) 1 (flitsOf u.bytes) (if h.val < 2 then 1 else 3) (f.left.map fun e => blockPath f h e.1) s1
    | none => s1
  setFetch f.id (fun x => { x with data := some (u.pieces.map fun k => (pieceData s k).getD []), bad := bad }) s2

/-- The bytes of landed pieces, by offset in the blocks of a command. -/
def putBlocks (base : Nat) (kb : KeyBlocks) (l : List (Piece × List Byte)) : KeyBlocks :=
  l.foldl (fun kb e =>
    let o := (e.1.dst - base + (16 - 8 * kb.half.val) * kb.part) % (16 * kb.part)
    { kb with blocks := putBytes kb.blocks o e.2, landed := kb.landed + e.2.length }) kb

/-- A landed block is its command's; what the key area holds is not defined for a program (R188). -/
def keepBlock (s : State) (p : Pa) (g : Tag) (data : List (List Byte)) : State :=
  let l := g.unit.pieces.zip data
  match groupOf s p, g.unit.stream with
  | some gr, false =>
    let base := spmAddr p (s.rp.groups[gr.val]).scratch
    (l.foldl (fun s e => s.scramble e.1.dst e.1.len) s).modPa p fun x =>
      setCmd x g.cmd fun c => { c with key := c.key.map fun kb => putBlocks base kb l }
  | _, _ => s

/-- Bytes of a unit that an expander has made (Table 16.3). -/
def countExpanded (s : State) (p : Pa) (g : Tag) : State :=
  let n := (g.unit.pieces.map fun k => match k.src with
    | .rosin _ _ _ _ _ _ => k.len
    | _ => 0).foldl (· + ·) 0
  if n = 0 then s else s.event p { code := 0x27, amount := n, thr := some g.thr }

/-- A block lands at one of its requesters. -/
def landBlock (s : State) (p : Pa) (g : Tag) (f : KeyFetch) : State :=
  let s1 := match fetchHub s f with
    | some h => arrive (.block f.id) (destOf (routed s (blockPath f h p))) s
    | none => s
  let s2 := setFetch f.id (fun x => { x with left := x.left.filter (· ≠ (p, g.id)), taken := p :: x.taken }) s1
  let s3 := keepBlock (countExpanded s2 p g) p g (f.data.getD [])
  endUnit (unitEvent p g.thr (tagHandler s p g) g.unit 0x21 g.unit.bytes s3) p g (f.bad.map (·.2.2))

/-- The block has its way to the requester free. -/
def blockArrives (s : State) (p : Pa) (f : KeyFetch) : Bool :=
  match fetchHub s f with
  | some h => mayArrive s (.block f.id) (destOf (routed s (blockPath f h p)))
  | none => true

/-- R194: a key block is read as the first of its requesters takes it, and taken by each at the pace of the slowest. -/
def takeBlock (s : State) (p : Pa) (g : Tag) (extra : Option (BitVec 48)) : State :=
  match fetchOf s p g.id with
  | none => freeTag s p g
  | some f =>
    if streamHeld s p f then s
    else if f.data.isSome then (if blockArrives s p f then landBlock s p g f else s)
    else if !requestsCome s f then s
    else match passAll p g.id .key (readAsks p g.unit) s with
      | (none, s1) => s1
      | (some s1, _) =>
        let s2 := readBlock s1 f (((s1.pa p).bow.tags.find? (·.id = g.id)).getD g).unit extra
        match fetchOf s2 p g.id with
        | some f2 => if blockArrives s2 p f2 then landBlock s2 p g f2 else s2
        | none => s2

/-! ## Landings and acknowledgements -/

/-- A unit's packets are awaited no longer, nor a block that it shares. -/
def dropUnit (s : State) (p : Pa) (g : Tag) : State :=
  let s1 := dropFlow (.unit p g.id) s
  match fetchOf s p g.id with
  | some f =>
    let s2 := match fetchHub s1 f with
      | some h => cutWay (.block f.id) (destOf (routed s1 (blockPath f h p))) s1
      | none => s1
    setFetch f.id (fun x => { x with left := x.left.filter (· ≠ (p, g.id)) }) s2
  | none => s1

/-- A cancelled unit lands: its data is discarded, and counts as wasted (R191, R195, R250). -/
def wasteUnit (s : State) (p : Pa) (g : Tag) : State :=
  let wasted := (cmdOf s p g).any fun c => c.key.any (·.wasted)
  let s2 := dropUnit s p g
  freeTag (unitEvent p g.thr (tagHandler s p g) g.unit (if wasted then 0x25 else 0x24) g.unit.bytes s2) p g

/-- A unit other than a key block: its packets come, its homes take its accesses, and it ends. -/
def moveUnit (s : State) (p : Pa) (g : Tag) (extra : Option (BitVec 48)) (asks : List (Nat × Access)) : State :=
  if !unitAnswered s p g || !unitArrives s p g then s
  else match passAll p g.id g.unit.cls asks s with
    | (some s1, _) => finishUnit s1 p g extra
    | (none, s1) => s1

/-- A landing. -/
def landFetch (s : State) (p : Pa) (n : Nat) (bad : Option (BitVec 48)) : State :=
  match tagOf s p n true with
  | none => s
  | some g =>
    if g.cancelled then wasteUnit s p g
    else if g.lost then loseUnit s p g
    else if g.unit.cls = .key then takeBlock s p g bad
    else moveUnit s p g bad (readAsks p g.unit)

/-- The writes of an egress unit at their homes; one that adds reads its destination there. -/
def writeAsks (s : State) (u : BowUnit) : List (Nat × Access) :=
  u.pieces.map fun k => (k.dst, .write ((pieceData s k).getD []))

/-- An acknowledgement of an egress unit. -/
def ackEgress (s : State) (p : Pa) (n : Nat) (bad : Option (BitVec 48)) : State :=
  match tagOf s p n false with
  | none => s
  | some g => if g.lost then loseUnit s p g else moveUnit s p g bad (writeAsks s g.unit)

/-! ## The rows -/

/-- BLDW. -/
def execBldw (p : Pa) (t : Thr) (w : IWord) (s : State) : Host.Outcome State Fault Refusal :=
  .next (attemptOf 11 0x00 p t w (bowRun p t w (windowPlan false)) s)

/-- BSTW. -/
def execBstw (p : Pa) (t : Thr) (w : IWord) (s : State) : Host.Outcome State Fault Refusal :=
  .next (attemptOf 11 0x01 p t w (bowRun p t w (windowPlan true)) s)

/-- BLDP. -/
def execBldp (p : Pa) (t : Thr) (w : IWord) (s : State) : Host.Outcome State Fault Refusal :=
  .next (attemptOf 11 0x02 p t w (bowRun p t w (partPlan false)) s)

/-- BSTP. -/
def execBstp (p : Pa) (t : Thr) (w : IWord) (s : State) : Host.Outcome State Fault Refusal :=
  .next (attemptOf 11 0x03 p t w (bowRun p t w (partPlan true)) s)

/-- BKEY. -/
def execBkey (p : Pa) (t : Thr) (w : IWord) (s : State) : Host.Outcome State Fault Refusal :=
  .next (attemptOf 11 0x08 p t w (bowRun p t w bkeyPlan) s)

/-- BCPY. -/
def execBcpy (p : Pa) (t : Thr) (w : IWord) (s : State) : Host.Outcome State Fault Refusal :=
  .next (attemptOf 11 0x10 p t w (bowRun p t w bcpyPlan) s)

/-- BMOVT. -/
def execBmovt (p : Pa) (t : Thr) (w : IWord) (s : State) : Host.Outcome State Fault Refusal :=
  .next (attemptOf 11 0x11 p t w (bowRun p t w bmovtPlan) s)

/-- BGATH. -/
def execBgath (p : Pa) (t : Thr) (w : IWord) (s : State) : Host.Outcome State Fault Refusal :=
  .next (attemptOf 11 0x12 p t w (bowRun p t w bgathPlan) s)

/-- BSCAT. -/
def execBscat (p : Pa) (t : Thr) (w : IWord) (s : State) : Host.Outcome State Fault Refusal :=
  .next (attemptOf 11 0x13 p t w (bowRun p t w bscatPlan) s)

/-- BCAN. -/
def execBcan (p : Pa) (t : Thr) (w : IWord) (s : State) : Host.Outcome State Fault Refusal :=
  .next (attemptOf 11 0x18 p t w (bcanBody p t w) s)

/-- BOW_UNIT_REQUEST. -/
def execBowUnitRequest (p : Pa) (fixed : List (Fin 1572864)) (s : State) : Host.Outcome State Fault Refusal :=
  .next (requestNext s p (fixed.map (·.val)))

/-- BOW_FETCH_LANDING. -/
def execBowFetchLanding (p : Pa) (n : Nat) (bad : Option (BitVec 48)) (s : State) : Host.Outcome State Fault Refusal :=
  .next (landFetch s p n bad)

/-- BOW_EGRESS_ACK. -/
def execBowEgressAck (p : Pa) (n : Nat) (bad : Option (BitVec 48)) (s : State) : Host.Outcome State Fault Refusal :=
  .next (ackEgress s p n bad)

end Sys2Proof.Machine
end

