-- ==== Sys2Proof/Machine/Bridge.lean ====
section
/-! DEFINITION. Bridge ports and their link layer (R336 to R342), and a wake of the device (R425, R426). -/

namespace Sys2Proof.Machine

/-! ## Wakes -/

/-- The device is not in P0, or is on its way out of it or back. -/
def asleep (s : State) : Bool := s.capo.state ≠ 0 || s.capo.entering || s.capo.waking

/-- R425, R426: a wake event outside P0, or during an entry, starts a wake. -/
def beginWake (s : State) : State :=
  if asleep s && !s.capo.waking then { s with capo := { s.capo with waking := true, wakeStart := s.micros } } else s

/-! ## Ports -/

/-- The hub die of a Bridge port (Table 12.1). -/
def brgHub : BPort → Hub
  | 0 => 0 | 1 => 0 | 2 => 1 | 3 => 1 | 4 => 2 | 5 => 2 | 6 => 3 | 7 => 3

/-- PLL of a Bridge port (Table 1.14). -/
def brgPll (n : BPort) : Nat := 18 + (brgHub n).val

/-- The port may train: it is enabled, and its PLL and hub run. -/
def brgAlive (s : State) (n : BPort) : Bool :=
  s.clk.powered && !s.clk.inReset && s.clk.live.getLsbD (brgPll n) && bit (s.rwp (.brg n .cfg)) 0

/-- The tree and place of a tree port: parent 0, left child 1, right child 2. -/
def treePlace : BPort → Option (Bool × Nat)
  | 0 => none | 1 => none | 2 => some (false, 0) | 3 => some (false, 1) | 6 => some (false, 2)
  | 4 => some (true, 0) | 5 => some (true, 1) | 7 => some (true, 2)

/-- R337: the addresses and ports that a tree port of device `a`, among `n`, may meet. -/
def wiredTo (a n : Nat) (treeB : Bool) (place : Nat) : Option (Nat × BPort) :=
  match place with
  | 0 => if a = 0 then none else some (treeParent a, treePort treeB (if a % 2 = 1 then 1 else 2))
  | k => if 2 * a + k < n then some (2 * a + k, treePort treeB 0) else none

/-- R342: what IDENT showed agrees with R337. Addresses count once both devices have one (log entry 18). -/
def wiringOk (s : State) (n : BPort) (x : Bridge) : Bool :=
  match treePlace n with
  | none => true
  | some (tb, k) =>
    match ownAddr s, x.peerValid with
    | some a, true => wiredTo a s.brg.sysCount tb k = some (x.peerAddr.toNat, Fin.ofNat 8 x.peerPort.toNat)
    | _, _ =>
      if k = 0 then [treePort tb 1, treePort tb 2].contains (Fin.ofNat 8 x.peerPort.toNat)
      else treePort tb 0 = Fin.ofNat 8 x.peerPort.toNat

/-- R342: the check of a port that is Up. -/
def checkWiring (s : State) (n : BPort) : State :=
  let x := s.brg.ports[n.val]
  if x.st ≠ .up then s
  else if wiringOk s n x then s.modBrg n fun x => { x with miswired := false }
  else ((s.modBrg n fun x => { x with miswired := true }).raiseBits (.brg n .evt) 8).logRec 7 2 3 n.val 0

/-- Table 12.9, code 8: the rounds that use a tree port that is not Up or is miswired fail. -/
def failUsers (s : State) (n : BPort) : State :=
  (List.finRange 4).foldl (fun s j =>
    if (redParents s j ++ redChildren s j).contains n then failRound 8 none s j else s) s

def failMiswired (s : State) (n : BPort) : State := if s.brg.ports[n.val].miswired then failUsers s n else s

/-- BRG_SIGNAL_DETECT. -/
def signalDetect (s : State) (n : BPort) : State :=
  if brgAlive s n ∧ s.brg.ports[n.val].st = .down then s.modBrg n fun x => { x with st := .training } else s

/-- BRG_TRAINING_END: four lanes count when x4_allow permits them. -/
def trainingEnd (s : State) (n : BPort) (r : TrainResult) : State :=
  if s.brg.ports[n.val].st ≠ .training then s
  else match r with
    | .x8 => enterIdent s n fun x => { x with width := 2 }
    | .x4 =>
      if bit (s.rwp (.brg n .cfg)) 1 then enterIdent s n fun x => { x with width := 1 }
      else s.modBrg n fun x => { x with st := .down }
    | .failed => s.modBrg n fun x => { x with st := .down }

/-- BRIDGE_IDENT: the port enters Up; a port that is Up exchanges IDENT flits again after an enumeration. -/
def identPort (s : State) (n : BPort) (serial : Word) (port : BitVec 3) (addr : BitVec 8) (valid : Bool) : State :=
  let x := s.brg.ports[n.val]
  if x.st = .ident ∨ x.st = .up then
    let s1 := s.modBrg n fun x =>
      { x with st := .up, peerSerial := serial, peerPort := port, peerAddr := addr, peerValid := valid }
    let s2 := if x.st = .ident ∧ x.width = 1 then s1.raiseBits (.brg n .evt) 4 else s1
    failMiswired (checkWiring s2 n) n
  else s

/-- A port goes Down from Up or Retrain: its replay buffer is discarded (R341). -/
def downPort (s : State) (n : BPort) : State :=
  let s1 := s.modBrg n fun _ => {}
  failUsers ((s1.raiseBits (.brg n .evt) 1).logRec 7 2 1 n.val 0) n

/-- A port that is Up enters Retrain. -/
def laneLoss (s : State) (n : BPort) : State :=
  if s.brg.ports[n.val].st = .up then
    let s1 := s.modBrg n fun x => { x with st := .retrain, fails := 0 }
    ((s1.countSat (.brg n .linkCnt) 48 16 1).raiseBits (.brg n .evt) 2).logRec 7 1 2 n.val 0
  else s

/-! ## Flits (R339, R340) -/

/-- How far `b` lies above `a`, of 12-bit sequence numbers. -/
def seqGap (a b : BitVec 12) : Nat := (b - a).toNat

/-- Drop the flits that an acknowledgement covers. -/
def ackFlits (ack : BitVec 12) (x : Bridge) : Bridge :=
  let kept := x.replay.filter fun f => !(seqGap f.seq ack < 2048)
  { x with replay := kept, fails := if kept.length < x.replay.length then 0 else x.fails }

/-- R340: the flits that a nak sends again. -/
def replayed (x : Bridge) : List Flit := x.replay

/-- A nak: the flits after the acknowledged one are sent again; after 16 replays in a row the port retrains. -/
def replayFlits (s : State) (n : BPort) : State :=
  let s1 := (s.modBrg n fun x => { x with fails := x.fails + 1 }).countSat (.brg n .linkCnt) 32 16 1
  let s2 := (replayed s1.brg.ports[n.val]).foldl (fun s f => s.emit (.flit n f)) s1
  if 16 ≤ (s2.brg.ports[n.val]).fails then laneLoss s2 n else s2

/-- What a flit tells of this device's own flits. -/
def takeAck (s : State) (n : BPort) (f : Flit) : State :=
  let s1 := if f.ackV then runSlots (s.modBrg n (ackFlits f.ack)) n else s
  if f.nak then replayFlits s1 n else s1

/-- An idle flit of this device, with its acknowledgement (log entry 19). -/
def idleFlit (x : Bridge) (nak : Bool) : Flit :=
  sealed { newFlit 0 0 0 (List.replicate 256 0) with seq := x.txSeq, ack := x.rxSeq - 1, nak := nak }

def sendIdle (s : State) (n : BPort) (nak : Bool) : State := s.emit (.flit n (idleFlit s.brg.ports[n.val] nak))

/-- BRIDGE_FLIT_RECEIVE: a flit with a failed CRC or beyond a gap is discarded and refused; one that came before is
discarded; the next in order is taken and acknowledged. BRG_LINK_CNT counts the codewords that the FEC corrected. -/
def receiveFlit (s0 : State) (n : BPort) (f : Flit) (fec : BitVec 16) : State :=
  let x := s0.brg.ports[n.val]
  let s := s0.countSat (.brg n .linkCnt) 0 32 fec.toNat
  if x.st ≠ .up then s0
  else if !f.crcOk then sendIdle s n true
  else if f.ftype = 0 ∨ f.ftype = 5 then takeAck s n f
  else if f.seq = x.rxSeq then
    sendIdle (takeAck (s.modBrg n fun x => { x with rxSeq := x.rxSeq + 1 }) n f) n false
  else if seqGap x.rxSeq f.seq < 2048 then sendIdle s n true
  else s

def execBrgSignalDetect (n : BPort) (s : State) : Host.Outcome State Fault Refusal := .next (signalDetect s n)

def execBrgTrainingEnd (n : BPort) (lanes : TrainResult) (s : State) : Host.Outcome State Fault Refusal :=
  .next (trainingEnd s n lanes)

def execBridgeIdent (n : BPort) (serial : Word) (peerPort : BitVec 3) (addr : BitVec 8) (valid : Bool) (s : State) :
    Host.Outcome State Fault Refusal := .next (identPort s n serial peerPort addr valid)

def execBridgeFlitReceive (n : BPort) (flit : Flit) (fec : BitVec 16) (s : State) : Host.Outcome State Fault Refusal :=
  .next (receiveFlit s n flit fec)

/-- BRG_RETRAIN_END. -/
def retrainEnd (s : State) (n : BPort) (ok : Bool) : State :=
  if s.brg.ports[n.val].st ≠ .retrain then s
  else if ok then enterIdent s n id else downPort s n

def execBrgRetrainEnd (n : BPort) (ok : Bool) (s : State) : Host.Outcome State Fault Refusal := .next (retrainEnd s n ok)

def execBrgLaneLoss (n : BPort) (s : State) : Host.Outcome State Fault Refusal := .next (laneLoss s n)

end Sys2Proof.Machine
end

