-- ==== Sys2Proof/Machine/Fretboard.lean ====
section
/-! DEFINITION. The commands of the Fretboard's arbiters (R300 to R303), and flit words that fail (R304). -/

namespace Sys2Proof.Machine

/-- R302: freeze set, or cleared: then arbitration resumes with the credits as they stand. -/
def setFreeze (s : State) (a : Arb) (on : Bool) : State :=
  let s1 := s.putRegField (freezeReg a) 0 1 (if on then 1 else 0)
  if !on && arbFrozen s a then setArb s1 a { arbState s1 a with frozen := false } else s1

/-- A packet or a request holds the arbiter's resource. -/
def resourceHeld (s : State) : Arb → Bool
  | .router r o => sget (fun _ => 0) s.net.busy (arbKey (.router r o)) ≠ 0
  | .stop k => s.net.stops.any fun q => q.stop = k && q.granted

/-- R302: frozen sets once no packet holds the resource. -/
def reachFreeze (s : State) (a : Arb) : State :=
  if s.regBit (freezeReg a) 0 && !resourceHeld s a then setArb s a { arbState s a with frozen := true } else s

/-- R303: debug takes an output for one flit, also of a frozen one, at most once in every 16 cycles; a packet that holds the
output goes on a cycle later, and credits stay. -/
def debugFlit (s : State) (r : Fin 128) (o : Fin 5) : State :=
  let k := arbKey (.router r o)
  if s.now < sget (fun _ => 0) s.net.debug k then s
  else
    let s1 := countLink s { router := r, out := o } 1
    { s1 with net := { s1.net with
        debug := sput (fun _ => 0) s1.net.debug k (s1.now + 64)
        busy := sput (fun _ => 0) s1.net.busy k (sget (fun _ => 0) s1.net.busy k + 1) } }

/-! ## Flit words (R304) -/

/-- A router finds an uncorrectable data word. Which router it is the command does not say: the record's arguments are 0. -/
def noteFlitBad (s : State) : State :=
  ((s.countSat (.frb .eccCnt) 32 16 1).raiseBits (.frb .evt) (mask 3 1)).logRec 6 2 2 0 0

/-- What the routers on a packet's way have found of its flit words. -/
def noteFlits (f : FlitEcc) (s : State) : State :=
  f.bad.foldl (fun s _ => noteFlitBad s) (s.countSat (.frb .eccCnt) 0 32 f.corrected)

/-- The words of a payload at an address that were uncorrectable on their way: what is written of them carries the check
pattern. -/
def spoilFlits (f : FlitEcc) (a n : Nat) (s : State) : State :=
  (f.bad.filter fun k => 8 * k < n).foldl (fun s k => s.spoil (a + 8 * k)) s

/-! ## The rows -/

/-- ARBITER_WINDOW_START. -/
def execArbiterWindowStart (hub : Bool) (s : State) : Host.Outcome State Fault Refusal := .next (reloadCredits hub s)

/-- ARBITER_FREEZE. -/
def execArbiterFreeze (arb : Arb) (on : Bool) (s : State) : Host.Outcome State Fault Refusal :=
  .next (setFreeze s arb on)

/-- FREEZE_REACHED. -/
def execFreezeReached (arb : Arb) (s : State) : Host.Outcome State Fault Refusal := .next (reachFreeze s arb)

/-- DEBUG_FLIT_ACCESS. -/
def execDebugFlitAccess (r : Fin 128) (o : Fin 5) (s : State) : Host.Outcome State Fault Refusal := .next (debugFlit s r o)

end Sys2Proof.Machine
end

