-- ==== Sys2Proof/Machine/Cache.lean ====
section
/-! DEFINITION. The memories outside the PAs (chapter 9): the package cache slices, the prefetchers, HBM, the CXL far
tier, and remote accesses to an SPM; and the SPM's merge buffer (R92 to R96, R100). -/

namespace Sys2Proof.Machine

/-! ## Who asks -/

/-- The instruction in flight whose access a request carries. -/
def opAsking (s : State) (p : Pa) (a : Nat) (acc : Access) : Option (Op × MemAcc) :=
  (s.pa p).ops.findSome? fun o => match o.acc with
    | some m => if !m.done && m.addr = a && m.asked = acc && !accBehind (s.pa p) o m then some (o, m) else none
    | none => none

/-- The accesses of a unit at homes outside the own SPM. -/
def Tag.asks (s : State) (p : Pa) (g : Tag) : List (Nat × Access) := if g.unit.fetch then readAsks p g.unit else writeAsks s g.unit

/-- A unit's requests have come to their homes. -/
def unitCame (s : State) (p : Pa) (g : Tag) : Bool :=
  if g.unit.cls = .key then (keyWays s p g.unit).all fun l => mayArrive s (.unit p g.id) (destOf (routed s l))
  else unitArrives s p g

/-- The unit of a Bow whose access a request carries. -/
def tagAsking (s : State) (p : Pa) (a : Nat) (acc : Access) : Option Tag :=
  (s.pa p).bow.tags.find? fun g => !g.cancelled && !g.lost && !g.passed.contains a && (g.asks s p).contains (a, acc)

/-- The requester has such a request, and it has come; a host's, a Bridge's or Soundpost's comes with the command. -/
def asks (s : State) (rq : Requester) (a : Nat) (acc : Access) : Bool :=
  match rq with
  | .threads p => match opAsking s p a acc with
    | some (o, _) => requestArrives s p (.access p o.id) a
    | none => false
  | .bow p => (tagAsking s p a acc).any (unitCame s p)
  | _ => true

/-- R257: the class of a request; a Bow's is that of its unit. -/
def askedClass (s : State) (rq : Requester) (c : StreamClass) (a : Nat) (acc : Access) : StreamClass :=
  match rq with
  | .bow p => match tagAsking s p a acc with
    | some g => g.unit.cls
    | none => c
  | _ => requestClass rq c

/-- The units, of any PA, that take the data of a request of a unit (R194). -/
def sharers (s : State) (p : Pa) (g : Tag) : List (Pa × Nat) :=
  match fetchOf s p g.id with
  | some f => f.left
  | none => [(p, g.id)]

/-- A home answers a request. -/
def answer (rq : Requester) (s : State) (a : Nat) (acc : Access) (r : Served) : State :=
  match rq, r with
  | .threads p, r => match opAsking s p a acc with
    | some (o, m) => answerAcc p o m r
    | none => s
  | _, .held s1 => s1
  | .bow _, _ => s
  | rq, .done s1 data => if accWrites acc then s1 else s1.emit (.homeData rq data)
  | rq, .failed s1 b => s1.emit (.homeError rq b)

/-- Perform a request at its home and answer it. A unit's access has passed its home. -/
def performRequest (s : State) (rq : Requester) (a : Nat) (acc : Access) : State :=
  match rq with
  | .bow p => match tagAsking s p a acc with
    | some g => (sharers s p g).foldl (fun s e => passed e.1 e.2 s a acc) s
    | none => s
  | rq => answer rq s a acc (perform rq s a acc)

/-- The words that a unit has read and found uncorrectable: its command aborts as it lands (R251). -/
def markUnit (b a : Nat) (acc : Access) (s : State) (e : Pa × Nat) : State :=
  setTag e.1 e.2 (fun g => { g with
    passed := a :: g.passed
    unit := { g.unit with bad := g.unit.bad ++ g.unit.pieces.flatMap fun k => match k.src with
      | .mem src => if accWrites acc then [] else badWords [floorTo b 8] src k.dst k.len
      | _ => [] } }) s

/-- A request fails at its home as it met an uncorrectable word at `b`. -/
def failRequest (s : State) (rq : Requester) (a : Nat) (acc : Access) (b : Nat) : State :=
  match rq with
  | .bow p => match tagAsking s p a acc with
    | some g => (sharers s p g).foldl (markUnit b a acc) s
    | none => s
  | rq => answer rq s a acc (.failed s b)

/-- R262, R273: the write of a request is dropped, and its requester hears of it. -/
def dropRequest (s : State) (rq : Requester) (a : Nat) (acc : Access) : State :=
  match rq with
  | .threads p => match opAsking s p a acc with
    | some (o, _) => abortAll s p o .ecc a false
    | none => s
  | .bow p => match tagAsking s p a acc with
    | some g => abortCmd (setTag p g.id (fun g => { g with passed := a :: g.passed }) s) p g a []
    | none => s
  | rq => s.emit (.homeError rq a)

/-! ## Requests at a slice (R256 to R260, R263) -/

/-- The sectors that an access needs. -/
def accSectors (a : Nat) (acc : Access) : BitVec 32 := sectorsOf a (accLen acc)

/-- A request that needs HBM data takes its slot and queues its reads. -/
def queueFill (s : State) (h : Hub) (f : Fill) (m : BitVec 32) : State :=
  let id := (s.slice h).nextFill
  queueReads (some id) f.addr m
    (s.modSlice h fun x => { x with fills := x.fills ++ [{ f with id := id }], nextFill := id + 1 })

/-- The line holds all that an access reads. -/
def hitLine (s : State) (h : Hub) (a : Nat) (acc : Access) : Option (Nat × CLine) :=
  (lineOf (s.slice h) (sliceUnit a)).filter fun e => holds e.2 a (accLen acc)

/-- A miss: its stream goes on, and its unit's sectors are read. -/
def sliceMiss (s : State) (h : Hub) (rq : Requester) (c : StreamClass) (a : Nat) (acc : Access) : State :=
  queueFill (noteDemand s h rq c (sliceUnit a) false) h { rq := rq, cls := c, addr := a, acc := some acc } (accSectors a acc)

/-- A hit: the line's count falls, and the request is performed. -/
def sliceHit (s : State) (h : Hub) (rq : Requester) (c : StreamClass) (a : Nat) (acc : Access) (k : Nat) (l : CLine) : State :=
  let s1 := performRequest (noteDemand (hitRead s h k l) h rq c (sliceUnit a) true) rq a acc
  match acc with
  | .atomic _ _ => noteWrite s1 h c a (accLen acc)
  | _ => s1

/-- The uncorrectable word that a read of a line meets. -/
def foundBad (a : Nat) (acc : Access) (f : CacheWords) : Option Nat :=
  (f.bad.map fun b => floorTo b.toNat 8).filter fun b => overlap b 8 a (accLen acc)

/-- A read or an atomic at its slice. An uncorrectable word of a clean line has the unit read again; one of a dirty line is
lost (R259). -/
def sliceRead (s0 : State) (h : Hub) (rq : Requester) (c : StreamClass) (a : Nat) (acc : Access) (f : CacheWords) : State :=
  match hitLine s0 h a acc with
  | none => sliceMiss s0 h rq c a acc
  | some (k, l) =>
    let s := countCorrected s0 h f.corrected
    match foundBad a acc f with
    | none => sliceHit s h rq c a acc k l
    | some b =>
      if l.dirty = 0 then sliceMiss (noteRefetch (loseLine h k s) h b) h rq c a acc
      else failRequest ((noteLost s h b).spoil b) rq a acc b

/-- A write waits behind earlier requests of its unit. -/
def writeWaits (s : State) (a : Nat) : Bool := unitWaits s a

/-- Commit a write. -/
def commitWrite (s : State) (h : Hub) (rq : Requester) (c : StreamClass) (a : Nat) (bs : List Byte) : State :=
  noteWrite (performRequest s rq a (.write bs)) h c a bs.length

/-- A write at its slice: behind a fill of its unit it waits in its slot. -/
def sliceWrite (s : State) (h : Hub) (rq : Requester) (c : StreamClass) (a : Nat) (bs : List Byte) : State :=
  if writeWaits s a then
    s.modSlice h fun x => { x with waiting := x.waiting ++ [{ rq := rq, cls := c, addr := a, bytes := bs }] }
  else commitWrite (noteDemand s h rq c (sliceUnit a) (lineOf (s.slice h) (sliceUnit a)).isSome) h rq c a bs

/-- A read that its slice cannot begin yet: it keeps its slot behind a write of its unit, or while a read queue that it needs
is full (R265). -/
def readHeld (s : State) (h : Hub) (a : Nat) (acc : Access) : Bool :=
  ((s.slice h).waiting.any fun k => sliceUnit k.addr = sliceUnit a)
    || ((hitLine s h a acc).isNone && queuesFull s a (accSectors a acc) false)

/-- An admitted request at its slice. -/
def atSlice (s : State) (rq : Requester) (c : StreamClass) (a : Nat) (acc : Access) (f : CacheWords) : State :=
  let s1 := countStop (crossMesh s rq a (accLen acc) (accWrites acc)) rq a (accLen acc) (accWrites acc)
  match acc with
  | .write bs => sliceWrite s1 (hbmHub a) rq c a bs
  | _ => sliceRead s1 (hbmHub a) rq c a acc f

/-- The request lies in one unit of populated HBM. -/
def inUnit (s : State) (a : Nat) (acc : Access) : Bool :=
  0 < accLen acc && a % 4096 + accLen acc ≤ 4096 && a < hbmEnd && !retired s a (accLen acc)

/-- The slice takes the request now: it has come, no earlier command has brought it in, and its bank accepts requests. -/
def sliceTakes (s : State) (rq : Requester) (a : Nat) (acc : Access) : Bool :=
  inUnit s a acc && (s.slice (hbmHub a)).banks[(cacheBank (sliceUnit a)).val] ≠ .forced && asks s rq a acc
    && !((requesterPa rq).isSome && inSlice s rq a acc)

/-- SLICE_REQUEST: the request is admitted at its stop, or waits there. -/
def requestSlice (s : State) (rq : Requester) (c : StreamClass) (a : Nat) (acc : Access) (f : CacheWords) : State :=
  if !sliceTakes s rq a acc then s
  else if homeDown s a then performRequest s rq a acc
  else
    let c := askedClass s rq c a acc
    match offer s rq c a acc with
    | (none, s1) => s1
    | (some s1, s2) => if !accWrites acc && readHeld s (hbmHub a) a acc then s2 else atSlice s1 rq c a acc f

/-- Commit the writes that waited for a fill of unit `w`, in order. -/
def commitWaiting (s : State) (h : Hub) (w : Nat) : State :=
  if fillPending (s.slice h) w then s
  else
    let l := (s.slice h).waiting.filter fun k => sliceUnit k.addr = w
    let s1 := s.modSlice h fun x => { x with waiting := x.waiting.filter fun k => sliceUnit k.addr ≠ w }
    l.foldl (fun s k => commitWrite s h k.rq k.cls k.addr k.bytes) s1

/-- The bytes that a fill brings. -/
def Fill.len (f : Fill) : Nat := match f.acc with
  | some acc => accLen acc
  | none => 4096

/-- The request of a fill is answered. -/
def answerFill (s : State) (h : Hub) (f : Fill) : State :=
  match f.acc with
  | none => s
  | some acc =>
    let s1 := performRequest s f.rq f.addr acc
    match acc with
    | .atomic _ _ => noteWrite s1 h f.cls f.addr (accLen acc)
    | _ => s1

/-- CACHE_FILL: fill `n` of the slice returns. A fill that meets an uncorrectable burst does not complete (R267). -/
def fillLine (s : State) (h : Hub) (n : Nat) : State :=
  match (s.slice h).fills[n]? with
  | none => s
  | some f =>
    let u := useOf s h f.cls
    let m := sectorsOf f.addr f.len
    let s1 := finishReads f.id f.addr m (s.modSlice h fun x => { x with fills := dropAt x.fills n })
    let bad := (s1.mem.uncBurst.any fun b => overlap (floorTo f.addr 128) (128 * sectorCount m) b 32) || homeDown s1 f.addr
    let s2 :=
      if bad then s1
      else noteFill s1 h f.cls f.addr f.len (if f.acc.isSome then u - 1 else u) (f.acc.isNone || u ≠ 0)
    commitWaiting (answerFill s2 h f) h (sliceUnit f.addr)

/-! ## Prefetches (R260) -/

/-- The stop at which the prefetches of a unit arbitrate (DESIGN CHOICE, log entry 73). -/
def prefetchStop (h : Hub) (w : Nat) : Fin 32 := Fin.ofNat 32 (8 * h.val + w % 8)

/-- The read queues that a unit needs have room for a prefetch. -/
def prefetchRoom (s : State) (a : Nat) : Bool :=
  (upFrom 0 32).all fun pc => (chanQueue s.st.hbms[(hbmStack a).val] pc false).length < 32

/-- A tracker may issue its next unit. -/
def mayPrefetch (s : State) (h : Hub) (t : Tracker) : Bool :=
  let a := unitAddr h t.next
  prefetches s h t.rq t.cls && t.next ≤ t.lastDemand + prefetchDepth s h && a + 4096 ≤ hbmEnd && !retired s a 4096
    && prefetchRoom s a && allocates (s.slice h) t.next

/-- The slice holds a unit whole, or reads it already. -/
def hasUnit (x : Slice) (w : Nat) : Bool :=
  (lineOf x w).any (fun e => e.2.valid = BitVec.allOnes 32) || x.fills.any fun f => sliceUnit f.addr = w

/-- PREFETCH_ISSUE: a prefetch takes its turn at a hub stop, and its reads are queued. -/
def issuePrefetch (s : State) (h : Hub) (k : Fin 32) : State :=
  match (s.slice h).trackers[k.val] with
  | none => s
  | some t =>
    if !mayPrefetch s h t then s
    else
      let a := unitAddr h t.next
      let t1 := { t with next := t.next + 1, issued := t.issued + 1 }
      let moved := fun (s : State) =>
        s.modSlice h fun x => { x with trackers := x.trackers.set k.val (if 256 ≤ t1.issued then none else some t1) }
      if hasUnit (s.slice h) t.next then moved s
      else match admitAt (stopReq (prefetchStop h t.next) 5 t.rq a (.read 4096)) s with
        | (none, s1) => s1
        | (some s1, _) => queueFill (moved s1) h { rq := t.rq, cls := t.cls, addr := a, acc := none } (BitVec.allOnes 32)

/-- TRACKER_IDLE_END. -/
def endTracker (s : State) (h : Hub) (k : Fin 32) : State :=
  s.modSlice h fun x => { x with trackers := x.trackers.set k.val none }

/-! ## Cache banks (R261, R262) -/

/-- The lines of a bank. -/
def bankLines (x : Slice) (b : Fin 16) : List (Nat × CLine) :=
  x.lines.filterMap fun e => if e.1 / 16 % 16 = b.val then e.2.map fun l => (e.1, l) else none

/-- Lines leave a bank: dirty ones are written back. -/
def emptyBank (s : State) (h : Hub) (b : Fin 16) (keepDirty : Bool) : State :=
  let gone := (bankLines (s.slice h) b).filter fun e => !keepDirty || e.2.dirty = 0
  let s1 := gone.foldl (fun s e => writeBack s h e.2) s
  s1.modSlice h fun x => { x with lines := gone.foldl (fun m e => sput noLine m e.1 none) x.lines }

def setBank (s : State) (h : Hub) (b : Fin 16) (v : BankState) : State :=
  s.modSlice h fun x => { x with banks := x.banks.set b.val v }

/-- R261: a drain starts, or stops; a bank that is off powers up empty. -/
def drainBank (s : State) (h : Hub) (b : Fin 16) (on : Bool) : State :=
  let st := (s.slice h).banks[b.val]
  if on then
    let s1 := s.putRegField (.slice h .bankPd) b.val 1 1
    if st = .on then emptyBank (setBank s1 h b .draining) h b true else s1
  else
    let s1 := s.putRegField (.slice h .bankPd) b.val 1 0
    if st = .forced then s1 else setBank s1 h b .on

/-- R262: a waiting write or atomic is dropped: it is counted and logged, and its requester hears of it. -/
def dropWrite (h : Hub) (s : State) (k : Requester × Nat × Access) : State :=
  let s1 := (s.countSat (.slice h .bankStat) 33 15 1).raiseBits (.slice h .bankStat) (mask 32 1)
  dropRequest (s1.logRec 3 2 4 k.2.1 0) k.1 k.2.1 k.2.2

/-- A request that writes what it reads. -/
def isAtomic : Access → Bool
  | .atomic _ _ => true
  | _ => false

/-- The writes and atomics that wait in the slots of a bank and have not committed, oldest first. -/
def bankWrites (x : Slice) (b : Fin 16) : List (Requester × Nat × Access) :=
  (x.fills.filterMap fun f => match f.acc with
    | some acc => if isAtomic acc && cacheBank (sliceUnit f.addr) = b then some (f.rq, f.addr, acc) else none
    | none => none)
    ++ (x.waiting.filter fun k => cacheBank (sliceUnit k.addr) = b).map fun k => (k.rq, k.addr, .write k.bytes)

/-- They leave their slots. -/
def clearWrites (h : Hub) (b : Fin 16) (s : State) : State :=
  let mine := fun (f : Fill) => f.acc.any isAtomic && cacheBank (sliceUnit f.addr) = b
  let s1 := ((s.slice h).fills.filter mine).foldl (fun s f => dropReads f.id f.addr s) s
  s1.modSlice h fun x => { x with
    fills := x.fills.filter fun f => !mine f
    waiting := x.waiting.filter fun k => cacheBank (sliceUnit k.addr) ≠ b }

/-- R262: a bank is forced down. -/
def downBank (s : State) (h : Hub) (b : Fin 16) : State :=
  if (s.slice h).banks[b.val] = .off then s
  else
    let s1 := clearWrites h b (setBank s h b .forced)
    emptyBank ((bankWrites (s.slice h) b).foldl (dropWrite h) s1) h b true

/-- Software sets req and force together. -/
def forceBank (s : State) (h : Hub) (b : Fin 16) : State :=
  downBank ((s.putRegField (.slice h .bankPd) b.val 1 1).putRegField (.slice h .bankPd) (16 + b.val) 1 1) h b

/-- Capo forces every bank down (R429, R430); the registers keep what software asked for. -/
def forceAllBanks (s : State) : State :=
  (List.finRange 4).foldl (fun s h => (List.finRange 16).foldl (fun s b => downBank s h b) s) s

/-- The cache banks that software does not hold down come back. -/
def banksOn (s : State) : State :=
  (List.finRange 4).foldl (fun s h => (List.finRange 16).foldl (fun s b =>
    if s.regBit (.slice h .bankPd) b.val then s else setBank s h b .on) s) s

/-- CACHE_BANK_OFF: the write-backs are done and no write is outstanding. -/
def bankOff (s : State) (h : Hub) (b : Fin 16) : State :=
  let x := s.slice h
  if (x.banks[b.val] = .draining ∨ x.banks[b.val] = .forced) ∧ !(x.waiting.any fun k => cacheBank (sliceUnit k.addr) = b) then
    setBank (emptyBank s h b false) h b .off
  else s

/-! ## HBM (R266 to R269) -/

/-- A fill that is outstanding fails: its request fails with it. -/
def failFill (h : Hub) (b : Nat) (s : State) (f : Fill) : State :=
  let s1 := dropReads f.id f.addr s
  let s2 := match f.acc with
    | some acc => failRequest s1 f.rq f.addr acc b
    | none => s1
  commitWaiting s2 h (sliceUnit f.addr)

/-- R267: the requests whose fill needs a burst that cannot be read: none completes. -/
def failFills (s : State) (h : Hub) (b : Nat) : State :=
  let hit := fun (f : Fill) => overlap f.addr f.len b 32
  let l := (s.slice h).fills.filter hit
  l.foldl (failFill h b) (s.modSlice h fun x => { x with fills := x.fills.filter fun f => !hit f })

/-- R267: a burst is uncorrectable. -/
def burstBad (s : State) (a : Nat) (crc : Bool) : State :=
  let b := floorTo a 32
  let s1 := { s with mem := { s.mem with uncBurst := nins s.mem.uncBurst b } }
  failFills (noteHbmBad s1 b crc) (hbmHub a) b

/-- HBM_READ_RETURN. -/
def burstReturn (s : State) (n : Stack) (a : Nat) (r : BurstResult) : State :=
  if hbmEnd ≤ a ∨ hbmStack a ≠ n then s
  else match r with
    | .good k => s.countSat (.hbm n .eccCnt) 0 32 k
    | .retryPassed => s.countSat (.hbm n .eccCnt) 32 16 1
    | .retryFailed => burstBad s a true
    | .stackUncorrectable => burstBad s a false

/-- HBM_REFRESH: postponed while row hits are queued, four times at most; else the bank closes. -/
def refreshBank (s : State) (n : Stack) (pc : Fin 32) (b : Fin 64) (rowHits : Bool) : State :=
  let k := pc.val * 64 + b.val
  s.modHbm n fun x =>
    let d := sget (fun _ => 0) x.postponed k
    if rowHits && d < 4 then { x with postponed := sput (fun _ => 0) x.postponed k (d + 1) }
    else { x with postponed := sput (fun _ => 0) x.postponed k 0, openRow := sput (fun _ => none) x.openRow k none }

/-- The thresholds of Table 9.3: Warm, Throttled and Critical. -/
def thermAt (s : State) (n : Stack) : Nat → Nat
  | 1 => 85
  | 2 => max 86 (min 100 (s.regField (.hbm n .therm) 8 8))
  | _ => max (max 86 (min 100 (s.regField (.hbm n .therm) 8 8)) + 1) (min 110 (s.regField (.hbm n .therm) 16 8))

/-- R269: a stack is in a state at or above `k`: it has reached the threshold, or has not fallen 3 °C below it. -/
def thermHolds (s : State) (n : Stack) (now temp k : Nat) : Bool :=
  thermAt s n k ≤ temp || (k ≤ now && thermAt s n k < temp + 3)

/-- The thermal state that a temperature gives. -/
def thermNext (s : State) (n : Stack) (now temp : Nat) : Fin 4 :=
  if thermHolds s n now temp 3 then 3 else if thermHolds s n now temp 2 then 2 else if thermHolds s n now temp 1 then 1 else 0

/-- HBM_TEMP_REPORT. -/
def tempReport (s : State) (n : Stack) (temp : BitVec 8) : State :=
  let now := (s.st.hbms[n.val]).therm
  let new := thermNext s n now.val temp.toNat
  let s1 := s.modHbm n fun x => { x with temp := temp, therm := new }
  let s2 :=
    if new = now then s1
    else if new = 2 then (s1.raiseBits (.hbm n .therm) (mask 24 1)).logRec 4 0 4 n.val temp.toNat
    else if new = 3 then (s1.raiseBits (.hbm n .therm) (mask 25 1)).logRec 4 2 5 n.val temp.toNat
    else s1
  if now = 3 then settleTrip s2 else s2

/-- R268: the effect of a completed write of HBM_RET(i): the unit's line leaves the cache with its dirty sectors, or the
unit returns to service with undefined contents. -/
def retireEffect (s : State) (n : Stack) (old new : Word) : State :=
  let unit := fun (v : Word) => (field v 0 24).toNat
  let addr := fun (v : Word) => (unit v * 24 + n.val) * 4096
  let s1 := s.logRec 4 0 6 n.val (unit new)
  let s2 :=
    if bit old 24 && unit old ≤ 9437183 && !(bit new 24 && unit new = unit old) && !retired s1 (addr old) 4096 then
      s1.scramble (addr old) 4096
    else s1
  if bit new 24 && unit new ≤ 9437183 then
    let h := hbmHub (addr new)
    s2.modSlice h fun x => match lineOf x (sliceUnit (addr new)) with
      | some (k, _) => { x with lines := sput noLine x.lines k none }
      | none => x
  else s2

/-! ## CXL (R271, R273, R277) -/

/-- CXL_READY: a port that is disabled stays untrained. -/
def cxlReady (s : State) (i : Fin 2) (cap : BitVec 14) (x16 gt64 : Bool) : State :=
  if s.regBit (.cxl .cfg) (1 + i.val) then
    relayout s fun s => s.modCxl i fun x => { x with linkUp := true, ready := true, mapped := true, wide := x16, fast := gt64,
                                                     cap := if 8192 < cap.toNat then 8192 else cap }
  else s

/-- CXL_LINK_DOWN: the range stays mapped. -/
def cxlDown (s : State) (i : Fin 2) : State :=
  (s.modCxl i fun x => { x with linkUp := false, ready := false }).logRec 5 2 2 i.val 0

/-- R397: clearing en with no program resident leaves the port untrained; setting it again resets the port's domain. -/
def cxlEnable (s : State) (i : Fin 2) (on : Bool) : State :=
  if s.rp.prog.isSome then s
  else
    let was := s.regBit (.cxl .cfg) (1 + i.val)
    let s1 := s.putRegField (.cxl .cfg) (1 + i.val) 1 (if on then 1 else 0)
    if on && !was then
      ((relayout s1 fun s => s.modCxl i fun x => { aside := x.aside, asideBad := x.asideBad }).setReg (.cxl (.err i)) 0).setReg
        (.cxl (.errAddr i)) 0
    else if !on then s1.modCxl i fun x => { x with linkUp := false, ready := false }
    else s1

/-- FAR_TIER_ACCESS: a read that returns poison fails. -/
def farAccess (s : State) (rq : Requester) (a : Nat) (acc : Access) (poison : Bool) : State :=
  match region s a with
  | .far i _ =>
    if !asks s rq a acc || !populated s a (accLen acc) (accWrites acc) then s
    else if poison && !accWrites acc && !homeDown s a then failRequest (noteFarBad s i a true) rq a acc a
    else performRequest s rq a acc
  | _ => s

/-! ## An SPM from outside, and its merge buffer (R254, R91, R92, R95, R100) -/

/-- The words of a payload that were uncorrectable on their way have left check patterns where they were written. -/
def spoilWritten (f : FlitEcc) (a : Nat) (acc : Access) (s : State) : State :=
  if accWrites acc then spoilFlits f a (accLen acc) s else s

/-- A response that carries an uncorrectable word ends its read with EXC_ECC (R304). -/
def flitFails (f : FlitEcc) (acc : Access) : Bool := !accWrites acc && f.bad.any fun k => 8 * k < accLen acc

/-- A remote access that its SPM has taken. -/
def servedRemote (rq : Requester) (q : Pa) (off : Nat) (acc : Access) (fixed : List Nat) (f : FlitEcc) (s0 : State) : State :=
  let a := spmAddr q off
  let s := noteFlits f (if accWrites acc then s0 else noteFixed q [(off, accLen acc)] fixed s0)
  if flitFails f acc then failRequest s rq a acc a else spoilWritten f a acc (performRequest s rq a acc)

/-- The access of a requester that is no unit of a Bow waits for room in the merge buffer. -/
def remoteHeld (s : State) (a : Nat) (acc : Access) : Bool := match acc with
  | .read _ => false
  | acc => !mergeFits s a (accLen acc)

/-- REMOTE_SPM_ACCESS: an access outside the populated 12 MiB, or to a PA that is offline, gets a window error. A read takes a
read port of the cycle, or waits for one; a write narrower than a line finds room in the merge buffer, or waits. -/
def remoteAccess (s : State) (rq : Requester) (q : Pa) (off : Nat) (acc : Access) (fixed : List Nat) (f : FlitEcc) : State :=
  let a := spmAddr q off
  if !asks s rq a acc || (match rq with | .bow _ => accWrites acc | _ => false) then s
  else if spmSize < off + accLen acc ∨ !(s.pa q).online then (if (requesterPa rq).isSome then s else s.emit (.homeError rq a))
  else if homeDown s a then performRequest s rq a acc
  else if remoteHeld s a acc then forceMerge s a
  else match takeRead rq s q off acc with
    | (some s1, _) => servedRemote rq q off acc fixed f s1
    | (none, s1) => s1

/-- PA_SPM_CFG.merge_idle. -/
def mergeIdleLimit (s : State) (p : Pa) : Nat := s.regField (.pa p .spmCfg) 0 9

/-- MERGE_IDLE_TIMEOUT: entry `n` has not been written for merge_idle cycles; 0 disables the timeout. -/
def mergeIdle (s : State) (p : Pa) (n : Nat) : State :=
  match (s.pa p).merge[n]? with
  | some e =>
    if mergeIdleLimit s p ≠ 0 && mergeIdleLimit s p + e.last ≤ (s.pa p).cycle then s.modPa p (drainLine e.line) else s
  | none => s

/-- The requests of a PA for its write port and its merge reads, in the order in which it serves them: a raised one first, then
the oldest. -/
def portOrder (x : PaState) : List SpmReq := (x.asks.filter (·.raised)) ++ x.asks.filter fun r => !r.raised

/-- The entry that drains next: the first that asks for the port. -/
def drainNext (x : PaState) : Option Merge :=
  (portOrder x).findSome? fun r => match r.ask with
    | .drain line => x.merge.find? (·.line = line)
    | _ => none

/-- The words of an entry that it covers in part and that are uncorrectable (R94). -/
def drainBad (s : State) (p : Pa) (e : Merge) : List Nat :=
  (partialWords e.mask).filter fun i => nmem s.mem.unc (spmAddr p (e.line * 4096 + i * 8))

/-- R94: an entry drains: words that it covers whole get a fresh check value; a failing word is counted and stays. -/
def drainEntry (s : State) (p : Pa) (e : Merge) (fixed : List Nat) : State :=
  let bad := drainBad s p e
  let s1 := s.modPa p fun x => { dropEntry e.line x with draining := true }
  let fresh := (wholeWords e.mask).map fun i => spmAddr p (e.line * 4096 + i * 8)
  let s2 := { s1 with mem := { s1.mem with unc := s1.mem.unc.filter fun a => !fresh.contains a } }
  let s3 := bad.foldl (fun s i => noteSpmBad s p (e.line * 4096 + i * 8)) s2
  let s4 := if partialWords e.mask = [] then s3 else noteFixed p [(e.line * 4096, 4096)] fixed s3
  s4.event p { code := 0x13, amount := 1 }

/-- R91: the PA in which an entry has its ports in this cycle: the write port, and for words that it covers in part a read port
first. -/
def drainPorts (e : Merge) (x : PaState) : Option PaState :=
  let r := raisedAsk x (.drain e.line)
  if !portFree x .write e.line r then none
  else
    let x1 := takePort .write e.line x
    if partialWords e.mask = [] then some x1
    else (readPort x e.line r (readersBefore x (.drain e.line))).map fun k => takePort k e.line x1

/-- MERGE_DRAIN. While quiesce is set every entry drains (R100). -/
def drainMerge (s0 : State) (p : Pa) (fixed : List Nat) : State :=
  let s := if s0.regBit (.pa p .ctrl) 0 then s0.modPa p drainAll else s0
  match drainNext (s.pa p) with
  | some e => match drainPorts e (s.pa p) with
    | some x => drainEntry (s.setPa p x) p e fixed
    | none => s
  | none => s

/-- GUARD_PROMOTE: waiting request `n` has waited its guard cycles, and takes priority 1 (R92). -/
def promote (s : State) (p : Pa) (n : Nat) : State := s.modPa p (raiseAsk (guardCycles s p) n)

/-- CORRECTION_WRITE_BACK: the corrected word at offset 8n takes the write port, and is written again (R94). -/
def correctWord (s : State) (p : Pa) (n : Nat) : State :=
  let x := s.pa p
  if (x.asks.any fun r => r.ask = .correct n) && portFree x .write (8 * n / 4096) (raisedAsk x (.correct n)) then
    s.setPa p (dropAsk (.correct n) (takePort .write (8 * n / 4096) x))
  else s

/-- R134, R138: what quiesce held back is delivered as it clears. -/
def deliverHeld (s : State) (p : Pa) : State :=
  (List.finRange 8).foldl (fun s t =>
    let y := s.thr p t
    if y.cancelled || (y.undelivered && stalled s p t) then deliver s p t else s) s

/-- QUIESCE. -/
def setQuiesce (s : State) (p : Pa) (on : Bool) : State :=
  let s1 := (s.putRegField (.pa p .ctrl) 0 1 (if on then 1 else 0)).modPa p fun x => { x with quiesced := false }
  if on then s1.modPa p drainAll else if s.regBit (.pa p .ctrl) 0 then deliverHeld s1 p else s1

/-- QUIESCE_REACHED: no unit holds an instruction and the merge buffer is empty. Bow commands that are queued go on, and do not
count (DESIGN CHOICE, log entry 74). -/
def reachQuiesce (s : State) (p : Pa) : State :=
  if s.regBit (.pa p .ctrl) 0 && (s.pa p).ops.isEmpty && (s.pa p).merge.isEmpty then
    s.modPa p fun x => { x with quiesced := true }
  else s

/-! ## An access that a command of its own brings (R318, R350) -/

/-- The fill of a request that an access of some units waits for. -/
def fillBefore (s : State) (a n : Nat) : Option (Hub × Nat) :=
  (linesOf a n).findSome? fun e =>
    let h := hbmHub e.1
    ((s.slice h).fills.findIdx? fun f => f.acc.isSome && sliceUnit f.addr = sliceUnit e.1).map fun k => (h, k)

/-- What makes room for an access that its home holds: the oldest entry of a full merge buffer drains, or an earlier fill of its
units returns; nothing where a stop or a bank holds it (log entry 80). -/
def makeRoom (s : State) (a : Nat) (acc : Access) : Option State :=
  match region s a with
  | .spm p _ => (drainNext (s.pa p)).map fun e => drainEntry s p e []
  | .hbm => (fillBefore s a (accLen acc)).map fun e => fillLine s e.1 e.2
  | _ => none

/-- Perform an access of a host or of a Bridge peer at its home. -/
def serveNow (fuel : Nat) (rq : Requester) (c : StreamClass) (s : State) (a : Nat) (acc : Access) : Served :=
  match serve rq s a acc c, fuel with
  | .held s1, f + 1 => match makeRoom s1 a acc with
    | some s2 => serveNow f rq c s2 a acc
    | none => .held s1
  | r, _ => r

/-! ## The rows -/

/-- REMOTE_SPM_ACCESS. -/
def execRemoteSpmAccess (rq : Requester) (owner : Pa) (off : BitVec 24) (acc : Access) (fixed : List (Fin 1572864))
    (flits : FlitEcc) (s : State) : Host.Outcome State Fault Refusal :=
  .next (remoteAccess s rq owner off.toNat acc (fixed.map (·.val)) flits)

/-- SLICE_REQUEST. -/
def execSliceRequest (rq : Requester) (cls : StreamClass) (addr : BitVec 48) (acc : Access) (found : CacheWords) (s : State) :
    Host.Outcome State Fault Refusal := .next (requestSlice s rq cls addr.toNat acc found)

/-- CACHE_FILL. -/
def execCacheFill (h : Hub) (n : Nat) (s : State) : Host.Outcome State Fault Refusal := .next (fillLine s h n)

/-- PREFETCH_ISSUE. -/
def execPrefetchIssue (h : Hub) (k : Fin 32) (s : State) : Host.Outcome State Fault Refusal :=
  .next (issuePrefetch s h k)

/-- TRACKER_IDLE_END. -/
def execTrackerIdleEnd (h : Hub) (k : Fin 32) (s : State) : Host.Outcome State Fault Refusal := .next (endTracker s h k)

/-- CACHE_BANK_DRAIN. -/
def execCacheBankDrain (h : Hub) (b : Fin 16) (on : Bool) (s : State) : Host.Outcome State Fault Refusal :=
  .next (drainBank s h b on)

/-- CACHE_BANK_FORCE_DOWN. -/
def execCacheBankForceDown (h : Hub) (b : Fin 16) (s : State) : Host.Outcome State Fault Refusal := .next (forceBank s h b)

/-- CACHE_BANK_OFF. -/
def execCacheBankOff (h : Hub) (b : Fin 16) (s : State) : Host.Outcome State Fault Refusal := .next (bankOff s h b)

/-- HBM_READ_RETURN. -/
def execHbmReadReturn (n : Stack) (addr : BitVec 48) (res : BurstResult) (s : State) : Host.Outcome State Fault Refusal :=
  .next (burstReturn s n addr.toNat res)

/-- HBM_REFRESH. -/
def execHbmRefresh (n : Stack) (pc : Fin 32) (bank : Fin 64) (rowHits : Bool) (s : State) :
    Host.Outcome State Fault Refusal := .next (refreshBank s n pc bank rowHits)

/-- HBM_TEMP_REPORT. -/
def execHbmTempReport (n : Stack) (temp : BitVec 8) (s : State) : Host.Outcome State Fault Refusal :=
  .next (tempReport s n temp)

/-- CXL_READY. -/
def execCxlReady (i : Fin 2) (cap : BitVec 14) (x16 : Bool) (gt64 : Bool) (s : State) : Host.Outcome State Fault Refusal :=
  .next (cxlReady s i cap x16 gt64)

/-- CXL_LINK_DOWN. -/
def execCxlLinkDown (i : Fin 2) (s : State) : Host.Outcome State Fault Refusal := .next (cxlDown s i)

/-- CXL_PORT_ENABLE. -/
def execCxlPortEnable (i : Fin 2) (on : Bool) (s : State) : Host.Outcome State Fault Refusal := .next (cxlEnable s i on)

/-- FAR_TIER_ACCESS. -/
def execFarTierAccess (rq : Requester) (addr : BitVec 48) (acc : Access) (poison : Bool) (s : State) :
    Host.Outcome State Fault Refusal := .next (farAccess s rq addr.toNat acc poison)

/-- MERGE_IDLE_TIMEOUT. -/
def execMergeIdleTimeout (p : Pa) (n : Nat) (s : State) : Host.Outcome State Fault Refusal := .next (mergeIdle s p n)

/-- MERGE_DRAIN. -/
def execMergeDrain (p : Pa) (fixed : List (Fin 1572864)) (s : State) : Host.Outcome State Fault Refusal :=
  .next (drainMerge s p (fixed.map (·.val)))

/-- GUARD_PROMOTE. -/
def execGuardPromote (p : Pa) (n : Nat) (s : State) : Host.Outcome State Fault Refusal := .next (promote s p n)

/-- CORRECTION_WRITE_BACK. -/
def execCorrectionWriteBack (p : Pa) (n : Nat) (s : State) : Host.Outcome State Fault Refusal :=
  .next (correctWord s p n)

/-- QUIESCE. -/
def execQuiesce (p : Pa) (on : Bool) (s : State) : Host.Outcome State Fault Refusal := .next (setQuiesce s p on)

/-- QUIESCE_REACHED. -/
def execQuiesceReached (p : Pa) (s : State) : Host.Outcome State Fault Refusal := .next (reachQuiesce s p)

end Sys2Proof.Machine
end

