-- ==== Sys2Proof/Machine/Respond.lean ====
section
/-! DEFINITION. The completion of a host request (R316, R317): its response, and the session's completion record. -/

namespace Sys2Proof.Machine

/-- The slot of an open session. -/
def findSid (s : State) (sid : BitVec 32) : Option (Fin 16) :=
  (List.finRange 16).find? fun k => match s.sess k with | some x => x.sid = sid | none => false

/-- `a` lies above `b`, modulo 2³² (R317). -/
def idAbove (a b : BitVec 32) : Bool := 0 < (a - b).toNat && (a - b).toNat < 2 ^ 31

/-- R317: the completion record holds the last 256 completed requests. -/
def noteDone (x : Session) (id : BitVec 32) (st : Status) (detail : Nat) : Session :=
  if x.busy.any fun q => q.id = id && q.again then { x with busy := x.busy.filter (·.id ≠ id) }
  else
    { x with
      busy := x.busy.filter (·.id ≠ id)
      record := ((id, st, BitVec.ofNat 16 detail) :: x.record).take 256
      highest := match x.highest with
        | some h => some (if idAbove id h then id else h)
        | none => some id }

/-- A request of an ended session completes. -/
def endedDone (s : State) (sid id : BitVec 32) : State :=
  let drop := fun (e : EPort × Session) => if e.2.sid = sid then (e.1, { e.2 with busy := e.2.busy.filter (·.id ≠ id) }) else e
  { s with host := { s.host with ended := (s.host.ended.map drop).filter fun e => decide (e.2.busy ≠ []) } }

/-- A request that a session, open or ended, has accepted and not completed. -/
def findReq (s : State) (sid id : BitVec 32) : Option Req :=
  let busy := match (findSid s sid).bind s.sess with
    | some x => x.busy
    | none => s.host.ended.flatMap fun (e : EPort × Session) => if e.2.sid = sid then e.2.busy else []
  busy.find? (·.id = id)

/-- Change a request that a session, open or ended, has accepted and not completed. -/
def modReq (s : State) (sid id : BitVec 32) (f : Req → Req) : State :=
  let g := fun (x : Session) => if x.sid = sid then
    { x with busy := x.busy.map fun q => if q.id = id then f q else q } else x
  { s with host := { s.host with
      sessions := s.host.sessions.map fun o => o.map g
      ended := s.host.ended.map fun e => (e.1, g e.2) } }

/-- A response leaves with the session's next seq, to the source of its request (R308). -/
def sendResponse (s : State) (k : Fin 16) (p : Peer) (id : BitVec 32) (st : Status) (detail : Nat) (data : List Byte) : State :=
  endSpent (tellAt s k p data.length fun d sid seq => .response d sid seq id st (BitVec.ofNat 16 detail) data) k

/-- A request completes. The response of a session that has ended is discarded (R315). -/
def respond (s : State) (sid id : BitVec 32) (st : Status) (detail : Nat) (data : List Byte) : State :=
  match findSid s sid with
  | some k =>
    match s.sess k with
    | some x =>
      let p := (x.busy.find? (·.id = id)).elim x.peer (·.peer)
      sendResponse (s.setSess k (some (noteDone x id st detail))) k p id st detail data
    | none => s
  | none => endedDone s sid id

end Sys2Proof.Machine
end

