-- ==== Sys2Proof/Machine/Load.lean ====
section
/-! DEFINITION. The program load (R103 to R107, R110), its completion, and the cancel and unload of a program
(R321 to R323). -/

namespace Sys2Proof.Machine

/-- Why a load stops: its code of Table 4.4, and the uncorrectable address that it met. -/
structure LoadStop where
  code : Nat
  bad : Option Nat := none
  deriving DecidableEq, Repr

/-- What a check of the load answers. -/
abbrev Chk := Except LoadStop

/-- Go on when a condition holds; else stop with a code. -/
def need (c : Bool) (code : Nat) : Chk Unit := if c then .ok () else .error { code := code }

/-- Read bytes; an uncorrectable word stops the load with 0x0D at once (R105). -/
def loadBytes (s : State) (a n : Nat) : Chk (List Byte) :=
  match badAt s a n with
  | some b => .error { code := 0x0D, bad := some b }
  | none => .ok (s.bytes a n)

/-- One section (Table 4.2). -/
structure Sect where
  typ : Nat
  flags : Nat
  target : Nat
  off : Nat
  size : Nat
  dest : Nat
  deriving DecidableEq, Repr

/-- The header and section table of an image (Table 4.1). -/
structure Image where
  addr : Nat
  head : List Byte
  sects : List Sect
  deriving DecidableEq, Repr

def Image.mask (m : Image) : BitVec 128 := BitVec.ofNat 128 (numAt m.head 0x20 16)
def Image.length (m : Image) : Nat := numAt m.head 0x18 8
def Image.digest (m : Image) : List Byte := (m.head.drop 0x40).take 48
/-- The bytes of the header and the section table. -/
def Image.tableEnd (m : Image) : Nat := 0x80 + 32 * m.sects.length
/-- The sections of a type. -/
def Image.ofType (m : Image) (t : Nat) : List Sect := m.sects.filter (·.typ = t)
/-- The one section of a type. -/
def Image.sect? (m : Image) (t : Nat) : Option Sect := (m.ofType t).head?

/-- A target that means every PA of the mask. -/
def everyPa : Nat := 0xFFFFFFFF

/-- A CODE section loads PA `p`. -/
def Sect.loads (e : Sect) (p : Pa) : Bool := e.typ = 1 && (e.target = everyPa || e.target = p.val)

def sectAt (tab : List Byte) (i : Nat) : Sect :=
  let b := (tab.drop (32 * i)).take 32
  { typ := numAt b 0 2, flags := numAt b 2 2, target := numAt b 4 4, off := numAt b 8 8, size := numAt b 16 8,
    dest := numAt b 24 8 }

/-- Wholly in populated HBM. -/
def inHbm (s : State) (a n : Nat) : Bool := region s a = .hbm && populated s a n false

/-- Table 4.1: the fields of a header that code 0x02 covers. A fault_stop byte above 1 is refused with them (DESIGN CHOICE, log
entry 78). -/
def headOk (h : List Byte) : Bool :=
  let n := numAt h 0x0C 4
  let len := numAt h 0x18 8
  h.take 8 = [0x57, 0x4F, 0x4E, 0x49, 0x53, 0x49, 0x4D, 0x47] && numAt h 8 2 = 1 && 1 ≤ n && n ≤ 256
    && 0x80 + 32 * n ≤ len && len % 4096 = 0 && numAt h 0x30 1 < 2 && allZero ((h.drop 0x31).take 15)
    && allZero ((h.drop 0x70).take 16)

/-- R104: a section table entry that code 0x02 does not refuse. -/
def sectOk (mask : BitVec 128) (e : Sect) : Bool :=
  e.flags < 2 && (e.typ = 1 || e.target = 0) && (e.typ = 5 || e.dest = 0)
    && (e.typ ≠ 1 || (e.size % 16 = 0 && e.size ≤ 0x40000 && (e.target = everyPa || (e.target < 128 && mask.getLsbD e.target))))
    && (e.typ ≠ 3 || e.size = 32)

/-- Codes 0x02 (R103, R104): the header and section table. -/
def readImage (s : State) (a : Nat) : Chk Image := do
  need (a % 4096 = 0 && inHbm s a 0x80) 0x02
  let h ← loadBytes s a 0x80
  need (headOk h && inHbm s a (numAt h 0x18 8)) 0x02
  let n := numAt h 0x0C 4
  let tab ← loadBytes s (a + 0x80) (32 * n)
  let m : Image := { addr := a, head := h, sects := (upFrom 0 n).map (sectAt tab) }
  need (m.sects.all (sectOk m.mask)) 0x02
  pure m

/-- No two of a list of byte ranges share a byte. -/
def disjoint : List (Nat × Nat) → Bool
  | [] => true
  | r :: l => l.all (fun q => !overlap r.1 r.2 q.1 q.2) && disjoint l

/-- Code 0x07: the sections lie apart within the image, and every DATA destination is populated. -/
def placesOk (s : State) (m : Image) : Bool :=
  m.sects.all (fun e => e.off % 4096 = 0 && e.off + e.size ≤ m.length
      && (e.typ ≠ 5 || (e.dest % 4096 = 0 && populated s e.dest (max 1 e.size) true)))
    && disjoint ((0, m.tableEnd) :: m.sects.map fun e => (e.off, e.size))

/-- Code 0x08: the counts of Table 4.3. -/
def countsOk (m : Image) : Bool :=
  [2, 3, 4].all (fun t => (m.ofType t).length = 1) && [6, 7, 8].all (fun t => (m.ofType t).length ≤ 1)
    && (m.ofType 1).all (fun e => ((m.ofType 1).filter (·.target = e.target)).length = 1)
    && (List.finRange 128).all fun p => !m.mask.getLsbD p.val || m.sects.any (·.loads p)

/-- Step 1 of Table 4.5. -/
def checkStructure (s : State) (a : Nat) : Chk Image := do
  let m ← readImage s a
  -- R141: the part runs images built for 1.0 to 1.2
  need (numAt m.head 0x0A 1 = 1 && numAt m.head 0x0B 1 ≤ 2) 0x04
  need (BitVec.ofNat 64 (numAt m.head 0x10 8) &&& ~~~ wisCapWord 1 = 0) 0x05
  need ((List.finRange 128).all fun p => !m.mask.getLsbD p.val || (s.pa p).online) 0x06
  need (placesOk s m) 0x07
  need (countsOk m) 0x08
  need (m.sects.all fun e => (1 ≤ e.typ && e.typ ≤ 8) || e.flags = 1) 0x09
  pure m

/-- The bytes of every section but DATA, in table order. -/
def hashedBytes (s : State) (addr : Nat) : List Sect → Chk (List Byte)
  | [] => .ok []
  | e :: r => do
    let b ← if e.typ = 5 then .ok [] else loadBytes s (addr + e.off) e.size
    let l ← hashedBytes s addr r
    pure (b ++ l)

/-- Step 2: the digest over the header with its digest zeroed and over the sections that are not DATA. -/
def checkDigest (s : State) (m : Image) : Chk Unit := do
  let body ← hashedBytes s m.addr m.sects
  need (sha3_384 (m.head.take 0x40 ++ List.replicate 48 0 ++ m.head.drop 0x70 ++ body) = m.digest) 0x03

/-! ## Step 3: the modulus table (R46) -/

/-- `b` squared `k` times modulo `q`. -/
def squares (q : Nat) : Nat → Nat → Nat
  | 0, b => b % q
  | k + 1, b => squares q k (b * b % q)

/-- Checks 0x3 to 0x7 of one entry against those before it: 0, or the code of the first that fails. -/
def entryCheck (before : List (Nat × Nat × Nat)) (e : Nat × Nat × Nat) : Nat :=
  if e.2.2 < 12 ∨ 17 < e.2.2 then 3
  else if e.1 ≤ 2 ^ 24 ∨ 2 ^ 62 ≤ e.1 ∨ e.1 % 2 = 0 then 4
  else if e.1 % 2 ^ (e.2.2 + 1) ≠ 1 then 5
  else if e.1 ≤ e.2.1 ∨ squares e.1 e.2.2 e.2.1 ≠ e.1 - 1 then 6
  else if before.any (·.1 = e.1) then 7
  else 0

/-- The entries in ascending index; the failing entry and its code, if one fails. -/
def entriesCheck (before : List (Nat × Nat × Nat)) : List (Nat × Nat × Nat) → Option (Nat × Nat)
  | [] => none
  | e :: r =>
    match entryCheck before e with
    | 0 => entriesCheck (before ++ [e]) r
    | c => some (before.length, c)

/-- Bits of the PA_MODCFG image that a MODT section may set. -/
def modcfgBits : Word := mask 0 7 ||| mask 8 7 ||| mask 16 8 ||| mask 24 4

/-- The entries of a MODT section. -/
def modtEntries (b : List Byte) (n : Nat) : List (Nat × Nat × Nat) :=
  (upFrom 0 n).map fun i => (numAt b (8 + 24 * i) 8, numAt b (16 + 24 * i) 8, numAt b (24 + 24 * i) 8)

/-- Checks 0x1 and 0x2 of a PA_MODCFG image whose section has `len` bytes. -/
def modcfgCheck (w : Word) (len : Nat) : Nat :=
  let c := (field w 0 7).toNat
  let k := (field w 8 7).toNat
  let base := (field w 16 7).toNat
  if c = 0 ∨ 64 < c + k ∨ len ≠ 8 + 24 * (c + k) ∨ w &&& ~~~ modcfgBits ≠ 0 then 1
  else if base = 0 ∨ c < base ∨ (c - base) % (if bit w 23 then 2 else 1) ≠ 0 ∨ (field w 24 4).toNat = 0 then 2
  else 0

/-- Table 2.4 on a MODT section: the first failing check, as entry and code. -/
def modtCheck (b : List Byte) : Option (Nat × Nat) :=
  let w := BitVec.ofNat 64 (numAt b 0 8)
  match modcfgCheck w b.length with
  | 0 => entriesCheck [] (modtEntries b ((field w 0 7).toNat + (field w 8 7).toNat))
  | c => some (0, c)

/-- The table of a MODT section in all PAs, or what PA_MODCFG shows of its failure. -/
def setModt (s : State) (b : List Byte) : State :=
  let w := BitVec.ofNat 64 (numAt b 0 8)
  match modtCheck b with
  | some f => { s with rp := { s.rp with modcfg := BitVec.ofNat 64 (f.1 * 2 ^ 40 + f.2 * 2 ^ 48), modTab := [] } }
  | none =>
    { s with rp := { s.rp with modcfg := w ||| mask 32 1, modTab := modtEntries b ((field w 0 7).toNat + (field w 8 7).toNat) } }

/-- R71: the four words of NCFG, in one PA. -/
def setNcfgPa (b : List Byte) (s : State) (p : Pa) : State :=
  let put := fun (s : State) (r : PaReg) (i : Nat) =>
    s.setReg (.pa p r) (BitVec.ofNat 64 (numAt b (8 * i) 8) &&& (Reg.spec (.pa p r)).rw)
  put (put (put (put s .ncfg 0) (.nconst 0) 1) (.nconst 1) 2) (.nconst 2) 3

/-! ## Steps 4 and 5: code and data -/

/-- The instruction words of a CODE section. -/
def codeWords (b : List Byte) : List IWord := (upFrom 0 (b.length / 16)).map fun i => BitVec.ofNat 128 (numAt b (16 * i) 16)

def putWords (m : SMap IWord) : Nat → List IWord → SMap IWord
  | _, [] => m
  | i, w :: r => putWords (sput (fun _ => 0) m i w) (i + 1) r

/-- One CODE section into the IMEM of every PA that it loads. -/
def copyCode (m : Image) (s : State) (e : Sect) : State :=
  let ws := codeWords (s.bytes (m.addr + e.off) e.size)
  (List.finRange 128).foldl (fun s p =>
    if m.mask.getLsbD p.val && e.loads p then s.modPa p fun x => { x with imem := putWords x.imem 0 ws } else s) s

/-- The rest of IMEM is zeroed. -/
def clearImem (m : Image) (s : State) : State :=
  (List.finRange 128).foldl (fun s p => if m.mask.getLsbD p.val then s.modPa p fun x => { x with imem := [] } else s) s

/-- DATA sections in table order, as far as they go. -/
def copyData (m : Image) : List Sect → State → State × Option LoadStop
  | [], s => (s, none)
  | e :: r, s =>
    match loadBytes s (m.addr + e.off) e.size with
    | .error f => (s, some f)
    | .ok b => copyData m r (placeData s e.dest b)

/-! ## Step 6: threads, keys, channels and barriers -/

/-- One entry of the thread table (R110). -/
structure ThreadEntry where
  pa : Nat
  thread : Nat
  flags : Nat
  rsvd : Nat
  pc : Nat
  handler : Nat
  s1 : Word
  s2 : Word
  a1 : Word
  deriving DecidableEq, Repr

def threadEntry (b : List Byte) (i : Nat) : ThreadEntry :=
  let e := (b.drop (8 + 32 * i)).take 32
  { pa := numAt e 0 1, thread := numAt e 1 1, flags := numAt e 2 1, rsvd := numAt e 3 1, pc := numAt e 4 2,
    handler := numAt e 6 2, s1 := BitVec.ofNat 64 (numAt e 8 8), s2 := BitVec.ofNat 64 (numAt e 16 8),
    a1 := BitVec.ofNat 64 (numAt e 24 8) }

/-- R110: an entry against those before it. -/
def entryOk (mask : BitVec 128) (before : List ThreadEntry) (e : ThreadEntry) : Bool :=
  e.pa < 128 && mask.getLsbD e.pa && e.thread < 8 && e.flags < 4 && e.rsvd = 0 && e.pc < 16384 && e.handler < 16384
    && !before.any fun f => f.pa = e.pa && f.thread = e.thread

def tableOk (mask : BitVec 128) (before : List ThreadEntry) : List ThreadEntry → Bool
  | [] => true
  | e :: r => entryOk mask before e && tableOk mask (e :: before) r

/-- The thread table of a THRD section, if it is valid. -/
def threadTable (mask : BitVec 128) (b : List Byte) : Chk (List ThreadEntry) :=
  let n := numAt b 0 8
  if b.length < 8 ∨ b.length ≠ 8 + 32 * n then .error { code := 0x0B }
  else
    let l := (upFrom 0 n).map (threadEntry b)
    if tableOk mask [] l then .ok l else .error { code := 0x0B }

/-- What a KDIR section gives: keys and groups. -/
structure KeyDir where
  keys : List KeyHdr := []
  groups : List ChordGroup := []
  deriving DecidableEq, Repr

/-- One directory entry and its header (R180, R181). -/
def readKey (s : State) (b : List Byte) (e : Nat) : Chk KeyHdr := do
  let base := numAt b (0xC0 + 16 * e) 8
  need (numAt b (0xC8 + 16 * e) 8 = 0 && base % 4096 = 0 && inHbm s base 4096) 0x0C
  let h ← loadBytes s base 4096
  let k := parseKey h base
  need (keyHeaderOk h && keyFits s k && inHbm s base (keyBytes k)) 0x0C
  pure k

def readKeys (s : State) (b : List Byte) : List Nat → Chk (List KeyHdr)
  | [] => .ok []
  | e :: r => do
    let k ← readKey s b e
    let l ← readKeys s b r
    pure (k :: l)

/-- PAs of a mask. -/
def maskCount (m : BitVec 128) : Nat := ((List.finRange 128).filter fun p => m.getLsbD p.val).length

def groupAt (keys : List KeyHdr) (b : List Byte) (g : Nat) : ChordGroup :=
  let m := BitVec.ofNat 128 (numAt b (0x40 + 32 * g) 16)
  { mask := m, scratch := numAt b (0x50 + 32 * g) 4, size := scratchSize keys (maskCount m) }

/-- R180: a group's members, scratch and reserved bytes, against the groups before it. -/
def groupOk (mask used : BitVec 128) (b : List Byte) (i : Nat) (g : ChordGroup) : Bool :=
  g.mask &&& ~~~ mask = 0 && g.mask &&& used = 0 && g.scratch % 4096 = 0 && g.scratch + g.size ≤ spmSize
    && allZero ((b.drop (0x54 + 32 * i)).take 12)

def groupsOk (mask : BitVec 128) (b : List Byte) (used : BitVec 128) (i : Nat) : List ChordGroup → Bool
  | [] => true
  | g :: r => groupOk mask used b i g && groupsOk mask b (used ||| g.mask) (i + 1) r

/-- R180: the KDIR section. -/
def readKdir (s : State) (mask : BitVec 128) (b : List Byte) : Chk KeyDir := do
  let n := numAt b 0 4
  let ng := numAt b 4 1
  need (0xC0 ≤ b.length && n ≤ 4096 && ng ≤ 4 && allZero ((b.drop 5).take 59) && b.length = 0xC0 + 16 * n) 0x0C
  let keys ← readKeys s b (upFrom 0 n)
  let groups := (upFrom 0 ng).map (groupAt keys b)
  need (groupsOk mask b 0 0 groups && allZero ((b.drop (0x40 + 32 * ng)).take (32 * (4 - ng)))) 0x0C
  pure { keys := keys, groups := groups }

/-- PAs of a mask, ascending. -/
def maskPas (m : BitVec 128) : List Pa := (List.finRange 128).filter fun p => m.getLsbD p.val

def newRecv (p : Pa) : ChRecv := { pa := p }

/-- A channel entry (Table 10.4). -/
def chanAt (b : List Byte) (i : Nat) : Chan :=
  let e := (b.drop (0x40 + 32 * i)).take 32
  let mc := numAt e 0 1 = 1
  let rm := BitVec.ofNat 128 (numAt e 16 16)
  { multicast := mc, yx := (numAt e 1 1).testBit 0, drop := (numAt e 1 1).testBit 1, spa := Fin.ofNat 128 (numAt e 2 1),
    sthr := Fin.ofNat 8 (numAt e 3 1), rthr := Fin.ofNat 8 (numAt e 5 1), rlog := numAt e 6 1, roff := numAt e 8 4,
    maxp := numAt e 12 4, rmask := rm,
    recvs := (if mc then maskPas rm else [Fin.ofNat 128 (numAt e 4 1)]).map newRecv }

def paIn (mask : BitVec 128) (p : Nat) : Bool := p < 128 && mask.getLsbD p

/-- R285 and Table 10.4. -/
def chanOk (mask : BitVec 128) (b : List Byte) (i : Nat) : Bool :=
  let e := (b.drop (0x40 + 32 * i)).take 32
  let kind := numAt e 0 1
  let rlog := numAt e 6 1
  let rm := BitVec.ofNat 128 (numAt e 16 16)
  let maxp := numAt e 12 4
  kind < 2 && numAt e 1 1 < (if kind = 1 then 4 else 2) && paIn mask (numAt e 2 1) && numAt e 3 1 < 8 && numAt e 5 1 < 8
    && 12 ≤ rlog && rlog ≤ 20 && numAt e 7 1 = 0 && numAt e 8 4 % 4096 = 0 && numAt e 8 4 + 2 ^ rlog ≤ spmSize
    && maxp % 8 = 0 && 8 ≤ maxp && maxp ≤ 2 ^ (rlog - 1) - 8
    && (if kind = 1 then numAt e 4 1 = 0 && rm ≠ 0 && !rm.getLsbD (numAt e 2 1) && rm &&& ~~~ mask = 0
        else paIn mask (numAt e 4 1) && rm = 0)

/-- A combining-queue entry (Table 10.8), at byte `o` of the section. -/
def cqAt (b : List Byte) (o : Nat) : Cq :=
  let e := (b.drop o).take 32
  { op := numAt e 0 1, mi := numAt e 1 1, words := numAt e 2 1 + 1, hpa := Fin.ofNat 128 (numAt e 3 1),
    hthr := Fin.ofNat 8 (numAt e 4 1), roff := numAt e 8 4, cnt := numAt e 12 2 }

/-- R285 and Table 10.8. -/
def cqOk (mask : BitVec 128) (b : List Byte) (o : Nat) : Bool :=
  let e := (b.drop o).take 32
  let cnt := numAt e 12 2
  numAt e 0 1 < 3 && (if numAt e 0 1 = 1 then numAt e 1 1 < 64 else numAt e 1 1 = 0) && numAt e 2 1 < 64
    && paIn mask (numAt e 3 1) && numAt e 4 1 < 8 && allZero ((e.drop 5).take 3) && numAt e 8 4 % 1024 = 0
    && numAt e 8 4 + 1024 ≤ spmSize && 1 ≤ cnt && cnt ≤ 1024 && allZero (e.drop 14)

/-- The channels and queues of a program. -/
structure ChanTab where
  chans : List Chan := []
  cqs : List Cq := []
  deriving DecidableEq, Repr

/-- The byte ranges of PA `p` that rings, result areas and Chord scratch take. -/
def takenRanges (t : ChanTab) (groups : List ChordGroup) (p : Pa) : List (Nat × Nat) :=
  ((t.chans.filter fun c => c.recvs.any (·.pa = p)).map fun c => (c.roff, 2 ^ c.rlog))
    ++ ((t.cqs.filter (·.hpa = p)).map fun c => (c.roff, 1024))
    ++ ((groups.filter fun g => g.mask.getLsbD p.val).map fun g => (g.scratch, g.size))

/-- R284, R285: the CHAN section. -/
def readChan (mask : BitVec 128) (groups : List ChordGroup) (b : List Byte) : Chk ChanTab := do
  let n := numAt b 0 2
  let q := numAt b 2 1
  need (64 ≤ b.length && n ≤ 1024 && q ≤ 64 && allZero ((b.drop 3).take 61) && b.length = 64 + 32 * (n + q)) 0x0C
  let qs := (upFrom n q).map fun i => 0x40 + 32 * i
  need ((upFrom 0 n).all (chanOk mask b) && qs.all (cqOk mask b)) 0x0C
  let t : ChanTab := { chans := (upFrom 0 n).map (chanAt b), cqs := qs.map (cqAt b) }
  need ((List.finRange 128).all fun p => disjoint (takenRanges t groups p)) 0x0C
  pure t

/-- R104: the counts of a BARR section. -/
def readBarr (b : List Byte) : Chk (Vector Nat 32) :=
  let v : Vector Nat 32 := Vector.ofFn fun i => numAt b (2 * i.val) 2
  if b.length = 64 ∧ v.all (· ≤ 1024) then .ok v else .error { code := 0x0C }

/-- What step 6 applies. -/
structure Tables where
  threads : List ThreadEntry
  kdir : KeyDir
  chan : ChanTab
  barr : Vector Nat 32
  deriving DecidableEq, Repr

/-- The bytes of the section of a type, empty when the image has none. -/
def sectBytes (s : State) (m : Image) (t : Nat) : Chk (Option (List Byte)) :=
  match m.sect? t with
  | some e => (loadBytes s (m.addr + e.off) e.size).map some
  | none => .ok none

/-- The checks of step 6, in the order of Table 4.4. -/
def readTables (s : State) (m : Image) : Chk Tables := do
  let th ← sectBytes s m 4
  let threads ← threadTable m.mask (th.getD [])
  let kd ← sectBytes s m 6
  let kdir ← match kd with
    | some b => readKdir s m.mask b
    | none => .ok {}
  let ch ← sectBytes s m 7
  let chan ← match ch with
    | some b => readChan m.mask kdir.groups b
    | none => .ok {}
  let ba ← sectBytes s m 8
  let barr ← match ba with
    | some b => readBarr b
    | none => .ok (Vector.replicate 32 0)
  pure { threads := threads, kdir := kdir, chan := chan, barr := barr }

/-- Table 4.6: a thread as its entry loads it. -/
def loadedThread (e : ThreadEntry) : Thread where
  pc := e.pc
  s := ((Vector.replicate 32 0).set 1 e.s1).set 2 e.s2
  a := (Vector.replicate 16 0).set 1 e.a1
  handlerPc := BitVec.ofNat 14 e.handler
  handlerOn := e.flags.testBit 1

/-- The thread table applied: a thread without an entry stays idle at pc 0. The exception registers of every thread are cleared
(DESIGN CHOICE, log entry 79). -/
def setThreads (l : List ThreadEntry) (s : State) : State :=
  let s1 := (List.finRange 128).foldl (fun s p =>
    s.modPa p fun x => { x with threads := Vector.replicate 8 {}, barriers := [], cur := 0, runLen := 0, seeking := false }) s
  l.foldl (fun s e => s.modThr (Fin.ofNat 128 e.pa) (Fin.ofNat 8 e.thread) fun _ => loadedThread e) s1

/-- A packet that belongs to no program. -/
def Flow.lasting : Flow → Bool
  | .message _ _ => false
  | .credit _ _ _ => false
  | .part _ _ => false
  | .arrival _ _ _ => false
  | .release _ _ _ => false
  | _ => true

/-- Step 6 applied. Every reduction round returns to 0 (R363). -/
def applyTables (s : State) (t : Tables) : State :=
  let s1 := setThreads t.threads s
  { s1 with
    rp := { s1.rp with
      keys := t.kdir.keys
      groups := Vector.ofFn fun g => t.kdir.groups.getD g.val {}
      chords := Vector.replicate 4 []
      chordSeq := Vector.replicate 4 0
      runs := []
      fetches := []
      barrCount := t.barr
      barrArrived := Vector.replicate 32 []
      exports := [] }
    net := { s1.net with chans := t.chan.chans, cqs := t.chan.cqs, pkts := s1.net.pkts.filter (·.flow.lasting) }
    brg := { s1.brg with reds := s1.brg.reds.map fun r => { r with round := 0 } } }

/-- The start-at-load threads start (step 7). -/
def startThreads (l : List ThreadEntry) (s : State) : State :=
  l.foldl (fun s e => if e.flags.testBit 0 then
    s.modThr (Fin.ofNat 128 e.pa) (Fin.ofNat 8 e.thread) fun y => { y with st := .run } else s) s

/-- How a load ends: the state it leaves, and the image and tables of a program that is to be resident. -/
structure LoadEnd where
  s : State
  res : Except LoadStop (Image × Tables)

/-- Steps 3 to 6, for an image that has passed steps 1 and 2. -/
def loadSteps (s : State) (m : Image) : LoadEnd :=
  let modt := match m.sect? 2 with | some e => s.bytes (m.addr + e.off) e.size | none => []
  let ncfg := match m.sect? 3 with | some e => s.bytes (m.addr + e.off) e.size | none => []
  let s1 := (List.finRange 128).foldl (setNcfgPa ncfg) (setModt s modt)
  if (modtCheck modt).isSome then { s := s1, res := .error { code := 0x0A } }
  else
    let s2 := (m.ofType 1).foldl (copyCode m) (clearImem m s1)
    match copyData m (m.ofType 5) s2 with
    | (s3, some f) => { s := s3, res := .error f }
    | (s3, none) =>
      match readTables s3 m with
      | .error f => { s := s3, res := .error f }
      | .ok t => { s := applyTables s3 t, res := .ok (m, t) }

/-- Steps 1 to 6 of the load of an image. -/
def runLoad (s : State) (a : Nat) : LoadEnd :=
  match checkStructure s a with
  | .error f => { s := s, res := .error f }
  | .ok m =>
    match checkDigest s m with
    | .error f => { s := s, res := .error f }
    | .ok _ => loadSteps s m

/-! ## Cancel and unload (R107, R138, R322) -/

/-- The program leaves: its keys, groups, channels and barriers go with it (R181, R306), and the range of an expander whose link
is down (R277). -/
def unloadProgram (s : State) : State :=
  unmapDown { s with
    rp := { s.rp with
      prog := none
      keys := []
      groups := Vector.replicate 4 {}
      chords := Vector.replicate 4 []
      runs := []
      fetches := []
      barrCount := Vector.replicate 32 0
      barrArrived := Vector.replicate 32 []
      exports := [] }
    net := { s.net with chans := [], cqs := [], pkts := s.net.pkts.filter (·.flow.lasting) } }

/-- A cancel or unload of the resident program begins: its response follows when every thread has stopped. -/
def requestCancel (s : State) (w : CancelWait) : State :=
  match s.rp.prog with
  | none => respond s w.sid w.reqId .noProgram 0 []
  | some q =>
    let s1 := if q.status = .running then cancelProgram s (if w.unload then 1 else 0) else s
    match s1.rp.prog with
    | some q1 => { s1 with rp := { s1.rp with prog := some { q1 with waits := q1.waits ++ [w] } } }
    | none => s1

/-- A cancel or unload that arrives during a load waits for its end (R321). -/
def cancelOrWait (s : State) (w : CancelWait) : State :=
  match s.rp.load with
  | some l => { s with rp := { s.rp with load := some { l with waits := l.waits ++ [w] } } }
  | none => requestCancel s w

/-- Every thread has left run and handler state: the cancels and unloads are answered. -/
def cancelDone (s : State) : State :=
  match s.rp.prog with
  | none => s
  | some q =>
    if q.waits ≠ [] ∧ quietProgram s q then
      let s1 := { s with rp := { s.rp with prog := some { q with waits := [] } } }
      let s2 := if q.waits.any (·.unload) then unloadProgram s1 else s1
      q.waits.foldl (fun s w => respond s w.sid w.reqId .ok 0 []) s2
    else s

/-- R323: the program timeout, while the program has one and has not completed. -/
def timeoutProgram (s : State) : State :=
  match s.rp.prog with
  | some q => if q.status = .running ∧ q.timeoutS ≠ 0 then cancelProgram s 3 else s
  | none => s

/-! ## The load's two ends (R321) -/

/-- A load is accepted, or refused at once because a program is resident or loading. -/
def startLoad (s : State) (sid reqId : BitVec 32) (addr timeoutS : Nat) : State :=
  if s.rp.prog.isSome || s.rp.load.isSome then (respond s sid reqId .load 1 []).logRec 13 0 2 1 0
  else
    let l : Load := { sid := sid, reqId := reqId, addr := addr, timeoutS := timeoutS }
    { s with rp := { s.rp with load := some l } }

/-- No instruction or Bow unit of an earlier program is in flight. -/
def paQuiet (x : PaState) : Bool := x.ops.isEmpty && x.bow.tags.isEmpty && x.bow.queue.isEmpty

def loadedProgram (s : State) (m : Image) (timeoutS : Nat) : Program where
  mask := m.mask
  faultStop := numAt m.head 0x30 1 = 1
  version := BitVec.ofNat 16 (numAt m.head 0x0A 1 * 256 + numAt m.head 0x0B 1)
  digest := m.digest
  timeoutS := timeoutS
  ncfg := [PaReg.ncfg, .nconst 0, .nconst 1, .nconst 2].map fun r => s.reg (.pa 0 r)

/-- Step 7, or the refusal. -/
def endLoad (s : State) (l : Load) : State :=
  let e := runLoad s l.addr
  let s0 := { e.s with rp := { e.s.rp with load := none } }
  let s1 := match e.res with
    | .error f =>
      let s2 := match f.bad with
        | some a => noteBad s0 a
        | none => s0
      (respond s2 l.sid l.reqId .load f.code []).logRec 13 0 2 f.code 0
    | .ok (m, t) =>
      let s2 := unmapDown { s0 with rp := { s0.rp with prog := some (loadedProgram s0 m l.timeoutS) } }
      let s3 := respond (s2.logRec 13 0 1 0 0) l.sid l.reqId .ok 0 []
      checkComplete (startThreads t.threads s3)
  l.waits.foldl requestCancel s1

/-- PROG_LOAD_COMPLETE. -/
def completeLoad (s : State) : State :=
  match s.rp.load with
  | some l => if s.pas.all paQuiet then endLoad s l else s
  | none => s

end Sys2Proof.Machine
end

