-- ==== Sys2Proof/Machine/Peg.lean ====
section
/-! DEFINITION. The Peg semaphore cells (R327 to R331, R334). -/

namespace Sys2Proof.Machine

/-- The owner code of a requester. -/
def pegCode : PegOwner → Nat
  | .port e => portOwner e
  | .soundpost => 3

def setPeg (s : State) (i : Fin 64) (w : Word) : State :=
  { s with host := { s.host with peg := s.host.peg.set i.val w } }

/-- A cell word from its fields (Table 11.11). -/
def pegWord (owner : Nat) (abandoned : Bool) (gen : Nat) : Word :=
  BitVec.ofNat 64 (owner + (if abandoned then 4 else 0) + gen % 2 ^ 32 * 2 ^ 16)

def pegGen (w : Word) : Nat := (field w 16 32).toNat

/-- R327: an acquire, and the word it returns. -/
def pegAcquire (s : State) (who : PegOwner) (i : Fin 64) : State × Word :=
  let w := s.host.peg[i.val]
  if pegOwner w = 0 then (setPeg s i (pegWord (pegCode who) false (pegGen w + 1)), w) else (s, w)

/-- R328: a release, and whether the requester owned the cell. -/
def pegRelease (s : State) (who : PegOwner) (i : Fin 64) : State × Bool :=
  let w := s.host.peg[i.val]
  if pegOwner w = pegCode who then (setPeg s i (pegWord 0 (bit w 2) (pegGen w)), true) else (s, false)

/-- What PEG_BREAK does: nothing, a broken cell, or a refusal (R331). -/
inductive Broken where
  | nothing (s : State)
  | broken (s : State)
  | denied

/-- R331: a port's control session breaks a cell. -/
def pegBreak (s : State) (e : EPort) (i : Fin 64) : Broken :=
  let o := pegOwner s.host.peg[i.val]
  if o = 3 then .denied
  else if o = 0 ∨ o = portOwner e then .nothing s
  else
    let s1 := setPeg s i (pegAbandon s.host.peg[i.val])
    .broken (sendControl (s1.raiseBits (.peg .evt) (mask i.val 1)) 3 (byte1 i.val ++ byte1 1 ++ byte1 o))

/-- An access of a port, its answer aside. -/
def pegAct (s : State) (e : EPort) : PegAct → State
  | .acquire i => (pegAcquire s (.port e) i).1
  | .release i => (pegRelease s (.port e) i).1
  | .break_ i => match pegBreak s e i with
    | .nothing s1 => s1
    | .broken s1 => s1
    | .denied => s

/-! ## Ties (R329) -/

/-- The port that tie_next names. -/
def tieFirst (s : State) : EPort := if s.host.tieNext then 1 else 0

/-- An access that ties may be served: its port is the one that tie_next names, or the other one's has been served. -/
def tieTurn (s : State) (e : EPort) : Bool := s.host.tieHalf || tieFirst s = e

/-- One access of a tie has been served; with the second, tie_next flips. -/
def tieServed (s : State) : State :=
  if s.host.tieHalf then { s with host := { s.host with tieHalf := false, tieNext := !s.host.tieNext } }
  else { s with host := { s.host with tieHalf := true } }

/-- The access that came first and waits for its turn. -/
def serveHeld (s : State) : State :=
  match s.host.tieHeld with
  | some (e, a) =>
    if tieTurn s e then tieServed (pegAct { s with host := { s.host with tieHeld := none } } e a) else s
  | none => s

/-- R329: an access of a port. One that ties waits until the port that tie_next names has been served. -/
def pegPort (s : State) (e : EPort) (a : PegAct) (tie : Bool) : State :=
  if !tie then pegAct s e a
  else if tieTurn s e then serveHeld (tieServed (pegAct s e a))
  else { s with host := { s.host with tieHeld := some (e, a) } }

/-- PEG_ACQUIRE. An access of Soundpost ties with none. -/
def execPegAcquire (who : PegOwner) (i : Fin 64) (tie : Bool) (s : State) : Host.Outcome State Fault Refusal :=
  .next (match who with
    | .port e => pegPort s e (.acquire i) tie
    | .soundpost => (pegAcquire s .soundpost i).1)

/-- PEG_RELEASE. -/
def execPegRelease (who : PegOwner) (i : Fin 64) (tie : Bool) (s : State) : Host.Outcome State Fault Refusal :=
  .next (match who with
    | .port e => pegPort s e (.release i) tie
    | .soundpost => (pegRelease s .soundpost i).1)

/-- PEG_BREAK. -/
def execPegBreak (port : EPort) (i : Fin 64) (tie : Bool) (s : State) : Host.Outcome State Fault Refusal :=
  .next (pegPort s port (.break_ i) tie)

end Sys2Proof.Machine
end

