-- ==== Sys2Proof/Machine/Soundpost.lean ====
section
/-! DEFINITION. Soundpost: measurements (R377, R378), image verification (R379 to R382), the mailboxes (R382, R394,
R401, R402), sensors (R366, R367), the trip halt (R429), the log (R369, R370, R416), heartbeat and takeover (R365). -/

namespace Sys2Proof.Machine

/-- The active Soundpost runs: its PLL and that of its hub die, which every crossing to it passes (R32, Table 1.4), are locked,
and it is out of reset. -/
def soundpostUp (s : State) : Bool :=
  s.clk.powered && !s.clk.inReset
    && (if s.spt.hd2 then s.clk.live.getLsbD 25 && s.clk.live.getLsbD 10 else s.clk.live.getLsbD 24 && s.clk.live.getLsbD 8)

/-! ## Measurements -/

/-- Lexicographic order of byte strings. -/
def bytesBelow : List Byte → List Byte → Bool
  | [], [] => false
  | [], _ :: _ => true
  | _ :: _, [] => false
  | a :: l, b :: r => a.toNat < b.toNat || (a = b && bytesBelow l r)

/-- Insert a digest among distinct digests in ascending order. -/
def insertDigest (d : List Byte) : List (List Byte) → List (List Byte)
  | [] => [d]
  | x :: r => if bytesBelow d x then d :: x :: r else if d = x then x :: r else x :: insertDigest d r

/-- The distinct image digests that run on online PAs, in ascending byte order. -/
def onlineDigests (s : State) (f : PaState → List Byte) : List (List Byte) :=
  (s.pas.toList.filter (·.online)).foldl (fun l x => insertDigest (f x) l) []

/-- Table 13.5: the words of the security settings, in order. -/
def securityWords (s : State) : List Word :=
  ((List.finRange 8).flatMap fun i => (List.finRange 6).map fun w => s.rwp (.hif (.hostKey i w)))
    ++ ((List.finRange 8).map fun i => s.rwp (.hif (.hostRole i)))
    ++ [s.rwp (.spt .svn), s.rwp (.spt .keyrev), s.rwp (.spt .boot)]

/-- Write a measurement register. -/
def setMeas (s : State) (m : Fin 5) (v : List Byte) (images : Nat) : State :=
  { s with spt := { s.spt with
      meas := s.spt.meas.set m.val v
      gen := s.spt.gen.set m.val (s.spt.gen[m.val] + 1)
      images := s.spt.images.set m.val (BitVec.ofNat 4 (min 15 images)) } }

/-- Write M2 or M3 from the microcode that runs. -/
def measureCode (s : State) (m : Fin 5) (f : PaState → List Byte) : State :=
  let l := onlineDigests s f
  setMeas s m (sha3_384 l.flatten) l.length

/-- Write M2, M3 and M4 (boot steps 6 and 7). -/
def measureMicrocode (s : State) : State := measureCode (measureCode s 2 (·.digPa)) 3 (·.digBow)

def measureSettings (s : State) : State := setMeas s 4 (sha3_384 (wordBytes (securityWords s))) 0

/-- R378: the microcode that runs on online PAs has changed since state `old`. -/
def remeasure (old s : State) : State :=
  let s1 := if onlineDigests old (·.digPa) = onlineDigests s (·.digPa) then s else measureCode s 2 (·.digPa)
  if onlineDigests old (·.digBow) = onlineDigests s1 (·.digBow) then s1 else measureCode s1 3 (·.digBow)

/-! ## Images (R379, R381) -/

/-- Table 13.3: the largest body of a kind, and the offset of a kind in a slot. -/
def largestBody : Nat → Nat
  | 1 => 0x40000 | 2 => 0x400000 | 3 => 0x100000 | 4 => 0x40000 | _ => 0

def slotOffset : Nat → Nat
  | 1 => 0 | 2 => 0x100000 | 3 => 0x600000 | _ => 0x800000

/-- The fields of a header block that verification and registers use (Table 13.6). -/
def imageFact (h : List Byte) (status : Nat) : ImageFact where
  status := BitVec.ofNat 8 status
  digest := sha3_384 (h.take 256)
  root := Fin.ofNat 2 (numAt h 9 1)
  verMajor := BitVec.ofNat 8 (numAt h 12 1)
  verMinor := BitVec.ofNat 8 (numAt h 13 1)
  verPatch := BitVec.ofNat 16 (numAt h 14 2)
  svn := BitVec.ofNat 16 (numAt h 16 2)

def bodyLen (h : List Byte) : Nat := numAt h 0x18 8

/-- The magic "GLWIMG01" and every rsvd and pad byte. -/
def imageForm (h : List Byte) : Bool :=
  h.take 8 = [0x47, 0x4C, 0x57, 0x49, 0x4D, 0x47, 0x30, 0x31] && numAt h 10 2 = 0 && numAt h 18 6 = 0
    && allZero ((h.drop 0x50).take 176) && allZero ((h.drop 0xE2D).take 467)

/-- The SPT_SVN minimum of a kind. -/
def svnMin (s : State) (kind : Nat) : Nat := s.rwpField (.spt .svn) (16 * (kind - 1)) 16

def rootRevoked (s : State) (root : Nat) : Bool := 2 ≤ root || bit (s.rwp (.spt .keyrev)) root

/-- Table 13.7, in its order, of a header block, a body and the length supplied; `expect` is the kind the caller
expects; `headBad` and `bodyBad` tell of uncorrectable reads. -/
def verifyStatus (s : State) (h body : List Byte) (len : Nat) (expect : Option Nat) (g : SigFacts)
    (headBad bodyBad : Bool) : Nat :=
  let kind := numAt h 8 1
  let known := 1 ≤ kind && kind ≤ 4
  if headBad then 9
  else if !imageForm h || (known && largestBody kind < bodyLen h) || len ≠ 4096 + bodyLen h then 2
  else if !known || (match expect with | some k => kind ≠ k | none => false) then 3
  else if rootRevoked s (numAt h 9 1) then 4
  else if !g.edOk then 5
  else if !g.dsaOk then 6
  else if !bodyBad && sha3_384 body ≠ (h.drop 0x20).take 48 then 7
  else if numAt h 16 2 < svnMin s kind then 8
  else if bodyBad then 9
  else if 3 ≤ kind && numAt h 13 1 = 0xFF then 10
  else 0

/-- Verify an image in HBM. -/
def verifyAt (s : State) (a len : Nat) (expect : Option Nat) (g : SigFacts) : Nat :=
  let body := len - 4096
  verifyStatus s (s.bytes a 4096) (s.bytes (a + 4096) body) len expect g (badAt s a 4096).isSome
    (badAt s (a + 4096) body).isSome

/-- Table 13.7 for an image of the running slot, whose bytes boot has checked. -/
def recheck (s : State) (kind : Nat) (f : ImageFact) (g : SigFacts) : Nat :=
  if f.status ≠ 0 then f.status.toNat
  else if rootRevoked s f.root.val then 4
  else if !g.edOk then 5
  else if !g.dsaOk then 6
  else if f.svn.toNat < svnMin s kind then 8
  else if 3 ≤ kind && f.verMinor = 0xFF then 10
  else 0

/-! ## Mailboxes -/

def State.box (s : State) (p : EPort) : Option MailboxCmd := s.spt.mailbox[p.val]

def State.setBox (s : State) (p : EPort) (m : Option MailboxCmd) : State :=
  { s with spt := { s.spt with mailbox := s.spt.mailbox.set p.val m } }

/-- A mailbox command's work is done. -/
def State.boxDone (s : State) (p : EPort) (status : Nat) (res : List Nat) : State :=
  match s.box p with
  | some m => s.setBox p (some { m with result := some (BitVec.ofNat 8 status, res.map (BitVec.ofNat 64)) })
  | none => s

/-- Table 14.3. -/
def serviceCmd (c : Nat) : Bool := (0x10 ≤ c && c ≤ 0x15) || c = 0x18

/-- A service command runs. -/
def serviceRunning (s : State) : Bool :=
  s.spt.mailbox.toList.any fun m => match m with | some m => m.started | none => false

/-- A command begins in a free mailbox (R382, R401, R402). -/
def beginCommand (s : State) (p : EPort) (c : BitVec 8) : State :=
  let args : Vector Word 4 := #v[s.reg (.spt (.mbArg p 0)), s.reg (.spt (.mbArg p 1)), s.reg (.spt (.mbArg p 2)),
    s.reg (.spt (.mbArg p 3))]
  let m : MailboxCmd := { cmd := c, args := args }
  if c = 1 then s.setBox p (some m)
  else if !serviceCmd c.toNat then (s.setBox p (some m)).boxDone p 1 []
  else if serviceRunning s then (s.setBox p (some m)).boxDone p 0x10 []
  else if pegOwner s.host.peg[63] = 1 ∨ pegOwner s.host.peg[63] = 2 then (s.setBox p (some m)).boxDone p 0x11 []
  else
    let s1 := (pegAcquire (s.setBox p (some { m with started := true })) .soundpost 63).1
    s1.logRec 12 0 1 p.val c.toNat

/-- A write of SPT_MB_CMD starts the command; while one runs it is ignored. -/
def writeMailbox (s : State) (p : EPort) (c : BitVec 8) : State :=
  if (s.box p).isSome then s.raiseBits (.spt (.mbStat p)) (mask 2 1)
  else beginCommand (s.setReg (.spt (.mbCmd p)) (c.setWidth 64)) p c

/-- A command has ended: its status and results show, and a service command releases cell 63. -/
def publish (s : State) (p : EPort) (m : MailboxCmd) (status : Nat) (res : List Word) : State :=
  let w := putField (s.reg (.spt (.mbStat p)) ||| mask 1 1) 8 8 status
  let s1 := (s.setBox p none).setReg (.spt (.mbStat p)) w
  let s2 := (List.finRange 4).foldl (fun s i =>
    match res[i.val]? with
    | some v => s.setReg (.spt (.mbRes p i)) v
    | none => s) s1
  let s3 := if m.started then (pegRelease s2 .soundpost 63).1 else s2
  if serviceCmd m.cmd.toNat then s3.logRec 12 0 2 p.val (m.cmd.toNat + status * 256) else s3

/-- The work of the command `c` that port `p`'s mailbox runs and has not done. -/
def boxRuns (s : State) (p : EPort) (c : Nat) : Option MailboxCmd :=
  match s.box p with
  | some m => if m.cmd.toNat = c ∧ m.result = none ∧ (m.started ∨ c = 1) ∧ s.spt.restart.isNone then some m else none
  | none => none

def MailboxCmd.arg (m : MailboxCmd) (i : Fin 4) : Nat := (m.args[i.val]).toNat

/-- R382: the fields that a good image shows. -/
def verifyResult (h : List Byte) : Nat :=
  numAt h 8 1 + numAt h 12 1 * 2 ^ 8 + numAt h 13 1 * 2 ^ 16 + numAt h 14 2 * 2 ^ 24 + numAt h 16 2 * 2 ^ 40

/-- VERIFY. For an address that is not 4 KiB aligned or a range outside HBM the spec states no status (log entry 30). -/
def runVerify (s : State) (p : EPort) (g : SigFacts) : State :=
  match boxRuns s p 1 with
  | none => s
  | some m =>
    let a := m.arg 0
    let len := m.arg 1
    if a % 4096 ≠ 0 ∨ !(region s a = .hbm && populated s a (max 4096 len) false) then
      let (w, s1) := s.draw
      s1.boxDone p (w.toNat % 256) [0]
    else
      let v := verifyAt s a len none g
      s.boxDone p v [if v = 0 then verifyResult (s.bytes a 4096) else 0]

/-! ## Sensors and the trip halt -/

/-- The thresholds of SPT_SENS_CFG. -/
def warnAt (s : State) : Nat := max 70 (min 105 (s.regField (.spt .sensCfg) 0 8))
def tripAt (s : State) : Nat := max (warnAt s + 5) (min 115 (s.regField (.spt .sensCfg) 8 8))

/-- A live bit: set at the threshold, and kept until 3 °C below it. -/
def tempBit (was : Bool) (limit t : Nat) : Bool := limit ≤ t || (was && limit < t + 3)

/-- The sideband controller's event byte. -/
def sbEvent (s : State) (i : Nat) : State := { s with sb := { s.sb with evt := s.sb.evt ||| bitAt 8 i true } }

/-- R429: a trip halt begins, of a die (or of stack `unit - 12`) at a temperature. -/
def beginTrip (s : State) (unit temp : Nat) : State :=
  if s.capo.tripHalt then s
  else sbEvent (({ s with capo := { s.capo with tripHalt := true } }.raiseBits (.capo .evt) 2).logRec 14 3 3 unit temp) 0

/-- One die's sample: the edges set events, are logged, and go to Capo (R367, Table 15.8). -/
def sampleDie (temps : Vector (BitVec 8) 12) (s : State) (i : Fin 12) : State :=
  let t := temps[i.val]
  let was := s.spt.warn[i.val]
  let wasTrip := s.spt.trip[i.val]
  let w := tempBit was (warnAt s) t.toNat
  let r := tempBit wasTrip (tripAt s) t.toNat
  let hot := if (s.spt.max[i.val]).toNat < t.toNat then t else s.spt.max[i.val]
  let s1 := { s with spt := { s.spt with
    cur := s.spt.cur.set i.val t
    max := s.spt.max.set i.val hot
    warn := s.spt.warn.set i.val w
    trip := s.spt.trip.set i.val r } }
  let s2 :=
    if w && !was then
      sbEvent (((s1.raiseBits (.spt .evt) 2).logRec 9 0 1 i.val t.toNat).logRec 14 0 2 i.val t.toNat) 2
    else s1
  if r && !wasTrip then beginTrip ((s2.raiseBits (.spt .evt) 4).logRec 9 3 2 i.val t.toNat) i.val t.toNat else s2

/-- SENSOR_SAMPLE: none is taken during a restart. -/
def sampleSensors (s : State) (temps : Vector (BitVec 8) 12) : State :=
  if soundpostUp s && s.spt.ready && s.spt.restart.isNone then
    settleTrip ((List.finRange 12).foldl (sampleDie temps) s)
  else s

/-- THERM_ALERT: the pin's level; its fall sets the event. -/
def thermAlert (s : State) (low : Bool) : State :=
  let s1 := { s with spt := { s.spt with alertLow := low } }
  if low && !s.spt.alertLow && soundpostUp s then
    sbEvent ((s1.raiseBits (.spt .evt) 8).logRec 9 1 3 0 0) 2
  else s1

def resetMax (s : State) (i : Fin 12) : State :=
  { s with spt := { s.spt with max := s.spt.max.set i.val s.spt.cur[i.val] } }

/-! ## The log -/

/-- The words of a record (Table 13.2). -/
def recordWords (r : LogRec) : Vector Word 4 :=
  #v[fld 0 r.seq.toNat ||| fld 32 r.cls.toNat ||| fld 40 r.severity.toNat ||| fld 48 r.code.toNat, r.time, r.arg0, r.arg1]

/-- R370: a record is latched for a port; a seq that is not held latches zeros. -/
def latchRecord (s : State) (p : EPort) (seq : BitVec 32) : State :=
  let v := match s.spt.log.find? (·.seq = seq) with
    | some r => recordWords r
    | none => Vector.replicate 4 0
  { s with spt := { s.spt with latched := s.spt.latched.set p.val v } }

/-- A write of SPT_LOG_SEL(p). A latch waits while a restart runs (R404). -/
def selectRecord (s : State) (p : EPort) (seq : BitVec 32) : State :=
  if s.spt.restart.isSome then { s with spt := { s.spt with owedLatch := s.spt.owedLatch.set p.val (some seq) } }
  else if !soundpostUp s then s
  else latchRecord (s.setReg (.spt (.logSel p)) (seq.setWidth 64)) p seq

/-- The corrected counter of a source, and the class, code and first argument of its summary (Table 14.9). -/
def summaryOf (s : State) : CounterSrc → Nat × Nat × Nat × Nat
  | .pa p => (s.regField (.pa p .eccCnt) 0 32, 2, 1, p.val)
  | .cache h => (s.regField (.slice h .eccCnt) 0 32, 3, 1, h.val)
  | .hbm n => (s.regField (.hbm n .eccCnt) 0 32, 4, 1, n.val)
  | .hbmRetry n => (s.regField (.hbm n .eccCnt) 32 16, 4, 2, n.val)
  | .fretboard => (s.regField (.frb .eccCnt) 0 32, 6, 1, 0)

/-- LOG_SUMMARY: a source whose counter has changed since its last record. -/
def logSummary (s : State) (src : CounterSrc) : State :=
  let (now, cls, code, arg) := summaryOf s src
  let was := match s.spt.summarised.find? (·.1 = src) with | some e => e.2.toNat | none => 0
  if now = was ∨ !soundpostUp s ∨ s.spt.restart.isSome then s
  else
    let rest := s.spt.summarised.filter (·.1 ≠ src)
    { s with spt := { s.spt with summarised := (src, BitVec.ofNat 64 now) :: rest } }.logRec cls 1 code arg
      (if was ≤ now then now - was else now)

/-! ## Heartbeat and takeover (R365) -/

def beat (s : State) : State :=
  if soundpostUp s && s.spt.restart.isNone then { s with spt := { s.spt with lastBeat := s.micros } } else s

/-- A mailbox command in progress ends at a takeover. -/
def interruptBox (s : State) (p : EPort) : State :=
  match s.box p with
  | some m => publish s p m 0x0B []
  | none => s

/-- The records written in the last millisecond before the failure are lost. -/
def loseRecords (s : State) : State :=
  let fail := if s.clk.live.getLsbD 24 then s.spt.lastBeat else s.micros
  let kept := s.spt.log.filter fun r => r.time.toNat + 1000 ≤ fail
  { s with spt := { s.spt with
      log := kept, logNext := s.spt.logNext - BitVec.ofNat 32 (s.spt.log.length - kept.length) } }

/-- STANDBY_TAKEOVER. -/
def takeOver (s : State) : State :=
  if s.clk.powered && !s.clk.inReset && s.spt.standbyOk && !s.spt.hd2 && s.clk.live.getLsbD 25
      && s.spt.restart.isNone then
    let s1 := loseRecords s
    let s2 := { s1 with
      spt := { s1.spt with hd2 := true, hd0Held := true, standbyOk := false }
      host := { s1.host with handshakes := [] } }
    let s3 := (s2.raiseBits (.spt .evt) 1).logRec 10 2 3 0 0
    interruptBox (interruptBox s3 0) 1
  else s

/-! ## The commands -/

def execHeartbeat (s : State) : Host.Outcome State Fault Refusal := .next (beat s)

def execSensorSample (temps : Vector (BitVec 8) 12) (s : State) : Host.Outcome State Fault Refusal :=
  .next (sampleSensors s temps)

def execThermAlert (low : Bool) (s : State) : Host.Outcome State Fault Refusal := .next (thermAlert s low)

/-- SENSOR_MAX_RESET. -/
def execSensorMaxReset (i : Fin 12) (s : State) : Host.Outcome State Fault Refusal := .next (resetMax s i)

def execLogSummary (src : CounterSrc) (s : State) : Host.Outcome State Fault Refusal := .next (logSummary s src)

/-- LOG_LATCH. -/
def execLogLatch (p : EPort) (seq : BitVec 32) (s : State) : Host.Outcome State Fault Refusal :=
  .next (selectRecord s p seq)

def execVerify (p : EPort) (sigs : SigFacts) (s : State) : Host.Outcome State Fault Refusal := .next (runVerify s p sigs)

end Sys2Proof.Machine
end

