-- ==== Sys2Proof/Machine/Drone.lean ====
section
/-! DEFINITION. The Drone engine (R385 to R392, R395, R396): its operations, their times and errors, the schedule of its
jobs and its random generator. Where the fields of a job place its inputs, the spec is silent: log entry 31. -/

namespace Sys2Proof.Machine

/-! ## Inputs -/

/-- Bytes of the operand buffer. -/
def bufBytes (s : State) (o n : Nat) : List Byte := (upFrom o n).map (sget noByte s.drone.buffer)

/-- The first `n` bytes, filled with zeros. -/
def fitBytes (n : Nat) (l : List Byte) : List Byte := (l ++ List.replicate n 0).take n

def zeroBytes (n : Nat) : List Byte := List.replicate n 0

/-- Table 13.9: the length of a job's input, or the bound on a message of the buffer. -/
def inputOk (op len : Nat) : Bool :=
  match op with
  | 0x10 => len = 32
  | 0x30 => len = 32
  | 0x22 => len = 1088
  | 0x11 => len ≤ 8192
  | 0x12 => len ≤ 8192
  | 0x31 => len ≤ 8192
  | 0x32 => len ≤ 8192
  | 0x40 => len ≤ 8192
  | 0x41 => len ≤ 8192
  | _ => len = 0

/-- The bytes that an operation reads at aux_off. -/
def auxLen : Nat → Nat
  | 0x02 => 32 | 0x12 => 96 | 0x21 => 1184 | 0x32 => 1952 + 3309 | _ => 0

/-- The bytes that an operation writes at out_off. -/
def outputLen (op : Nat) (j : DroneJob) : Nat :=
  match op with
  | 0x01 => 32 | 0x02 => 32 | 0x11 => 64 | 0x20 => 1184 | 0x21 => 1088 + 32 | 0x22 => 32 | 0x31 => 3309 | 0x40 => 48
  | 0x41 => j.outLen.toNat | 0x50 => j.outLen.toNat | _ => 0

def hashes (op : Nat) : Bool := op = 0x40 || op = 0x41

/-- A hash that streams from HBM. -/
def streams (op : Nat) (j : DroneJob) : Bool := hashes op && j.haddr ≠ 0

/-- Message or input length L of Table 13.9. -/
def jobLen (op : Nat) (j : DroneJob) : Nat :=
  if op = 0x50 then j.outLen.toNat else if streams op j then j.units.toNat * 4096 else j.inLen.toNat

/-- R387: a length mismatch. -/
def lengthOk (op : Nat) (j : DroneJob) : Bool :=
  (streams op j || inputOk op j.inLen.toNat) && (streams op j || j.inOff.toNat + j.inLen.toNat ≤ 65536)
    && j.auxOff.toNat + auxLen op ≤ 65536 && j.outOff.toNat + outputLen op j ≤ 65536

/-- The input of a job. -/
def jobInput (s : State) (op : Nat) (j : DroneJob) : List Byte :=
  if streams op j then s.bytes (floorTo j.haddr.toNat 4096) (j.units.toNat * 4096)
  else bufBytes s j.inOff.toNat j.inLen.toNat

def jobAux (s : State) (op : Nat) (j : DroneJob) : List Byte := bufBytes s j.auxOff.toNat (auxLen op)

/-- Table 13.9: own cycles of a job. -/
def jobCycles (op : Nat) (j : DroneJob) (n : Nat) : Nat :=
  let l := jobLen op j
  match op with
  | 0x01 => 46000
  | 0x02 => 46000
  | 0x10 => 48000
  | 0x11 => 50000 + 200 * ceilDiv l 128
  | 0x12 => 96000 + 100 * ceilDiv l 128
  | 0x20 => 14000
  | 0x21 => 17000
  | 0x22 => 21000
  | 0x30 => 40000
  | 0x31 => 24000 + 6000 * n + 24 * ceilDiv l 136
  | 0x32 => 36000 + 24 * ceilDiv l 136
  | 0x40 => 64 + 24 * ceilDiv (l + 1) 104
  | 0x41 => 64 + 24 * (ceilDiv (l + 1) 136 + ceilDiv j.outLen.toNat 136)
  | 0x50 => 64 + 8 * ceilDiv l 32
  | _ => 64

/-! ## The operations -/

/-- What an operation finds: its status, its output and what it leaves in its key slot. -/
structure DroneOut where
  status : Nat := 0
  out : List Byte := []
  key : Option (Option DroneKey) := none
  deriving DecidableEq, Repr

/-- p = 2²⁵⁵ − 19, and the group order ℓ of Ed25519. -/
def prime25519 : Nat := 2 ^ 255 - 19
def order25519 : Nat := 2 ^ 252 + 27742317777372353535851937790883648493

/-- Randomness drawn: the generator's outputs from `at_`, `n` of them (R390). -/
def randomBytes (s : State) (n : Nat) : List Byte :=
  (upFrom 0 n).flatMap fun i => (upFrom 0 32).map fun k => Config.rng (s.drone.rngTotal + i) k

def takeRandom (s : State) (n : Nat) : State :=
  { s with drone := { s.drone with rngOut := s.drone.rngOut + n, rngTotal := s.drone.rngTotal + n } }

/-- Outputs of the generator that an operation uses. -/
def randomUse (op : Nat) (j : DroneJob) : Nat :=
  match op with
  | 0x01 => 1 | 0x20 => 2 | 0x21 => 1 | 0x31 => 1 | 0x50 => ceilDiv j.outLen.toNat 32 | _ => 0

/-- A 12-bit coefficient of an encoded polynomial. -/
def coef12 (l : List Byte) (i : Nat) : Nat := leNat ((l.drop (i * 3 / 2)).take 2) / (if i % 2 = 0 then 1 else 16) % 4096

/-- The FIPS 203 modulus check of an encapsulation key. -/
def kemKeyOk (ek : List Byte) : Bool := (upFrom 0 768).all fun i => coef12 ek i < 3329

/-- Table 13.10, ED_VERIFY, in its order. -/
def edVerifyStatus (msg pk sig : List Byte) : Nat :=
  let ya := leNat pk % 2 ^ 255
  let yr := leNat (sig.take 32) % 2 ^ 255
  if prime25519 ≤ ya || prime25519 ≤ yr then 3
  else if !Config.edOnCurve pk || !Config.edOnCurve (sig.take 32) then 4
  else if leNat pk = 1 then 2
  else if order25519 ≤ leNat (sig.drop 32) then 3
  else if !Config.edEquation pk msg sig then 1
  else 0

/-- Table 13.10, X25519. -/
def x25519Out (k u : List Byte) : DroneOut :=
  let v := leNat u % 2 ^ 255
  let r := fitBytes 32 (Config.x25519 k u)
  if v = 0 then { status := 2 }
  else if prime25519 ≤ v then { status := 3 }
  else if r = zeroBytes 32 then { status := 2 }
  else { out := r }

/-- The key in a slot. -/
def State.key (s : State) (k : Fin 16) : Option DroneKey := s.drone.keys[k.val]

/-- Key slots 0 and 1 while they are locked (R372). -/
def keyLocked (s : State) (k : Fin 16) : Bool := s.drone.locked && k.val < 2

/-- What an operation of Table 13.9 finds, its randomness at hand. -/
def operate (s : State) (op : Nat) (j : DroneJob) : DroneOut :=
  let msg := jobInput s op j
  let aux := jobAux s op j
  let rnd := randomBytes s (randomUse op j)
  match op with
  | 0x01 =>
    let k := rnd.take 32
    { out := Config.x25519 k (9 :: zeroBytes 31), key := some (some (.scalar k)) }
  | 0x02 => match s.key j.slot with
    | some (.scalar k) => x25519Out k aux
    | _ => { status := 5 }
  | 0x10 => { key := some (some (.ed msg)) }
  | 0x11 => match s.key j.slot with
    | some (.ed k) => { out := Config.edSign k msg }
    | _ => { status := 5 }
  | 0x12 => { status := edVerifyStatus msg (aux.take 32) (aux.drop 32) }
  | 0x20 => { out := (Config.kemGen rnd).2, key := some (some (.kem (Config.kemGen rnd).1)) }
  | 0x21 =>
    if kemKeyOk aux then
      let r := Config.kemEncaps aux rnd
      { out := fitBytes 1088 r.1 ++ fitBytes 32 r.2 }
    else { status := 3 }
  | 0x22 => match s.key j.slot with
    | some (.kem k) => if Config.kemHashOk k then { out := Config.kemDecaps k msg } else { status := 3 }
    | _ => { status := 5 }
  | 0x30 => { key := some (some (.dsa msg)) }
  | 0x31 => match s.key j.slot with
    | some (.dsa k) => if 256 < j.iterations then { status := 6 } else { out := Config.dsaSign k msg rnd }
    | _ => { status := 5 }
  | 0x32 => { status := if Config.dsaVerify (aux.take 1952) msg (aux.drop 1952) then 0 else 1 }
  | 0x40 => { out := sha3_384 msg }
  | 0x41 => { out := shake256 j.outLen.toNat msg }
  | 0x50 => { out := rnd }
  | _ => { key := some none }

/-- The operation is for the boot ROM only, or writes a slot that is locked: the spec states no result (log 32). -/
def jobBarred (s : State) (op : Nat) (j : DroneJob) : Bool :=
  ((op = 0x10 || op = 0x30) && !(j.fromRom && s.drone.rom))
    || ((op = 0x01 || op = 0x10 || op = 0x20 || op = 0x30 || op = 0x60) && keyLocked s j.slot)

/-- An uncorrectable word among a job's inputs. -/
def jobBad (s : State) (op : Nat) (j : DroneJob) : Bool :=
  j.badWord || (streams op j && (badAt s (floorTo j.haddr.toNat 4096) (j.units.toNat * 4096)).isSome)

/-- The result of a job. -/
def jobResult (s : State) (op : Nat) (j : DroneJob) : DroneOut :=
  if jobBarred s op j then { status := (Config.freeWord s.freeCtr).toNat % 256 }
  else if jobBad s op j then { status := 9 }
  else if randomUse op j ≠ 0 && !s.drone.rngOk then { status := 3 }
  else operate s op j

/-- The iterations that DSA_SIGN is timed by (R387). -/
def signRounds (s : State) (j : DroneJob) : Nat :=
  match s.key j.slot with
  | some (.dsa _) => max 1 (min 256 j.iterations)
  | _ => 1

/-! ## The schedule (R388) -/

def prioOf (j : DroneJob) : Nat := min 2 j.prio.toNat

def State.task (s : State) (j : Fin 4) : Option DroneTask := s.drone.jobs[j.val]

def State.setTask (s : State) (j : Fin 4) (t : Option DroneTask) : State :=
  { s with drone := { s.drone with jobs := s.drone.jobs.set j.val t } }

/-- The better of two jobs: the higher priority, then the earlier submission. -/
def betterTask (s : State) (a b : Fin 4) : Bool :=
  match s.task a, s.task b with
  | some x, some y => prioOf x.job < prioOf y.job || (prioOf x.job = prioOf y.job && x.order < y.order)
  | some _, none => true
  | _, _ => false

/-- The job that runs next. -/
def bestTask (s : State) : Option (Fin 4) :=
  (List.finRange 4).foldl (fun b j =>
    if (s.task j).isSome then
      match b with
      | some k => if betterTask s j k then some j else b
      | none => some j
    else b) none

/-- What a job gives that begins in this state: of a job that is not good, zeros and no key (R386, R396). -/
def jobRun (s : State) (op : Nat) (j : DroneJob) : DroneRun :=
  let r := jobResult s op j
  let good := r.status = 0 ∧ !jobBarred s op j
  { cycles := jobCycles op j (signRounds s j), status := BitVec.ofNat 8 r.status
    output := if good then fitBytes (outputLen op j) r.out else zeroBytes (outputLen op j)
    setKey := if good then r.key else none }

/-- The randomness, or the open value, that a job uses as it begins. -/
def chargeJob (s : State) (op : Nat) (j : DroneJob) : State :=
  if jobBarred s op j then { s with freeCtr := s.freeCtr + 1 }
  else if (jobResult s op j).status = 0 then takeRandom s (randomUse op j) else s

/-- A job's first cycle: its inputs are read (DESIGN CHOICE, log entry 31). -/
def beginJob (s : State) (k : Fin 4) : State :=
  match s.task k with
  | some t =>
    if t.run = none then
      (chargeJob s t.op.toNat t.job).setTask k (some { t with run := some (jobRun s t.op.toNat t.job) })
    else s
  | none => s

/-- The job that runs from here on. -/
def State.runTask (s : State) (j : Option (Fin 4)) : State :=
  let s1 := { s with drone := { s.drone with running := j } }
  match j with
  | some k => beginJob s1 k
  | none => s1

/-- The registers that show a job's fields (Table 13.15). -/
def showJob (s : State) (k : Fin 4) (op : Nat) (j : DroneJob) : State :=
  let s1 := s.setReg (.drn (.job k)) (fld 0 op ||| fld 8 j.slot.val ||| fld 12 j.prio.toNat ||| fld 16 j.inOff.toNat
    ||| fld 32 j.inLen.toNat)
  let s2 := s1.setReg (.drn (.jobOut k)) (fld 0 j.outOff.toNat ||| fld 16 j.auxOff.toNat)
  s2.setReg (.drn (.jobSrc k)) (fld 0 j.haddr.toNat ||| fld 48 j.units.toNat)

/-- Count a job that has ended, and show its status. -/
def closeJob (s : State) (k : Fin 4) (status cycles : Nat) : State :=
  let s1 := s.countSat (.drn .cnt) 0 32 1
  let s2 := if status = 0 ∨ status = 1 then s1 else s1.countSat (.drn .cnt) 32 16 1
  s2.setReg (.drn (.jobSt k)) (fld 0 status ||| flag 8 true ||| fld 32 cycles)

/-- Soundpost submits a job to slot `k`, which ignores it while it is busy. While the Drone is not ok the job waits. -/
def submit (s : State) (k : Fin 4) (op : Nat) (j : DroneJob) : State :=
  if (s.task k).isSome || !soundpostUp s then s
  else
    let s1 := showJob s k op j
    if !lengthOk op j then closeJob s1 k 8 0
    else
      let s2 := s1.setTask k (some { op := BitVec.ofNat 8 op, job := j, order := s1.drone.nextOrder, ran := 0 })
      let s3 := { s2 with drone := { s2.drone with nextOrder := s2.drone.nextOrder + 1 } }
      if droneOk s3 ∧ s3.drone.running = none then s3.runTask (some k) else s3

/-- The own cycles of a job's whole run. -/
def DroneTask.cycles (t : DroneTask) : Nat :=
  match t.run with
  | some r => r.cycles
  | none => 0

/-- DRONE_YIELD: the running job has executed 4,096 more cycles and is not at its end. -/
def yieldJob (s : State) : State :=
  match s.drone.running with
  | none => if droneOk s then s.runTask (bestTask s) else s
  | some k =>
    match s.task k with
    | some t =>
      if t.ran + 4096 < t.cycles ∧ droneOk s then
        let s1 := s.setTask k (some { t with ran := t.ran + 4096 })
        s1.runTask (bestTask s1)
      else s
    | none => s

/-- What a job that the loss of its clock ends gives: zeros. -/
def clockRun (t : DroneTask) : DroneRun where
  cycles := t.ran
  status := 7
  output := zeroBytes (outputLen t.op.toNat t.job)

/-- The job of a slot ends: its output, its key and its registers; `ran` is the own cycles that DRN_JOB_ST shows. -/
def finishJob (s : State) (k : Fin 4) (t : DroneTask) (r : DroneRun) (ran : Nat) : State :=
  let keys := match r.setKey with
    | some v => s.drone.keys.set t.job.slot.val v
    | none => s.drone.keys
  let d := { s.drone with
    buffer := putBytes s.drone.buffer t.job.outOff.toNat r.output
    keys := keys
    running := if s.drone.running = some k then none else s.drone.running }
  closeJob ({ s with drone := d }.setTask k none) k r.status.toNat ran

/-- The own cycles that a job shows which an uncorrectable word or the loss of its clock ended in the midst: R386 fixes none. -/
def openCycles (f : Nat → State → State) (s : State) : State :=
  let (w, s1) := s.draw
  f (w.toNat % 2 ^ 32) s1

/-- DRONE_JOB_END: the running job ends at its own time, and the next one starts. -/
def endJob (s : State) (k : Fin 4) : State :=
  if s.drone.running = some k ∧ droneOk s then
    match s.task k with
    | some t => match t.run with
      | some r =>
        let s1 := if r.status = 9 then openCycles (fun n s => finishJob s k t r n) s else finishJob s k t r r.cycles
        s1.runTask (bestTask s1)
      | none => s
    | none => s
  else s

/-! ## The Drone's clock (R391) -/

/-- The Drone PLL loses lock: the running job ends with ERR_CLOCK. -/
def droneClockLost (s : State) : State :=
  let s1 := { s with drone := { s.drone with clockFail := true, lostBelow := s.drone.nextOrder } }
  match s.drone.running with
  | some k =>
    match s1.task k with
    | some t => openCycles (fun n s => finishJob s k t (clockRun t) n) s1
    | none => s1
  | none => s1

/-- It locks again: jobs that waited at the loss end the same way. -/
def droneClockBack (s : State) : State :=
  let s1 := (List.finRange 4).foldl (fun s k =>
    match s.task k with
    | some t => if t.order < s.drone.lostBelow then finishJob s k t (clockRun t) t.ran else s
    | none => s) s
  if droneOk s1 then s1.runTask (bestTask s1) else s1

/-! ## The random generator (R390) -/

def reseed (s : State) : State :=
  if 2 ^ 20 ≤ s.drone.rngOut then { s with drone := { s.drone with rngOut := 0 } } else s

def rngHealth (s : State) (ok : Bool) : State :=
  let s1 := { s with drone := { s.drone with rngOk := ok } }
  if !ok ∧ s.drone.rngOk then s1.logRec 10 2 5 0 0 else s1

/-! ## The commands -/

def execX25519Gen (j : Fin 4) (job : DroneJob) (s : State) : Host.Outcome State Fault Refusal := .next (submit s j 0x01 job)

def execX25519 (j : Fin 4) (job : DroneJob) (s : State) : Host.Outcome State Fault Refusal := .next (submit s j 0x02 job)

def execEdGen (j : Fin 4) (job : DroneJob) (s : State) : Host.Outcome State Fault Refusal := .next (submit s j 0x10 job)

def execEdSign (j : Fin 4) (job : DroneJob) (s : State) : Host.Outcome State Fault Refusal := .next (submit s j 0x11 job)

def execEdVerify (j : Fin 4) (job : DroneJob) (s : State) : Host.Outcome State Fault Refusal := .next (submit s j 0x12 job)

def execKemGen (j : Fin 4) (job : DroneJob) (s : State) : Host.Outcome State Fault Refusal := .next (submit s j 0x20 job)

def execKemEncaps (j : Fin 4) (job : DroneJob) (s : State) : Host.Outcome State Fault Refusal := .next (submit s j 0x21 job)

def execKemDecaps (j : Fin 4) (job : DroneJob) (s : State) : Host.Outcome State Fault Refusal := .next (submit s j 0x22 job)

def execDsaGen (j : Fin 4) (job : DroneJob) (s : State) : Host.Outcome State Fault Refusal := .next (submit s j 0x30 job)

def execDsaSign (j : Fin 4) (job : DroneJob) (s : State) : Host.Outcome State Fault Refusal := .next (submit s j 0x31 job)

def execDsaVerify (j : Fin 4) (job : DroneJob) (s : State) : Host.Outcome State Fault Refusal := .next (submit s j 0x32 job)

def execSha3384 (j : Fin 4) (job : DroneJob) (s : State) : Host.Outcome State Fault Refusal := .next (submit s j 0x40 job)

def execShake256 (j : Fin 4) (job : DroneJob) (s : State) : Host.Outcome State Fault Refusal := .next (submit s j 0x41 job)

def execRand (j : Fin 4) (job : DroneJob) (s : State) : Host.Outcome State Fault Refusal := .next (submit s j 0x50 job)

def execClear (j : Fin 4) (job : DroneJob) (s : State) : Host.Outcome State Fault Refusal := .next (submit s j 0x60 job)

def execDroneYield (s : State) : Host.Outcome State Fault Refusal := .next (yieldJob s)

def execDroneJobEnd (j : Fin 4) (s : State) : Host.Outcome State Fault Refusal := .next (endJob s j)

def execRngReseed (s : State) : Host.Outcome State Fault Refusal := .next (reseed s)

def execRngHealthFail (s : State) : Host.Outcome State Fault Refusal := .next (rngHealth s false)

end Sys2Proof.Machine
end

