-- ==== Sys2Proof/Machine/Tailpiece.lean ====
section
/-! DEFINITION. The Tailpiece store (R16, R410 to R413): the acceptance and the completion of RWP writes, their wear and
their effects. -/

namespace Sys2Proof.Machine

/-! ## Words (Table 14.7) -/

/-- The place of a register of the security set among its 59 words. -/
def securityIndex : Reg → Option Nat
  | .hif (.hostKey i w) => some (i.val * 6 + w.val)
  | .hif (.hostRole i) => some (48 + i.val)
  | .spt .boot => some 56
  | .spt .svn => some 57
  | .spt .keyrev => some 58
  | _ => none

/-- The Tailpiece word of another RWP register. -/
def plainWord : Reg → Option Nat
  | .hbm n (.ret i) => some (1536 + n.val * 64 + i.val)
  | .tpc (.remap p b) => some (3072 + p.val * 16 + b.val)
  | .tpc (.phycal t w) => some (5120 + t.val * 8 + w.val)
  | .tpc (.frbExcl i) => some (5408 + i.val)
  | .tpc (.padis i) => some (5416 + i.val)
  | .brg n .cfg => some (5418 + n.val)
  | .sys .cfg => some 5426
  | .hif .cfg => some 5427
  | .hif (.portCfg p) => some (5428 + p.val)
  | .hif (.ip4 p) => some (5430 + p.val)
  | .hif (.ip6hi p) => some (5432 + p.val)
  | .hif (.ip6lo p) => some (5434 + p.val)
  | .capo .cfg => some 5632
  | .capo .plim => some 5633
  | _ => none

/-- The words that a write of a register programs: both copies of a security word. -/
def storeWords (r : Reg) : List Nat :=
  match securityIndex r, plainWord r with
  | some k, _ => [5436 + k, 5495 + k]
  | none, some k => [k]
  | none, none => []

/-- R412: one more write of a word. -/
def wearWord (s : State) (w : Nat) : State :=
  let n := min 0xFFFFFF (sget (fun _ => 0) s.tpc.wear w + 1)
  let s1 := { s with tpc := { s.tpc with wear := sput (fun _ => 0) s.tpc.wear w n } }
  if n = 200001 then (s1.raiseBits (.tpc .evt) 1).logRec 11 1 1 w 0 else s1

/-! ## Acceptance -/

/-- The value that a write leaves in the persistent bits: SPT_KEYREV and SPT_SVN keep what R380 keeps. -/
def rwpValue (r : Reg) (old v : Word) : Word :=
  match r with
  | .spt .keyrev => if (old ||| v) &&& 3 = 3 then old else (old ||| v) &&& 3
  | .spt .svn =>
    (List.range 4).foldl (fun w i =>
      let a := (field old (16 * i) 16).toNat
      let b := (field v (16 * i) 16).toNat
      putField w (16 * i) 16 (max a b)) 0
  | r => (v &&& r.spec.rwp) ||| (r.spec.reset &&& ~~~ r.spec.rwp)

def State.setActive (s : State) (l : List RwpWrite) : State := { s with tpc := { s.tpc with active := l } }

/-- Tailpiece can take the write now (R16, R411). -/
def mayAccept (s : State) (off : Nat) : Bool := s.tpc.active.length < 8 && !s.tpc.active.any (·.off = off)

/-- A write enters Tailpiece; the register's RW fields take their part of it as it is accepted (R16). -/
def enterRwp (s : State) (w : RwpWrite) : State :=
  match Reg.at? w.off with
  | some r => (plainWrite s r w.value).setActive (s.tpc.active ++ [{ w with value := rwpValue r (s.rwp r) w.value }])
  | none => s

/-- An RWP write arrives: it is accepted, or waits. -/
def writeRwp (s : State) (w : RwpWrite) : State :=
  if mayAccept s w.off && !s.tpc.waiting.any (·.off = w.off) then enterRwp s w
  else { s with tpc := { s.tpc with waiting := s.tpc.waiting ++ [w] } }

/-- Waiting writes are accepted, oldest first, as long as Tailpiece can take them. -/
def acceptWaiting : List RwpWrite → State → State
  | [], s => s
  | w :: r, s =>
    if mayAccept s w.off then acceptWaiting r (enterRwp s w)
    else acceptWaiting r { s with tpc := { s.tpc with waiting := s.tpc.waiting ++ [w] } }

/-! ## Completion -/

/-- The new value is in the store. -/
def programWord (s : State) (r : Reg) (v : Word) : State :=
  if s.rwp r = v then s
  else
    let s1 := { s with tpc := { s.tpc with stored := sput regReset s.tpc.stored r.off v } }
    (storeWords r).foldl wearWord s1

/-- Sessions that a changed host entry ends (R313, R315): those that entry `i` admitted once it is invalid, and those
of open mode once it has ended. -/
def endByRole (s : State) (wasOpen : Bool) (i : Fin 8) : State :=
  (List.finRange 16).foldl (fun s k =>
    match s.sess k with
    | some x =>
      let gone := match x.entry with
        | some e => decide (e = i) && !bit (s.rwp (.hif (.hostRole i))) 0
        | none => wasOpen && !openMode s
      if !gone then s
      -- R313: the REG_WRITE is answered first
      else if x.busy.any (·.answer.isSome) then s.setSess k (some { x with ending := true })
      else endSession s k false
    | none => s) s

/-- What a completed write changes beside the value (R16): `old` is the state before it. -/
def rwpEffect (old s : State) (r : Reg) : State :=
  let before := old.rwp r
  let after := s.rwp r
  let s1 := if (securityIndex r).isSome && before ≠ after then measureSettings s else s
  match r with
  | .hif (.hostRole i) => endByRole s1 (openMode old) i
  | .brg n .cfg => if bit after 0 || (s1.brg.ports[n.val]).st = .down then s1 else downPort s1 n
  | .hbm n (.ret _) => retireEffect s1 n before after
  | _ => s1

/-- A session that has only waited for the answer ends (R313). -/
def endLeaving (s : State) (sid : BitVec 32) : State :=
  match findSid s sid with
  | some k => match s.sess k with
    | some x => if x.ending && x.busy.all (·.answer.isNone) then endSession s k false else s
    | none => s
  | none => s

/-- The request that asked for a write is answered once all its writes have completed. -/
def answerAsker (s : State) (a : Option (BitVec 32 × BitVec 32)) : State :=
  match a with
  | none => s
  | some (sid, id) =>
    if (s.tpc.active ++ s.tpc.waiting).any (·.asker = a) then s
    else
      match (findReq s sid id).bind (·.answer) with
      | some (st, d) => endLeaving (respond s sid id st d []) sid
      | none => s

/-- RWP_WRITE_COMPLETE of the register at an offset. -/
def completeRwp (s : State) (off : Nat) : State :=
  match s.tpc.active.find? (·.off = off), Reg.at? off with
  | some w, some r =>
    let s1 := programWord (s.setActive (s.tpc.active.filter (·.off ≠ off))) r w.value
    let s2 := rwpEffect s (answerAsker s1 w.asker) r
    acceptWaiting s2.tpc.waiting { s2 with tpc := { s2.tpc with waiting := [] } }
  | _, _ => s

/-- Every accepted write completes, and the waiting ones are discarded (R455). -/
def flushRwp (s : State) : State :=
  let s1 := { s with tpc := { s.tpc with waiting := [] } }
  s1.tpc.active.foldl (fun s w => match Reg.at? w.off with
    | some r => programWord (s.setActive (s.tpc.active.filter (·.off ≠ w.off))) r w.value
    | none => s) s1

end Sys2Proof.Machine
end

