-- ==== Sys2Proof/Machine/Boot.lean ====
section
/-! DEFINITION. Reset domains (R397 to R399), the measured boot (R371, R372, R375 to R377, R392, R413) and the restart of
Soundpost (R404). -/

namespace Sys2Proof.Machine

/-! ## One PA (Table 14.1, R398) -/

def eraseRegs (s : State) (lo n : Nat) : State := { s with ctl := serase s.ctl lo n }

/-- The contents of `[a, a + n)` are lost: the bytes read as bytes that nothing has written (log entry 2). -/
def forget (s : State) (a n : Nat) : State :=
  { s with mem := { bytes := serase s.mem.bytes a n, unc := s.mem.unc.filter fun u => !inside u 8 a n,
                    uncBurst := s.mem.uncBurst.filter fun u => !inside u 32 a n } }

/-- PA_NCFG and PA_NCONST: the values of the resident program, or the reset values (R398). -/
def setNcfg (s : State) (p : Pa) : State :=
  let regs : List PaReg := [.ncfg, .nconst 0, .nconst 1, .nconst 2]
  match s.rp.prog with
  | some q => (regs.zip q.ncfg).foldl (fun s e => s.setReg (.pa p e.1) e.2) s
  | none => regs.foldl (fun s r => s.setReg (.pa p r) (Reg.spec (.pa p r)).reset) s

/-- A fresh PA that keeps its online bit and its microcode. -/
def freshPa (x : PaState) : PaState :=
  { PaState.reset with online := x.online, mcPa := x.mcPa, mcBow := x.mcBow, digPa := x.digPa, digBow := x.digBow }

/-- The registers of the Bow and the counters of Overtone. -/
def resetPaRegs (s : State) (p : Pa) : State :=
  let at_ := fun (r : PaReg) => Reg.off (.pa p r)
  let s1 := eraseRegs s (at_ .bowCfg) 0x80
  let s2 := eraseRegs (eraseRegs s1 (at_ .ovtCycle) 8) (at_ (.ovtSlot 0)) 0x5E0
  (List.finRange 8).foldl (fun s i => s.setReg (.pa p (.ovtCnt i)) 0) s2

/-- The PA has nothing on its way any more: accesses, units, window requests, and reservations for responses. -/
def quitPa (s : State) (p : Pa) : State :=
  let s1 := (s.pa p).bow.tags.foldl (fun s g => dropUnit s p g) s
  let s2 := (s.pa p).ops.foldl (fun s o => dropFlow (.answer p o.id) (dropFlow (.access p o.id) s)) s1
  { s2 with
    net := { s2.net with
      stops := s2.net.stops.filter fun q => requesterPa q.rq ≠ some p
      reserved := sput (fun _ => 0) s2.net.reserved p.val 0 }
    brg := { s2.brg with winReqs := s2.brg.winReqs.filter (·.pa ≠ p) } }

/-- The PA's domain is reset. -/
def resetPa (s0 : State) (p : Pa) : State :=
  let s := quitPa s0 p
  setNcfg (resetPaRegs (forget (s.modPa p freshPa) (spmAddr p 0) spmSize) p) p

/-- Table 15.2: what P3 loses of a PA: its memories and every volatile register of its control block. -/
def losePa (s0 : State) (p : Pa) : State :=
  let s := quitPa s0 p
  eraseRegs (forget (s.modPa p freshPa) (spmAddr p 0) spmSize) (Reg.off (.pa p .id)) 0x10000

/-- TPC_PADIS keeps the PA offline. -/
def paDisabled (s : State) (p : Pa) : Bool :=
  if p.val < 64 then bit (s.rwp (.tpc (.padis 0))) p.val else bit (s.rwp (.tpc (.padis 1))) (p.val - 64)

def setOnline (on : Bool) (s : State) (p : Pa) : State := s.modPa p fun x => { x with online := on }

/-- R406: the valid remap entries of a PA; an index above 191 remaps nothing. -/
def remapEntries (s : State) (p : Pa) : List (Nat × Nat × Nat) :=
  (List.finRange 16).flatMap fun b =>
    let w := s.rwp (.tpc (.remap p b))
    (upFrom 0 4).filterMap fun e =>
      if bit w (32 + e) && (field w (8 * e) 8).toNat < 192 then some (b.val, e, (field w (8 * e) 8).toNat) else none

/-- R255, R406: a PA applies its remap entries in the first cycle of its start-up. -/
def applyRemaps (s : State) (p : Pa) : State := s.modPa p fun x => { x with remaps := remapEntries s p }

/-- R406: a line that an entry in use replaces is not tested. -/
def testedFails (x : PaState) (fails : List (Fin 16 × BitVec 8)) : List (Fin 16 × BitVec 8) :=
  fails.filter fun f => !(x.remaps.any fun r => r.1 = f.1.val && r.2.2 = f.2.toNat)

/-- The microcode of the running slot. -/
def loadMicrocode (s : State) (p : Pa) : State :=
  match s.spt.running with
  | some v => s.modPa p fun x =>
      { x with mcPa := v[2].verMinor, digPa := v[2].digest, mcBow := v[3].verMinor, digBow := v[3].digest }
  | none => s

/-! ## The device (Table 14.1) -/

/-- Every volatile part of the device at its reset value. What survives is the store, the image store, the pins and the
sideband controller. The device is held in reset. -/
def resetDevice (s : State) : State :=
  { State.reset with
    pending := s.pending
    freeCtr := s.freeCtr
    outbox := s.outbox
    clk := { powered := s.clk.powered, inReset := true }
    brg := { mstrPin := s.brg.mstrPin }
    spt := { store := s.spt.store, slotCut := s.spt.slotCut, alertLow := s.spt.alertLow }
    tpc := { stored := s.tpc.stored, wear := s.tpc.wear, cut := s.tpc.cut }
    capo := { vin := s.capo.vin, rails := s.capo.rails, uv := s.capo.uv }
    sb := s.sb }

/-! ## Boot: Tailpiece, the Drone and the identity -/

/-- The reload of Tailpiece (R413). -/
def reload (b : BootFacts) (s : State) : State :=
  let bad := b.badWords.map (·.val)
  let plain := fun (off : Nat) => match Reg.at? off with
    | some r => match plainWord r with | some w => bad.contains w | none => false
    | none => false
  let s1 := { s with tpc := { s.tpc with
      stored := s.tpc.stored.filter fun e => !plain e.1
      loaded := true
      fault := bad ≠ []
      cut := false } }
  let s2 := if bad = [] then s1 else bad.foldl (fun s w => s.logRec 11 2 2 w 0) (s1.raiseBits (.tpc .evt) 2)
  if s.tpc.cut then (s2.raiseBits (.tpc .evt) 4).logRec 11 1 3 0 0 else s2

/-- The identity key seeds (R371). -/
def idSeed (lo : Nat) : List Byte := (upFrom lo 32).map Config.pufSeeds

/-- R373: the identity key digest. -/
def idKeyDigest : List Byte := sha3_384 (Config.edPublic (idSeed 0) ++ Config.dsaPublic (idSeed 32))

/-- Steps 2 and 3. -/
def bootRom (b : BootFacts) (s : State) : State :=
  let s1 := { s with
    drone := { s.drone with selfTest := b.droneOk, rom := true, locked := false }
    spt := { s.spt with droneOk := b.droneOk } }
  let s2 := if b.droneOk then s1 else s1.logRec 10 3 4 0 0
  if !b.pufOk then s2.logRec 10 3 6 0 0
  else if !b.droneOk then s2
  else { s2 with
    drone := { s2.drone with
      keys := (s2.drone.keys.set 0 (some (.ed (idSeed 0)))).set 1 (some (.dsa (idSeed 32))) }
    spt := { s2.spt with idOk := true, idDigest := idKeyDigest } }

/-- R408: the stored exclusions are applied before the first packet. -/
def startLinks (s : State) : State :=
  let l := (List.finRange 8).filterMap fun i =>
    let v := s.rwp (.tpc (.frbExcl i))
    if bit v 10 then some ((field v 0 7).toNat, (field v 7 3).toNat) else none
  { s with net := { s.net with excl := l } }

/-! ## Boot: the loader and the firmware (R376) -/

/-- Bytes of the image store. -/
def imageBytes (s : State) (o n : Nat) : List Byte := (upFrom o n).map (sget noByte s.spt.store)

/-- R381 for the image of a kind in a slot of the store, which supplies the length of its header. -/
def verifyStored (s : State) (slot : Bool) (kind : Nat) (g : SigFacts) : Nat :=
  let o := (if slot then 0x1000000 else 0) + slotOffset kind
  let h := imageBytes s o 4096
  let n := min (bodyLen h) (largestBody kind)
  verifyStatus s h (imageBytes s (o + 4096) n) (4096 + bodyLen h) (some kind) g false false

/-- Bytes of the store that have been written since the factory. -/
def storeHas (s : State) (o n : Nat) : Bool := s.spt.store.any fun e => o ≤ e.1 && e.1 < o + n

/-- What verification finds of an image (R381): of one that a SLOT_WRITE or a recovery has written, from its bytes; of one that
the factory stored, whose bytes the spec does not give, from the facts of the boot (DESIGN CHOICE, log entry 87). -/
def bootImage (s : State) (b : BootFacts) (slot : Bool) (k : Fin 4) : ImageFact :=
  let i := (if slot then 4 else 0) + k.val
  let o := (if slot then 0x1000000 else 0) + slotOffset (k.val + 1)
  let f := b.images.toArray.getD i b.images[0]
  let g := b.sigs.toArray.getD i b.sigs[0]
  if s.spt.slotCut.toArray.getD (if slot then 1 else 0) false then { f with status := 2 }
  else if storeHas s o 4096 then imageFact (imageBytes s o 4096) (verifyStored s slot (k.val + 1) g)
  else { f with status := BitVec.ofNat 8 (recheck s (k.val + 1) f g) }

/-- A failed image is logged. -/
def bootFail (s : State) (kind status : Nat) : State :=
  (s.raiseBits (.spt .evt) (mask 5 1)).logRec 10 2 1 kind status

/-- A step that tries a slot, then the other. -/
def pickSlot (b : BootFacts) (k : Fin 4) (first : Bool) (s : State) : Option Bool × State :=
  let one := (bootImage s b first k).status
  let two := (bootImage s b (!first) k).status
  if one = 0 then (some first, s)
  else
    let s1 := bootFail s (k.val + 1) one.toNat
    let s2 := { s1 with spt := { s1.spt with fallback := true } }.logRec 10 1 2 (k.val + 1) one.toNat
    if two = 0 then (some (!first), s2) else (none, bootFail s2 (k.val + 1) two.toNat)

/-- Soundpost enters recovery. -/
def enterRecovery (s : State) : State :=
  sbEvent ({ s with spt := { s.spt with recovery := true } }.logRec 10 3 7 0 0) 5

/-- The ROM exits: key slots 0 and 1 lock (R372). -/
def romExit (s : State) : State := { s with drone := { s.drone with rom := false, locked := true } }

/-- R413: both copies of a security word fail. -/
def securityLost (b : BootFacts) : Bool :=
  let bad := b.badWords.map (·.val)
  (upFrom 0 59).any fun k => bad.contains (5436 + k) && bad.contains (5495 + k)

/-- Steps 4 and 5, and whether firmware runs. -/
def bootFirmware (b : BootFacts) (s : State) : State × Bool :=
  if securityLost b then (enterRecovery s, false)
  else
    match pickSlot b 0 (bit (s.rwp (.spt .boot)) 0) s with
    | (none, s1) => (enterRecovery s1, false)
    | (some l, s1) =>
      let s2 := romExit (setMeas s1 0 (sha3_384 (bootImage s b l 0).digest) 1)
      match pickSlot b 1 l s2 with
      | (none, s3) => (enterRecovery s3, false)
      | (some f, s3) =>
        let v : Vector ImageFact 4 := #v[bootImage s b l 0, bootImage s b f 1, bootImage s b f 2, bootImage s b f 3]
        (setMeas { s3 with spt := { s3.spt with slot := f, running := some v } } 1
          (sha3_384 (bootImage s b f 1).digest) 1, true)

/-! ## Boot: the PAs and HBM -/

/-- Step 6 for one PA. -/
def startPa (b : BootFacts) (s0 : State) (p : Pa) : State :=
  let s := applyRemaps s0 p
  if paDisabled s p then s
  else if b.paFails.contains p then (loadMicrocode s p).logRec 2 2 5 p.val 0
  else setOnline true (loadMicrocode s p) p

/-- Step 6: a microcode image that fails leaves every PA offline. -/
def bootPas (b : BootFacts) (s : State) : State :=
  match s.spt.running with
  | none => s
  | some v =>
    let bad := fun (s : State) (k : Fin 4) =>
      if v[k.val].status = 0 then s else (bootFail s (k.val + 1) v[k.val].status.toNat).logRec 2 2 4 0 0
    let s1 := bad (bad s 2) 3
    let s2 := if v[2].status = 0 ∧ v[3].status = 0 then (List.finRange 128).foldl (startPa b) s1 else s1
    measureMicrocode s2

/-- Step 7. -/
def bootReady (s : State) : State :=
  let s1 := { s with st := { s.st with hbms := s.st.hbms.map fun x => { x with ready := true } } }
  let s2 := measureSettings s1
  { s2 with spt := { s2.spt with ready := true } }

/-- The boot from step 1 of Table 13.4. -/
def bootAll (b : BootFacts) (s : State) : State :=
  match bootFirmware b (bootRom b s) with
  | (s1, true) =>
    let s2 := bootReady (bootPas b s1)
    { s2 with spt := { s2.spt with standbyOk := b.standbyOk } }
  | (s1, false) => s1

/-! ## A restart of Soundpost (R399, R404) -/

/-- Peg cells with owner 3 are reset; cell 63 stays with the command that runs (R402). -/
def dropSoundpostCells (s : State) : State :=
  (List.finRange 63).foldl (fun s i =>
    let k : Fin 64 := ⟨i.val, by omega⟩
    if pegOwner s.host.peg[k.val] = 3 then setPeg s k 0 else s) s

/-- The domain is reset. With the HD2 Soundpost active the Drone is not. -/
def resetSoundpost (s : State) (b : BootFacts) : State :=
  let x := s.spt
  let fresh : Soundpost := {
    hd2 := x.hd2, hd0Held := x.hd0Held, alertLow := x.alertLow, store := x.store, slotCut := x.slotCut
    idOk := x.hd2 && x.idOk, droneOk := x.hd2 && x.droneOk, idDigest := if x.hd2 then x.idDigest else []
    running := x.running, mailbox := x.mailbox, restart := some b }
  let s1 := eraseRegs { s with
    spt := fresh
    drone := if x.hd2 then s.drone else {}
    host := { s.host with handshakes := [] } } (Reg.off (.spt .stat)) 0x1000
  let s2 := if x.hd2 then s1 else eraseRegs s1 (Reg.off (.drn .stat)) 0x1000
  dropSoundpostCells s2

/-- Event bits of Table 14.9 and 15.8 that the restarted firmware looks for: register, bit, class, severity, code and
first argument. -/
def eventTable : List (Reg × Nat × Nat × Nat × Nat × Nat) :=
  ((List.finRange 27).map fun k =>
      (.glb .clkStat, 32 + k.val, 1, (if k.val < 16 then 3 else 2), k.val + 1, 0))
    ++ ((List.finRange 24).flatMap fun n =>
      [(.hbm n .therm, 24, 4, 0, 4, n.val), (.hbm n .therm, 25, 4, 2, 5, n.val), (.hbm n .errAddr, 48, 4, 2, 3, n.val)])
    ++ ((List.finRange 8).flatMap fun n =>
      [(.brg n .evt, 0, 7, 2, 1, n.val), (.brg n .evt, 1, 7, 1, 2, n.val), (.brg n .evt, 3, 7, 2, 3, n.val)])
    ++ [(.hif .evt, 0, 8, 0, 1, 0), (.hif .evt, 1, 8, 0, 3, 0), (.hif .evt, 2, 8, 0, 3, 1),
        (.tpc .evt, 0, 11, 1, 1, 0), (.tpc .evt, 1, 11, 2, 2, 0), (.tpc .evt, 2, 11, 1, 3, 0),
        (.capo .evt, 0, 14, 0, 1, 0), (.capo .evt, 1, 14, 3, 3, 0), (.capo .evt, 2, 14, 3, 5, 0),
        (.capo .evt, 3, 14, 3, 8, 0), (.frb .evt, 0, 6, 0, 4, 0), (.frb .evt, 1, 6, 0, 5, 0), (.frb .evt, 2, 6, 2, 3, 0),
        (.frb .evt, 3, 6, 2, 2, 0), (.sys .evt, 0, 7, 0, 6, 0), (.sys .evt, 1, 7, 0, 6, 0), (.sys .evt, 4, 7, 2, 5, 0),
        (.sys .evt, 5, 7, 2, 4, 0), (.cxl (.errAddr 0), 48, 5, 2, 1, 0), (.cxl (.errAddr 1), 48, 5, 2, 1, 1)]
    ++ ((List.finRange 128).map fun p => (.pa p .eccAddr, 24, 2, 2, 2, p.val))

/-- R404: one record for each event bit that the restarted firmware finds set. -/
def logFound (s : State) : State :=
  eventTable.foldl (fun t e =>
    let v := if e.1 = .glb .clkStat then readGlb s .clkStat else s.reg e.1
    if bit v e.2.1 then t.logRec e.2.2.1 e.2.2.2.1 e.2.2.2.2.1 e.2.2.2.2.2 0 else t) s

/-- The restarted boot: steps 1 to 5, the measurements of what is in use, and the events found. -/
def bootAgain (b : BootFacts) (s : State) : State :=
  let s1 := if s.spt.hd2 then s else bootRom b s
  match bootFirmware b s1 with
  | (s2, true) =>
    let s3 := logFound (measureSettings (measureMicrocode s2))
    let keys := if s3.spt.hd2 then (List.finRange 14).foldl (fun (v : Vector (Option DroneKey) 16) i =>
      v.set (i.val + 2) none) s3.drone.keys else s3.drone.keys
    { s3 with
      drone := { s3.drone with keys := keys }
      spt := { s3.spt with ready := true, standbyOk := !s3.spt.hd2 && b.standbyOk } }
  | (s2, false) => s2

end Sys2Proof.Machine
end

