-- ==== Sys2Proof/Machine/Power.lean ====
section
/-! DEFINITION. Input power, the rails and reset (R429, R433, R453 to R456), and the sideband bus (R460 to R463). -/

namespace Sys2Proof.Machine

/-! ## Rails and reset -/

/-- The module is held after a shutdown or a power-stage fault. -/
def held (s : State) : Bool := s.capo.shutdown || s.capo.stageFault

/-- R454: a rail that Capo has turned off in P3 does not count. -/
def railsOk (s : State) : Bool :=
  (s.capo.rails[0] || s.capo.state = 3) && s.capo.rails[1] && s.capo.rails[2] && s.capo.rails[3]

def powerGood (s : State) : Bool := s.clk.powered && railsOk s && !s.capo.uv && !held s

def allRails : Vector Bool 4 := #v[true, true, true, true]

/-- The module stands without its rails: it has no input, or an input that fell before step 6 has turned them off (R453). -/
def railsDown (s : State) : Bool := !s.clk.powered || (!s.capo.rails[2] && !held s)

/-- Table 17.4, steps 1 to 5: the rails come up, and the device waits in reset; step 2 samples SMB_ADDR (R460). -/
def powerUp (s : State) (strap : BitVec 2) : State :=
  if railsDown s then { s with
    clk := { powered := true, inReset := true }
    capo := { vin := s.capo.vin, rails := allRails }
    sb := { addr := 0x58 + strap.setWidth 7 } }
  else s

/-- RESET_N low (R455). A module that is held comes up again from step 3 of Table 17.4. -/
def resetPin (s : State) : State :=
  if !s.clk.powered then s
  else
    let s1 := resetDevice (flushRwp s)
    { s1 with capo := { vin := s.capo.vin, rails := if railsDown s then s.capo.rails else allRails, uv := s.capo.uv } }

/-- The release of reset, with PWR_GOOD high: the PLLs lock, and the boot runs. -/
def releaseReset (s : State) (b : BootFacts) : State :=
  if s.clk.inReset && powerGood s then
    bootAll b (startLinks <| reload b { s with now := 0, clk := { live := BitVec.allOnes 27, powered := true, inReset := false } })
  else s

/-- A write that power loss cuts leaves the old value or the new one, whole (R16): which is a free value. -/
def cutWrite (s : State) (w : RwpWrite) : State :=
  let (x, s1) := s.draw
  let s2 := { s1 with tpc := { s1.tpc with cut := true } }
  match Reg.at? w.off with
  | some r => if bit x 0 then programWord s2 r w.value else s2
  | none => s2

/-- R403: power that fails while a slot is being written leaves it invalid. Whether a SLOT_WRITE that runs has come to its
writing by then the spec does not time: a free value says. -/
def cutSlot (s : State) (p : EPort) : State :=
  match boxRuns s p 0x10 with
  | some m =>
    let (x, s1) := s.draw
    if bit x 0 && m.arg 1 < 2 && m.arg 1 ≠ (if s.spt.slot then 1 else 0) then
      { s1 with spt := { s1.spt with slotCut := s1.spt.slotCut.setIfInBounds (m.arg 1) true } }
    else s1
  | none => s

def cutSlots (s : State) : State := cutSlot (cutSlot s 0) 1

/-- BROWN_OUT (R456). -/
def brownOut (s : State) : State :=
  if !s.clk.powered then s
  else
    let s1 := resetDevice ((s.tpc.active).foldl cutWrite (cutSlots s))
    { s1 with clk := {}, capo := {}, sb := { addr := s.sb.addr } }

/-- R429: the shutdown of the device, which RESET_N or a power cycle ends. -/
def shutDown (s : State) (unit temp : Nat) (stage : Bool) : State :=
  if !s.clk.powered || held s then s
  else
    let s1 := flushRwp (forceAllBanks (s.logRec 14 3 4 unit temp))
    let s2 := resetDevice s1
    let s3 := { s2 with capo := { vin := s.capo.vin, rails := #v[false, false, true, true], shutdown := true, uv := s.capo.uv,
                                   stageFault := stage, stages := s1.capo.stages } }
    sbEvent s3 3

/-- The hottest compute or hub die, and its temperature. -/
def hottest (s : State) : Nat × Nat :=
  (List.finRange 12).foldl (fun m i => if m.2 < (s.spt.cur[i.val]).toNat then (i.val, (s.spt.cur[i.val]).toNat) else m)
    (0, 0)

/-- The unit that keeps a halt: a Critical stack, else the hottest die. -/
def haltUnit (s : State) : Nat × Nat :=
  match (List.finRange 24).find? fun n => (s.st.hbms[n.val]).therm = 3 with
  | some n => (12 + n.val, (s.st.hbms[n.val]).temp.toNat)
  | none => hottest s

/-- THERMAL_SHUTDOWN: the halt has lasted trip_s. -/
def haltExpired (s : State) : State :=
  if s.capo.tripHalt then shutDown s (haltUnit s).1 (haltUnit s).2 false else s

/-- HBM_CRITICAL_TIMEOUT. -/
def criticalTooLong (s : State) (n : Stack) : State :=
  let x := s.st.hbms[n.val]
  if x.therm = 3 then beginTrip s (12 + n.val) x.temp.toNat else s

/-- CAPO_COMPARATOR: a die at 125 °C. -/
def comparator (s : State) (d : Fin 12) : State :=
  if s.clk.powered && !s.clk.inReset then shutDown (beginTrip s d.val 125) d.val 125 false else s

/-- POWER_STAGE_FAULT (R433): as a trip halt that has reached trip_s. -/
def stageFails (s : State) (r : Fin 4) (stage : Nat) : State :=
  if !s.clk.powered || held s then s
  else
    let s1 := { s with capo := { s.capo with stages := s.capo.stages.set r.val true } }
    let s2 := sbEvent ((s1.raiseBits (.capo .evt) 8).logRec 14 3 8 r.val stage) 4
    shutDown s2 (haltUnit s).1 (haltUnit s).2 true

/-- INPUT_UNDERVOLTAGE (R430); before step 6 of Table 17.4 the rails go off (R453). -/
def underVoltage (s : State) (mv : BitVec 16) : State :=
  if s.clk.powered && s.clk.inReset && !held s && mv.toNat < 40000 then
    { s with capo := { s.capo with vin := mv, rails := Vector.replicate 4 false } }
  else if s.clk.powered && !s.clk.inReset && mv.toNat < 40000 && !s.capo.uv then
    let s1 := forceAllBanks { s with capo := { s.capo with uv := true, vin := mv } }
    sbEvent ((s1.raiseBits (.capo .evt) 4).logRec 14 3 5 mv.toNat 0) 1
  else s

/-- The device resumes: the banks come back, but in P2 and P3, where they are off. -/
def voltageBack (s : State) : State :=
  if !s.capo.uv then s
  else
    let s1 := { s with capo := { s.capo with uv := false } }
    if 2 ≤ s.capo.state.val then s1 else banksOn s1

/-! ## The sideband -/

/-- The controller answers while the input is at or above 36.0 V (R452). -/
def sbAnswer (s : State) (bs : List Byte) : State := if s.clk.powered then s.emit (.sideband bs) else s

def sbNack (s : State) : State := if s.clk.powered then s.emit .nack else s

def statusWord (s : State) : Word :=
  fld 0 s.capo.state.val ||| flag 2 (powerGood s) ||| flag 3 s.spt.ready ||| flag 4 s.spt.recovery
    ||| flag 5 s.capo.tripHalt ||| flag 6 s.capo.uv ||| flag 7 s.capo.shutdown ||| flag 8 s.capo.stageFault

def hottestStack (s : State) : Byte :=
  s.st.hbms.toList.foldl (fun m x => if m.toNat < x.temp.toNat then x.temp else m) 0

/-- A read or a write-1-to-clear of EVT; bits with an event in the same sample stay set (`ties`). -/
def sbEvt (s : State) (clear : Option (BitVec 8)) (ties : BitVec 8) (pecOk : Bool) : State :=
  match clear with
  | none => sbAnswer s [s.sb.evt]
  | some c =>
    if !s.clk.powered then s
    else if pecOk then { s with sb := { s.sb with evt := s.sb.evt &&& ~~~ (c &&& ~~~ ties) } } else sbNack s

/-- R462, R463: a recovery command: a bad PEC refuses it, and outside recovery it is ignored. -/
def recoveryWrite (s : State) (pecOk : Bool) (f : State → State) : State :=
  if !s.clk.powered then s
  else if !pecOk then sbNack s
  else if !s.spt.recovery then { s with sb := { s.sb with rcvStatus := 0x80 } }
  else f s

/-- The place in the image store of an offset of the slot that recovery writes. -/
def rcvPlace (s : State) (o : Nat) : Nat := (if s.sb.rcvSlot then 0x1000000 else 0) + o

/-- RCV_DATA: bytes beyond the slot are not written. -/
def writeRecovery (data : List Byte) (s : State) : State :=
  let s1 := if s.sb.rcvAddr + 32 ≤ 0x1000000 then
      { s with spt := { s.spt with store := putBytes s.spt.store (rcvPlace s s.sb.rcvAddr) data
                                   slotCut := s.spt.slotCut.setIfInBounds (if s.sb.rcvSlot then 1 else 0) false } }
    else s
  { s1 with sb := { s1.sb with rcvAddr := s1.sb.rcvAddr + 32 } }

/-- The first image of a slot that fails, and its status. -/
def firstFailure (s : State) (slot : Bool) (b : BootFacts) : Nat :=
  (List.finRange 4).foldl (fun v k => if v ≠ 0 then v else (bootImage s b slot k).status.toNat) 0

/-- The boot after a recovery checks the slot that recovery wrote with the outcomes that RCV_GO found. -/
def withSigs (b : BootFacts) (slot : Bool) (sigs : Vector SigFacts 4) : BootFacts :=
  { b with sigs := Vector.ofFn fun i => if (4 ≤ i.val) = slot then sigs[i.val % 4] else b.sigs[i.val] }

/-- RCV_GO: the slot is verified, becomes the preferred one, and the boot starts again. PAs that run a program are not
started again (log entry 33). -/
def recoveryGo (v : BitVec 8) (sigs : Vector SigFacts 4) (facts : BootFacts) (s : State) : State :=
  if v ≠ 0xA5 then s
  else
    let b := withSigs facts s.sb.rcvSlot sigs
    let st := firstFailure s s.sb.rcvSlot b
    let s1 := { s with sb := { s.sb with rcvDone := true, rcvStatus := BitVec.ofNat 8 st } }
    if st ≠ 0 then s1
    else
      let s2 := programWord s1 (.spt .boot) (if s1.sb.rcvSlot then 1 else 0)
      let s3 := { s2 with spt := { s2.spt with recovery := false, fallback := false } }
      if s3.pas.any (·.online) then bootAgain b s3 else bootAll b s3

def rcvStatWord (s : State) : Nat :=
  (if s.sb.rcvBusy then 1 else 0) + (if s.sb.rcvDone then 2 else 0) + s.sb.rcvStatus.toNat * 256

/-- The codes of Table 17.9. -/
def sbListed (c : Nat) : Bool := c ≤ 4 || (0x10 ≤ c && c ≤ 0x14)

/-! ## The commands -/

def execInputPowerUp (strap : BitVec 2) (s : State) : Host.Outcome State Fault Refusal := .next (powerUp s strap)

/-- RESET_N_ASSERT. -/
def execResetNAssert (s : State) : Host.Outcome State Fault Refusal := .next (resetPin s)

def execResetRelease (boot : BootFacts) (s : State) : Host.Outcome State Fault Refusal := .next (releaseReset s boot)

def execBrownOut (s : State) : Host.Outcome State Fault Refusal := .next (brownOut s)

def execHbmCriticalTimeout (n : Stack) (s : State) : Host.Outcome State Fault Refusal := .next (criticalTooLong s n)

def execThermalShutdown (s : State) : Host.Outcome State Fault Refusal := .next (haltExpired s)

def execCapoComparator (d : Fin 12) (s : State) : Host.Outcome State Fault Refusal := .next (comparator s d)

def execPowerStageFault (r : Fin 4) (stage : BitVec 8) (s : State) : Host.Outcome State Fault Refusal :=
  .next (stageFails s r stage.toNat)

def execInputUndervoltage (mv : BitVec 16) (s : State) : Host.Outcome State Fault Refusal := .next (underVoltage s mv)

/-- UNDERVOLTAGE_RECOVERY. -/
def execUndervoltageRecovery (s : State) : Host.Outcome State Fault Refusal := .next (voltageBack s)

/-- IDENT: GLB_ID, then GLB_SERIAL. -/
def execIdent (s : State) : Host.Outcome State Fault Refusal :=
  .next (sbAnswer s (leBytes 8 (readGlb s .id).toNat ++ leBytes 8 (readGlb s .serial).toNat))

/-- STATUS. -/
def execStatus (s : State) : Host.Outcome State Fault Refusal := .next (sbAnswer s (leBytes 2 (statusWord s).toNat))

/-- TEMP's block: the dies, then the hottest stack; zero while the device is in reset. -/
def tempBlock (s : State) : List Byte :=
  if s.clk.inReset then List.replicate 13 0 else s.spt.cur.toList ++ [hottestStack s]

/-- TEMP. -/
def execTemp (s : State) : Host.Outcome State Fault Refusal := .next (sbAnswer s (tempBlock s))

/-- POWER: pin_w, then vin_mv. -/
def execPower (s : State) : Host.Outcome State Fault Refusal :=
  .next (sbAnswer s (leBytes 2 (avgPower s) ++ leBytes 2 s.capo.vin.toNat))

def execEvt (clear : Option (BitVec 8)) (ties : BitVec 8) (pecOk : Bool) (s : State) : Host.Outcome State Fault Refusal :=
  .next (sbEvt s clear ties pecOk)

/-- RCV_SLOT: a slot other than 0 and 1 is ignored. -/
def execRcvSlot (v : BitVec 8) (pecOk : Bool) (s : State) : Host.Outcome State Fault Refusal :=
  .next (recoveryWrite s pecOk fun s => if v.toNat < 2 then { s with sb := { s.sb with rcvSlot := v = 1 } } else s)

/-- RCV_ADDR. -/
def execRcvAddr (v : BitVec 32) (pecOk : Bool) (s : State) : Host.Outcome State Fault Refusal :=
  .next (recoveryWrite s pecOk fun s => { s with sb := { s.sb with rcvAddr := v.toNat } })

def execRcvData (data : Vector Byte 32) (pecOk : Bool) (s : State) : Host.Outcome State Fault Refusal :=
  .next (recoveryWrite s pecOk (writeRecovery data.toList))

def execRcvGo (v : BitVec 8) (sigs : Vector SigFacts 4) (boot : BootFacts) (pecOk : Bool) (s : State) :
    Host.Outcome State Fault Refusal :=
  .next (recoveryWrite s pecOk (recoveryGo v sigs boot))

/-- RCV_STAT. -/
def execRcvStat (s : State) : Host.Outcome State Fault Refusal := .next (sbAnswer s (leBytes 2 (rcvStatWord s)))

/-- ALERT_RESPONSE_ADDRESS: the controller's own address. -/
def execAlertResponseAddress (s : State) : Host.Outcome State Fault Refusal :=
  .next (sbAnswer s [s.sb.addr.setWidth 8])

/-- SIDEBAND_UNLISTED_COMMAND. -/
def execSidebandUnlistedCommand (code : BitVec 8) (s : State) : Host.Outcome State Fault Refusal :=
  .next (if sbListed code.toNat then s else sbNack s)

end Sys2Proof.Machine
end

