-- ==== Sys2Proof/Machine/Windows.lean ====
section
/-! DEFINITION. Enumeration of a cascade (R344 to R346) and remote windows, at the owner and at the requester
(R347 to R350). -/

namespace Sys2Proof.Machine

/-! ## Enumeration -/

def programHere (s : State) : Bool := s.rp.prog.isSome || s.rp.load.isSome

/-- A token of the enumeration, from its fields. -/
def token (addr status : Nat) (arg : Word) : Packet where
  dst := 0
  src := 0
  ttl := 255
  tag := 0
  addr := BitVec.ofNat 64 addr
  len := 0
  status := BitVec.ofNat 32 status
  arg := arg
  data := []

def sendToken (s : State) (n : BPort) (k : PktKind) (t : Packet) : State := putPacket s n k.code t

/-- An attempt ends at its master with a status other than that of a commit it has applied. -/
def enumFailed (s : State) (st : Nat) : State :=
  ({ s with brg := { s.brg with enumStatus := BitVec.ofNat 4 st, enumPhase := .none, enumAddr := none, sawMaster := false } }
    |>.raiseBits (.sys .evt) 2).logRec 7 0 6 0 st

/-- R344, R461: the enumeration starts. -/
def startEnum (s : State) : State :=
  if !isMaster s || s.brg.enumPhase ≠ .none then s
  else if programHere s then enumFailed s 1
  else if s.brg.ports[1].st ≠ .up then enumFailed s 5
  else
    let s1 := { s with brg := { s.brg with enumPhase := .assigning, enumAddr := some 0, sawMaster := false, ringClosed := false } }
    sendToken s1 1 .assign (token 1 0 Config.serial)

/-- R346: a commit with status 0 closes every window and returns every round to 0; `err` tells of the last enable. -/
def clearWindows (s : State) : State :=
  let s1 := (List.finRange 16).foldl (fun s i => s.putRegField (.sys (.winCtl i)) 0 1 0) s
  { s1 with brg := { s1.brg with
      windows := s1.brg.windows.map fun w => { err := w.err }
      peers := []
      withdrawing := []
      reds := s1.brg.reds.map fun r => { r with round := 0 } } }

/-- The status of a commit applied on this device. -/
def applyCommit (s : State) (n st : Nat) (closed : Bool) : State :=
  if st = 0 then
    let addr := match s.brg.enumAddr with
      | some a => BitVec.ofNat 9 (a % 256 + 256)
      | none => s.brg.devaddr
    let s1 := clearWindows { s with brg := { s.brg with
      devaddr := addr, enumAddr := none, sysCount := n, ringClosed := closed, enumStatus := 0 } }
    let s2 := (s1.raiseBits (.sys .evt) 1).logRec 7 0 6 0 0
    (List.finRange 8).foldl checkWiring s2
  else
    ({ s with brg := { s.brg with enumAddr := none, enumStatus := BitVec.ofNat 4 st } }.raiseBits (.sys .evt) 2).logRec 7 0 6 0 st

/-- R345, step 3: the status that the returned error bits give. -/
def enumResult (s : State) (bits : Nat) : Nat :=
  if bits.testBit 0 then 1 else if bits.testBit 1 then 2 else if bits.testBit 2 ∨ s.brg.sawMaster then 3 else 0

/-- The master commits. -/
def commitEnum (s : State) (n bits : Nat) (closed : Bool) : State :=
  let st := enumResult s bits
  let s1 := applyCommit { s with brg := { s.brg with enumPhase := .committing } } n st closed
  sendToken s1 1 .commit (token n st (if closed then 1 else 0))

/-- The attempt of the master is over. -/
def endEnum (s : State) : State := { s with brg := { s.brg with enumPhase := .none, sawMaster := false } }

/-- An ASSIGN from another device: the pending address and the error bits (R345, step 2). -/
def takeAssign (s : State) (t : Packet) : State :=
  let v := t.addr.toNat
  let bits := (if 256 ≤ v then 2 else 0) ||| (if programHere s then 1 else 0) ||| (if isMaster s then 4 else 0)
  let s1 := { s with brg := { s.brg with
    enumAddr := if v < 256 then some v else none
    sawMaster := s.brg.sawMaster || isMaster s } }
  let s2 := if isMaster s then s1.raiseBits (.sys .evt) 4 else s1
  let t1 := token (v + 1) (t.status.toNat ||| bits) t.arg
  if s2.brg.ports[1].st = .up then sendToken s2 1 .assign t1 else sendToken s2 0 .endTok t1

/-- ASSIGN, on BRG0. -/
def recvAssign (s : State) (t : Packet) : State :=
  if t.arg = Config.serial then
    (if s.brg.enumPhase = .assigning then commitEnum s t.addr.toNat t.status.toNat true else s)
  else takeAssign s t

/-- END, on BRG1: the master's own ends its first pass; another's goes back on BRG0. -/
def recvEnd (s : State) (t : Packet) : State :=
  if t.arg = Config.serial then
    (if s.brg.enumPhase = .assigning then commitEnum s t.addr.toNat t.status.toNat false else s)
  else sendToken s 0 .endTok t

/-- COMMIT, on BRG0: the master's own has come round; any other is applied and passed on. -/
def recvCommit (s : State) (t : Packet) : State :=
  if s.brg.enumPhase = .committing then endEnum s
  else
    let s1 := applyCommit s t.addr.toNat t.status.toNat (bit t.arg 0)
    if s1.brg.ports[1].st = .up then sendToken s1 1 .commit t else sendToken s1 0 .cend t

/-- CEND, on BRG1. -/
def recvCend (s : State) (t : Packet) : State :=
  if s.brg.enumPhase = .committing then endEnum s else sendToken s 0 .cend t

/-- R345: a token has not returned within 100 ms. -/
def timeoutEnum (s : State) : State :=
  if s.brg.enumPhase = .none then s
  else sendToken (enumFailed s 4) 1 .commit (token s.brg.sysCount 4 0)

/-! ## Windows at their owner -/

/-- The byte range of an own window within the device's Bridge window. -/
def winOff (s : State) (i : Fin 16) : Nat := s.regField (.sys (.winLim i)) 0 24 * 4096
def winSize (s : State) (i : Fin 16) : Nat := (s.regField (.sys (.winLim i)) 24 24 + 1) * 4096
def winBase (s : State) (i : Fin 16) : Nat := floorTo (s.regField (.sys (.winBase i)) 0 48) 4096
def winOn (s : State) (i : Fin 16) : Bool := s.regBit (.sys (.winCtl i)) 0
def winLo (s : State) (i : Fin 16) : Nat := s.regField (.sys (.winCtl i)) 8 8
def winHi (s : State) (i : Fin 16) : Nat := s.regField (.sys (.winCtl i)) 16 8

/-- The owner serves the window: it is enabled, or a peer has still to acknowledge its closing (R348). -/
def winServed (s : State) (i : Fin 16) : Bool := winOn s i || s.brg.windows[i.val].closing

def setWindow (s : State) (i : Fin 16) (w : OwnWindow) : State :=
  { s with brg := { s.brg with windows := s.brg.windows.set i.val w } }

/-- R347: the conditions of an enable. -/
def winOk (s : State) (i : Fin 16) : Bool :=
  let local_ := match region s (winBase s i) with
    | .hbm => populated s (winBase s i) (winSize s i) true
    | .spm _ _ => populated s (winBase s i) (winSize s i) true
    | _ => false
  (ownAddr s).isSome && winOff s i + winSize s i ≤ bridgeSize && local_
    && (List.finRange 16).all fun k => k = i || !winOn s k || !overlap (winOff s i) (winSize s i) (winOff s k) (winSize s k)

/-- The peers that the window permits: every device of the cascade from src_lo to src_hi but this one. -/
def winPeers (s : State) (i : Fin 16) : List Nat :=
  (upFrom (winLo s i) (winHi s i + 1 - winLo s i)).filter fun a => a < s.brg.sysCount && ownAddr s ≠ some a

/-- ANNOUNCE carries the window's range and permissions; it and WITHDRAW name the window in addr (log entry 20). -/
def announceData (s : State) (i : Fin 16) : List Byte :=
  leBytes 8 (winOff s i) ++ leBytes 8 (winSize s i) ++ byte1 (s.regField (.sys (.winCtl i)) 1 2)

def tellPeers (k : PktKind) (i : Fin 16) (data : List Byte) (s : State) : State :=
  (winPeers s i).foldl (fun s a => sendPacket s k (newPacket s a 0 i.val 0 0 data)) s

/-- WINDOW_OPEN: the enable of a window whose fields stand. -/
def openWindow (s : State) (i : Fin 16) : State :=
  if winOn s i || s.brg.windows[i.val].closing then s
  else if winOk s i then
    let peers := winPeers s i
    let s1 := setWindow (s.putRegField (.sys (.winCtl i)) 0 1 1) i { isOpen := peers.isEmpty, waiting := peers }
    tellPeers .announce i (announceData s i) s1
  else (setWindow s i { s.brg.windows[i.val] with err := true }).raiseBits (.sys .evt) 8

/-- WINDOW_CLOSE. -/
def shutWindow (s : State) (i : Fin 16) : State :=
  if winOn s i then
    let peers := winPeers s i
    let s1 := setWindow (s.putRegField (.sys (.winCtl i)) 0 1 0) i { closing := !peers.isEmpty, waiting := peers }
    tellPeers .withdraw i (announceData s i) s1
  else s

/-- WINACK: `arg` says which message it answers. -/
def recvWinack (s : State) (t : Packet) : State :=
  let i : Fin 16 := Fin.ofNat 16 t.addr.toNat
  let w := s.brg.windows[i.val]
  let wait := if w.closing then PktKind.withdraw else PktKind.announce
  if t.arg.toNat ≠ wait.code.toNat ∨ w.waiting.isEmpty then s
  else
    let left := w.waiting.filter (· ≠ t.src.toNat)
    if left.isEmpty then setWindow s i { w with isOpen := !w.closing, closing := false, waiting := [] }
    else setWindow s i { w with waiting := left }

/-! ## A request at the owner (R350) -/

/-- The window that grants a request, and the local address. -/
def winGrant (s : State) (src off n : Nat) (wr : Bool) : Option Nat :=
  ((List.finRange 16).find? fun i =>
    winServed s i && inside off n (winOff s i) (winSize s i) && winLo s i ≤ src && src ≤ winHi s i
      && s.regBit (.sys (.winCtl i)) (if wr then 2 else 1)).map fun i => winBase s i + (off - winOff s i)

/-- The answer to a request, on its route; a device without an address answers on the port that brought it. -/
def answerPacket (s : State) (n : BPort) (k : PktKind) (t : Packet) (status : Nat) (data : List Byte) : State :=
  let r := newPacket s t.src.toNat t.tag t.addr.toNat 0 status data
  match ownAddr s with
  | some _ => sendPacket s k r
  | none => putPacket s n k.code r

/-- The bytes that an RD asks for. -/
def rdSize (t : Packet) : Nat := if t.len = 0 then t.arg.toNat else t.len.toNat

/-- The kind of the answer to a read or a write. -/
def answerKind (wr : Bool) : PktKind := if wr then .wack else .rdr

def OwedWin.act (w : OwedWin) : Access := if w.wr then .write w.pkt.data else .read (rdSize w.pkt)

/-- The requests that wait at their homes, oldest first, as far as the homes take them (log entry 80). -/
def serveOwed : List OwedWin → State → State
  | [], s => { s with brg := { s.brg with owed := [] } }
  | w :: r, s => match serveNow 64 (.bridge w.port) .scratch s w.addr w.act with
    | .done s1 bs => serveOwed r (answerPacket s1 w.port (answerKind w.wr) w.pkt 0 (if w.wr then [] else bs))
    | .failed s1 _ => serveOwed r (answerPacket s1 w.port (answerKind w.wr) w.pkt 2 [])
    | .held s1 => { s1 with brg := { s1.brg with owed := w :: r } }

def settleOwed (s : State) : State := serveOwed s.brg.owed s

/-- The bytes of a request. -/
def ownerBytes (wr : Bool) (t : Packet) : Nat := if wr then t.data.length else rdSize t

/-- RD or WR at the owner: what its windows do not grant is refused, the rest is served behind the requests that wait. -/
def ownerTake (s : State) (n : BPort) (wr : Bool) (t : Packet) : State :=
  let z := ownerBytes wr t
  match winGrant s t.src.toNat t.addr.toNat z wr with
  | none => answerPacket s n (answerKind wr) t 1 []
  | some a =>
    if z = 0 ∨ 4096 < z ∨ !populated s a z wr ∨ (ownAddr s).isNone then answerPacket s n (answerKind wr) t 1 []
    else settleOwed { s with brg := { s.brg with owed := s.brg.owed ++ [{ port := n, wr := wr, pkt := t, addr := a }] } }

/-! ## A response at the requester -/

def dropWinReq (s : State) (tag : BitVec 32) : State :=
  { s with brg := { s.brg with winReqs := s.brg.winReqs.filter (·.tag ≠ tag) } }

/-- R350: a Bow unit whose window request failed ends its command with a deferred exception. -/
def failPiece (s : State) (p : Pa) (g : Tag) (e : Exc) (a : Nat) : State :=
  let c := cmdOf s p g
  let fpc := match c with
    | some c => c.fpc
    | none => 0
  let s1 := s.modPa p fun x => setCmd x g.cmd fun c => { c with left := [], aborted := true }
  let s2 := { s1 with brg := { s1.brg with winReqs := s1.brg.winReqs.filter fun r => !(r.pa = p && r.op = g.id && r.piece.isSome) } }
  if g.cancelled then freeTag s2 p g
  else if e = .window then freeTag (raiseDeferred s2 p g.thr { exc := e, addr := a } fpc false) p g
  else freeTag (abortCmd s2 p g a []) p g

/-- The data of a read, in its piece of a unit. -/
def fillPiece (s : State) (p : Pa) (id k : Nat) (bs : List Byte) : State :=
  s.modPa p fun x => { x with bow := { x.bow with tags := x.bow.tags.map fun g =>
    if g.id = id then { g with unit := { g.unit with pieces := modifyAt (fun y => { y with src := .lit bs }) g.unit.pieces k } } else g } }

/-- The address that a piece has in a Bridge window. -/
def pieceAddr (g : Tag) (k : Nat) : Nat :=
  match g.unit.pieces[k]? with
  | some y => match y.src with
    | .mem a => a
    | _ => y.dst
  | none => 0

/-- A window request ends with an exception. -/
def failWindow (s : State) (r : WinReq) (e : Exc) : State :=
  match r.piece with
  | some k => match (s.pa r.pa).bow.tags.find? (·.id = r.op) with
    | some g => failPiece s r.pa g e (pieceAddr g k)
    | none => s
  | none => match (s.pa r.pa).ops.find? (·.id = r.op) with
    | some o => abortWith s r.pa o e (match o.acc with | some m => m.addr | none => 0) false
    | none => s

/-- A window request is answered with its data. -/
def answerWindow (s : State) (r : WinReq) (bs : List Byte) : State :=
  match r.piece with
  | some k => if bs.isEmpty then s else fillPiece s r.pa r.op k bs
  | none => match (s.pa r.pa).ops.find? (·.id = r.op) with
    | some o => match o.acc with
      | some m => setOp s r.pa o.id (Op.answered m bs)
      | none => s
    | none => s

/-- An access under an entry of the peer window table that has passed its check and not completed. -/
def underEntry (s : State) (dev lo n : Nat) : Bool :=
  let hit := fun (a k : Nat) => match region s a with
    | .bridge d off => d = dev && overlap off k lo n
    | _ => false
  let unitHit := fun (u : BowUnit) => u.pieces.any fun k => hit k.dst k.len || (match k.src with | .mem a => hit a k.len | _ => false)
  s.pas.toList.any fun x =>
    (x.ops.any fun o => match o.acc with | some m => !m.done && hit m.addr m.size | none => false)
      || (x.bow.queue.any fun c => c.left.any unitHit) || (x.bow.tags.any fun g => unitHit g.unit)

/-- The answer of a withdrawal whose accesses have completed. -/
def answerWithdraw (s : State) (n : BPort) (t : Packet) : State :=
  let r := newPacket s t.src.toNat t.tag t.addr.toNat PktKind.withdraw.code.toNat 0 []
  match ownAddr s with
  | some _ => sendPacket s .winack r
  | none => putPacket s n PktKind.winack.code r

/-- R348: withdrawals whose accesses have completed are answered. A waiting packet holds the entry's range. -/
def settleWithdraw (s : State) : State :=
  let busy := fun (w : BPort × Packet) => underEntry s w.2.src.toNat (numAt w.2.data 0 8) (numAt w.2.data 8 8)
  let s1 := { s with brg := { s.brg with withdrawing := s.brg.withdrawing.filter busy } }
  (s.brg.withdrawing.filter fun w => !busy w).foldl (fun s w => answerWithdraw s w.1 w.2) s1

/-- RDR and WACK. -/
def recvResponse (s : State) (t : Packet) : State :=
  match s.brg.winReqs.find? (·.tag = t.tag) with
  | none => s
  | some r =>
    let s1 := dropWinReq s t.tag
    settleWithdraw (match t.status.toNat with
      | 0 => answerWindow s1 r t.data
      | 1 => failWindow s1 r .window
      | _ => failWindow s1 r .ecc)

/-- WINDOW_RESPONSE_TIMEOUT: the request of instruction or Bow unit `n` of a PA. -/
def timeoutRequest (s : State) (p : Pa) (n : Nat) : State :=
  match s.brg.winReqs.find? fun r => r.pa = p && r.op = n with
  | none => s
  | some r => settleWithdraw (failWindow (dropWinReq s r.tag) r .ecc)

/-! ## The peer window table (R348) -/

/-- ANNOUNCE. -/
def recvAnnounce (s : State) (n : BPort) (t : Packet) : State :=
  let i := t.addr.toNat
  let perm := numAt t.data 16 1
  let e : PeerWindow := { owner := t.src, index := i, off := numAt t.data 0 8, size := numAt t.data 8 8, rd := perm.testBit 0, wr := perm.testBit 1 }
  let s1 := { s with brg := { s.brg with peers := (s.brg.peers.filter fun w => !(w.owner = t.src && w.index = i)) ++ [e] } }
  let r := newPacket s1 t.src.toNat t.tag i PktKind.announce.code.toNat 0 []
  match ownAddr s with
  | some _ => sendPacket s1 .winack r
  | none => putPacket s1 n PktKind.winack.code r

/-- WITHDRAW: the entry goes at once; the answer waits for the accesses that it let pass. -/
def recvWithdraw (s : State) (n : BPort) (t : Packet) : State :=
  let i := t.addr.toNat
  let mine := fun (w : PeerWindow) => w.owner = t.src && w.index = i
  let range := match s.brg.peers.find? fun w => mine w with
    | some w => leBytes 8 w.off ++ leBytes 8 w.size
    | none => []
  let s1 := { s with brg := { s.brg with
    peers := s.brg.peers.filter fun w => !mine w
    withdrawing := s.brg.withdrawing ++ [(n, { t with data := range })] } }
  settleWithdraw s1

/-! ## Packets that arrive -/

/-- A packet of vc 0, at this device. -/
def deliverPacket (s : State) (n : BPort) (k : PktKind) (t : Packet) : State :=
  match k with
  | .rd => ownerTake s n false t
  | .wr => ownerTake s n true t
  | .rdr => recvResponse s t
  | .wack => recvResponse s t
  | .announce => recvAnnounce s n t
  | .withdraw => recvWithdraw s n t
  | .winack => recvWinack s t
  | .assign => if n = 0 then recvAssign s t else s
  | .endTok => if n = 1 then recvEnd s t else s
  | .commit => if n = 0 then recvCommit s t else s
  | .cend => if n = 1 then recvCend s t else s
  -- the packets of a round have rows of their own
  | .rhdr => s
  | .abort => s
  | .restart => s

/-- Enumeration tokens go from neighbour to neighbour. -/
def PktKind.hopwise : PktKind → Bool
  | .assign => true | .endTok => true | .commit => true | .cend => true
  | _ => false

/-- R343: a packet for another device goes on by its route; its ttl counts the hops. -/
def forwardPacket (s : State) (n : BPort) (k : PktKind) (t : Packet) (a : Nat) : State :=
  if t.ttl.toNat ≤ 1 then s else putPacket s (routeOn a t.dst.toNat n) k.code { t with ttl := t.ttl - 1 }

/-- A packet in P0: it is for this device, or goes on. -/
def routePacket (s : State) (n : BPort) (k : PktKind) (t : Packet) : State :=
  if k.hopwise then deliverPacket s n k t
  else match ownAddr s with
    | some a => if t.dst.toNat = a then deliverPacket s n k t else forwardPacket s n k t a
    | none => deliverPacket s n k t

def kindOfCode (c : BitVec 8) : Option PktKind :=
  [PktKind.rd, .wr, .rdr, .wack, .assign, .endTok, .commit, .cend, .announce, .withdraw, .winack].find? fun k => k.code = c

/-- A packet arrives on a port. Outside P0 it is a wake event and is served by the wake (R425). -/
def arrivePacket (s : State) (n : BPort) (k : PktKind) (t : Packet) : State :=
  let x := s.brg.ports[n.val]
  if x.st ≠ .up ∨ (x.miswired ∧ !k.hopwise) then s
  else
    let s1 := s.portBytes (Fin.ofNat 76 (2 + n.val)) false t.data.length
    if asleep s1 then
      let s2 := beginWake s1
      { s2 with capo := { s2.capo with heldPkts := s2.capo.heldPkts ++ [(n, k.code, t)] } }
    else routePacket s1 n k t

/-- The packets that a wake serves. -/
def servePackets (s : State) : State :=
  let l := s.capo.heldPkts
  l.foldl (fun s e => match kindOfCode e.2.1 with
    | some k => routePacket s e.1 k e.2.2
    | none => s) { s with capo := { s.capo with heldPkts := [] } }

/-! ## The rows -/

def execRd (n : BPort) (pkt : Packet) (s : State) : Host.Outcome State Fault Refusal := .next (arrivePacket s n .rd pkt)
def execWr (n : BPort) (pkt : Packet) (s : State) : Host.Outcome State Fault Refusal := .next (arrivePacket s n .wr pkt)
def execRdr (n : BPort) (pkt : Packet) (s : State) : Host.Outcome State Fault Refusal := .next (arrivePacket s n .rdr pkt)
def execWack (n : BPort) (pkt : Packet) (s : State) : Host.Outcome State Fault Refusal := .next (arrivePacket s n .wack pkt)

def execWindowResponseTimeout (p : Pa) (n : Nat) (s : State) : Host.Outcome State Fault Refusal := .next (timeoutRequest s p n)

def execAssign (n : BPort) (pkt : Packet) (s : State) : Host.Outcome State Fault Refusal := .next (arrivePacket s n .assign pkt)
def execEndTok (n : BPort) (pkt : Packet) (s : State) : Host.Outcome State Fault Refusal := .next (arrivePacket s n .endTok pkt)
def execCommit (n : BPort) (pkt : Packet) (s : State) : Host.Outcome State Fault Refusal := .next (arrivePacket s n .commit pkt)
def execCend (n : BPort) (pkt : Packet) (s : State) : Host.Outcome State Fault Refusal := .next (arrivePacket s n .cend pkt)

/-- ENUMERATION_START: the write of BRG_SYS_CTL.enum. -/
def execEnumerationStart (s : State) : Host.Outcome State Fault Refusal := .next (startEnum s)

/-- AUTO_ENUM_START: once after a reset. -/
def execAutoEnumStart (s : State) : Host.Outcome State Fault Refusal :=
  .next (if bit (s.rwp (.sys .cfg)) 1 && s.brg.ports[1].st = .up && !s.brg.autoEnumDone then
    startEnum { s with brg := { s.brg with autoEnumDone := true } } else s)

def execEnumerationTimeout (s : State) : Host.Outcome State Fault Refusal := .next (timeoutEnum s)

/-- MSTR_SEL_CHANGE. -/
def execMstrSelChange (level : Bool) (s : State) : Host.Outcome State Fault Refusal :=
  .next { s with brg := { s.brg with mstrPin := level } }

def execWindowOpen (i : Fin 16) (s : State) : Host.Outcome State Fault Refusal := .next (openWindow s i)
def execWindowClose (i : Fin 16) (s : State) : Host.Outcome State Fault Refusal := .next (shutWindow s i)
def execAnnounce (n : BPort) (pkt : Packet) (s : State) : Host.Outcome State Fault Refusal := .next (arrivePacket s n .announce pkt)
def execWithdraw (n : BPort) (pkt : Packet) (s : State) : Host.Outcome State Fault Refusal := .next (arrivePacket s n .withdraw pkt)
def execWinack (n : BPort) (pkt : Packet) (s : State) : Host.Outcome State Fault Refusal := .next (arrivePacket s n .winack pkt)

end Sys2Proof.Machine
end

