-- ==== Sys2Proof/Machine/Capo.lean ====
section
/-! DEFINITION. Loss of lock and recovery from it (R32, R38, R400), and Capo: the power states (R418 to R426) and the power
limit (R427, R428). -/

namespace Sys2Proof.Machine

/-! ## Loss of lock (R32, Table 14.2) -/

/-- A thread ends with EXC_ECC; no handler takes it (R136). -/
def lockThread (s : State) (p : Pa) (t : Thr) : State :=
  if (s.thr p t).active then
    let s1 := ((s.pa p).ops.filter fun o => o.thr = t).foldl (fun s o => abortOp s p o) (countExc s p t .ecc)
    (s1.modThr p t fun y => { y with exc := latch y.exc { exc := .ecc } true (y.st = .handler) y.pc y.pc }).modPa p
      fun x => settleThread .ecc true t x
  else s

/-- The resident program stops. -/
def lockProgram (s : State) : State :=
  match s.rp.prog with
  | none => s
  | some q =>
    if q.status ≠ .running then s
    else
      let s1 := withdrawExports <| failRounds 7 { s with rp := { s.rp with chords := Vector.replicate 4 [] } }
      let s2 := (List.finRange 4).foldl abortGroup s1
      let who := (maskPas q.mask).flatMap fun p =>
        ((List.finRange 8).filter fun t => (s2.thr p t).active).map fun t => (p, t)
      let s3 := who.foldl (fun s e => lockThread s e.1 e.2) s2
      settlePas who s3

/-- A port whose hub or PLL is gone. -/
def dropEth (s : State) (e : EPort) : State :=
  { s with host := { s.host with eth := s.host.eth.set e.val { s.host.eth[e.val] with linkUp := false } } }

def dropBridge (s : State) (n : BPort) : State :=
  if s.brg.ports[n.val].st = .down then s else downPort s n

def dropCxl (s : State) (i : Fin 2) : State := if s.st.cxl[i.val].linkUp then cxlDown s i else s

def dropStacks (h : Hub) (s : State) : State :=
  (List.finRange 6).foldl (fun s i => s.modHbm (Fin.ofNat 24 (h.val * 6 + i.val)) fun x => { x with ready := false }) s

/-- Both Bridge ports of a hub die (Table 12.1). -/
def dropBridges (h : Hub) (s : State) : State :=
  dropBridge (dropBridge s (Fin.ofNat 8 (2 * h.val))) (Fin.ofNat 8 (2 * h.val + 1))

/-- The sixteen PAs of a compute die go offline. -/
def dropDie (d : Nat) (s : State) : State :=
  (List.finRange 16).foldl (fun s i => setOnline false s (Fin.ofNat 128 (16 * d + i.val))) s

/-- What lies on a hub die beside its slice and stacks. -/
def dropHub (h : Hub) (s : State) : State :=
  let s1 := dropBridges h (dropStacks h s)
  match h with
  | 0 => dropEth s1 0
  | 1 => dropCxl (dropEth s1 1) 0
  | 2 => s1
  | 3 => dropCxl s1 1

/-- The effects of a loss in PLL `k` (Table 1.14 numbers them). -/
def lossEffects (s : State) (k : Nat) : State :=
  if k < 8 then remeasure s (dropDie k (lockProgram s))
  else if k < 12 then dropHub (Fin.ofNat 4 (k - 8)) (lockProgram s)
  else if k < 16 then dropStacks (Fin.ofNat 4 (k - 12)) s
  else if k < 18 then dropEth s (Fin.ofNat 2 (k - 16))
  else if k < 22 then dropBridges (Fin.ofNat 4 (k - 18)) s
  else if k < 24 then dropCxl s (Fin.ofNat 2 (k - 22))
  else if k = 24 then s
  else if k = 25 then { s with spt := { s.spt with standbyOk := false } }
  else droneClockLost s

/-- R32: the sticky bit sets, the loss is logged, and its effects follow. -/
def loseLock (s : State) (k : Fin 27) : State :=
  let s1 := { s with clk := { s.clk with
    live := s.clk.live &&& ~~~ bitAt 27 k.val true
    sticky := s.clk.sticky ||| bitAt 27 k.val true } }
  lossEffects (s1.logRec 1 (if k.val < 16 then 3 else 2) (k.val + 1) 0 0) k.val

/-- PLL_LOSS_OF_LOCK. -/
def pllLost (s : State) (k : Fin 27) : State := if s.clk.live.getLsbD k.val then loseLock s k else s

/-- Contents of stacks whose refresh stopped are lost, and their cache lines go without write-back. -/
def loseStacks (h : Hub) (s : State) : State :=
  let mine := fun (a : Nat) => a < hbmEnd && hbmHub a = h
  let s1 := { s with mem := {
    bytes := s.mem.bytes.filter fun e => !mine e.1
    unc := s.mem.unc.filter fun a => !mine a
    uncBurst := s.mem.uncBurst.filter fun a => !mine a } }
  let s2 := s1.modSlice h fun x => { x with lines := [] }
  (List.finRange 6).foldl (fun s i => s.modHbm (Fin.ofNat 24 (h.val * 6 + i.val)) fun x => { x with ready := true }) s2

/-- PLL_RELOCK: a PLL that Capo stopped locks without more; the HBM controllers retrain their stacks, and the Drone's
jobs go on. -/
def pllBack (s : State) (k : Fin 27) : State :=
  if s.clk.live.getLsbD k.val || !s.clk.powered || s.clk.inReset || (s.clk.stopped.getLsbD k.val && !s.capo.waking) then s
  else
    let s1 := { s with clk := { s.clk with
      live := s.clk.live ||| bitAt 27 k.val true
      stopped := s.clk.stopped &&& ~~~ bitAt 27 k.val true } }
    if s.clk.stopped.getLsbD k.val then s1
    else if 12 ≤ k.val ∧ k.val < 16 then loseStacks (Fin.ofNat 4 (k.val - 12)) s1
    else if k.val = 26 then droneClockBack s1
    else s1

/-! ## What the device serves without waking (R425) -/

/-- The block of a control address is one that is served outside P0. -/
def awakeBlock (a : Word) : Bool :=
  a.toNat - ctlBase < 0x2000000 && ctlBase ≤ a.toNat &&
  match Block.at? (a.toNat - ctlBase) with
  | some (.glb, _) => true
  | some (.peg, _) => true
  | some (.hif, _) => true
  | some (.capo, _) => true
  | some (.spt, _) => true
  | some (.tpc, _) => true
  | some (.drn, _) => true
  | _ => false

/-- A request that wakes the device. -/
def needsWake : GhtBody → Bool
  | .regRead l => !l.all awakeBlock
  | .regWrite l => !l.all fun e => awakeBlock e.1
  | .ping => false
  | .close => false
  | .eventAck _ => false
  | .attest _ => false
  | .unlisted _ => false
  | _ => true

/-! ## Idle and entry (R422, R423) -/

/-- A request that needs waking is in progress. -/
def requestBusy (s : State) : Bool :=
  (s.host.sessions.toList.any fun o => match o with
    | some x => x.busy.any fun q => needsWake q.body
    | none => false) || s.host.ended.any fun e => e.2.busy.any fun q => needsWake q.body

/-- R422. -/
def idle (s : State) : Bool :=
  s.pas.toList.all (fun x => !(x.threads.toList.any Thread.active) && x.bow.queue.isEmpty)
    && s.brg.reds.toList.all (·.phase = .idle) && s.rp.exports.isEmpty && !serviceRunning s && !requestBusy s
    && s.capo.heldPkts.isEmpty

/-- The state below the present one may be entered. -/
def mayDeepen (s : State) : Bool :=
  s.clk.powered && !s.clk.inReset && !s.capo.entering && !s.capo.waking && idle s
    && s.capo.state.val < (capoTarget s).val && (s.capo.state ≠ 2 || !programHere s)
    && (s.capo.state ≠ 1 || s.st.hbms.toList.all (·.ready))

/-- Every cache bank drains (R261). -/
def drainAllBanks (s : State) : State :=
  (List.finRange 4).foldl (fun s h => (List.finRange 16).foldl (fun s b =>
    if (s.slice h).banks[b.val] = .on then emptyBank (setBank s h b .draining) h b true else s) s) s

/-- CAPO_STEP_DEEPER. -/
def stepDeeper (s : State) : State :=
  if mayDeepen s then
    let s1 := { s with capo := { s.capo with entering := true } }
    if s.capo.state = 1 then drainAllBanks s1 else s1
  else s

def banksOff (s : State) : Bool := s.st.slices.toList.all fun x => x.banks.toList.all (· = .off)

/-- The PA/Fretboard PLLs. -/
def paPlls : BitVec 27 := 0xFF

/-- Step 2 has stopped the PA PLLs (R424). -/
def enterDoze (s : State) : State :=
  { s with clk := { s.clk with live := s.clk.live &&& ~~~ paPlls, stopped := s.clk.stopped ||| (s.clk.live &&& paPlls) } }

/-- Step 3 has turned the compute-die rail off (Table 15.2). -/
def enterDeep (s : State) : State :=
  let s1 := (List.finRange 128).foldl losePa s
  let s2 := { s1 with capo := { s1.capo with rails := s1.capo.rails.set 0 false } }
  (s2.countSat (.capo .cnt) 32 16 1).logRec 14 0 6 0 0

def setCapoState (s : State) (k : Fin 4) : State := { s with capo := { s.capo with state := k, entering := false } }

/-- CAPO_ENTRY_STEP_DONE. -/
def entryDone (s : State) : State :=
  if !s.capo.entering then s
  else if s.capo.state = 0 then setCapoState s 1
  else if s.capo.state = 1 then (if banksOff s then setCapoState (enterDoze s) 2 else s)
  else setCapoState (enterDeep s) 3

/-! ## Wakes (R425, R426) -/

/-- R420: an effective tolerance below the wake time of the present state wakes the device. -/
def checkTolerance (s : State) : State := if tolerance s < wakeMax s.capo.state.val then beginWake s else s

/-- CAPO_WAKE_EVENT. -/
def wakeEvent (s : State) (why : WakeReason) : State :=
  match why with
  | .tolerance => checkTolerance s
  | _ => beginWake s

/-- CAPO_WAKE_WRITE: the bit reads 1 until P0 is reached. It stays set by a write in the cycle in which P0 is reached (R15). -/
def wakeWrite (s : State) (tie : Bool) : State :=
  let s1 := { s with capo := { s.capo with wakeReq := s.capo.wakeReq || tie || asleep s } }
  if asleep s then beginWake s1 else s1

/-- The wake from P3: every PA reloads its microcode and passes its start-up checks, or stays offline. -/
def wakePa (failed : List Pa) (s : State) (p : Pa) : State :=
  if !(s.pa p).online then s
  else if failed.contains p then (setOnline false (loadMicrocode s p) p).logRec 2 2 5 p.val 0
  else loadMicrocode s p

/-- P0 is reached: the state at the head of WAKE_COMPLETE, before the requests that the wake serves. -/
def reachRun (s : State) (failed : List Pa) : State :=
  let was := s.capo.state
  let s1 := { s with
    clk := { s.clk with live := s.clk.live ||| s.clk.stopped, stopped := 0 }
    capo := { s.capo with state := 0, waking := false, wakeReq := false, rails := s.capo.rails.set 0 true } }
  let s2 := if 2 ≤ was.val then banksOn s1 else s1
  let s3 := if was = 0 then s2 else s2.countSat (.capo .cnt) 0 32 1
  if was = 3 then
    (remeasure s ((List.finRange 128).foldl (wakePa failed) s3)).logRec 14 0 7 (s.micros - s.capo.wakeStart) 0
  else s3

/-- WAKE_LOCK_TIMEOUT: a stopped PLL that does not lock has lost lock. -/
def lockTimeout (s : State) (k : Fin 27) : State :=
  if s.capo.waking && s.clk.stopped.getLsbD k.val then
    loseLock { s with clk := { s.clk with stopped := s.clk.stopped &&& ~~~ bitAt 27 k.val true } } k
  else s

/-! ## The power limit (R428) -/

/-- CAPO_PLIM.limit, at its nearer bound. -/
def powerLimit (s : State) : Nat := max 800 (min 3200 (s.rwpField (.capo .plim) 0 12))

/-- A fall of plim_f; the first one from 16 is an event. -/
def lowerPlim (s : State) (f : Nat) : State :=
  let s1 := { s with capo := { s.capo with plimF := f } }
  if s.capo.plimF = 16 ∧ f < 16 then (s1.raiseBits (.capo .evt) 1).logRec 14 0 1 (avgPower s) (powerLimit s) else s1

/-- POWER_SAMPLE: 100 samples make the average of 1 ms. -/
def samplePower (s : State) (watts mv : BitVec 16) : State :=
  if !s.clk.powered then s
  else
    let s1 := { s with capo := { s.capo with
      samples := watts :: s.capo.samples.take 99
      peak := if s.capo.peak.toNat < watts.toNat then watts else s.capo.peak
      vin := mv } }
    if powerLimit s * 110 < watts.toNat * 100 then lowerPlim s1 8 else s1

/-- PLIM_ADJUST. -/
def adjustPlim (s : State) (raise : Bool) : State :=
  let avg := avgPower s
  if raise then
    if avg * 100 < powerLimit s * 97 then { s with capo := { s.capo with plimF := min 16 (s.capo.plimF + 1) } } else s
  else if powerLimit s < avg then lowerPlim s (max 1 (s.capo.plimF - 1))
  else s

def clearPeak (s : State) : State := { s with capo := { s.capo with peak := BitVec.ofNat 16 (avgPower s) } }

/-- CAPO_TOL_WRITE: only the port's own control session may write (R420). -/
def writeTolerance (s : State) (k : Fin 16) (p : EPort) (us : BitVec 32) : State :=
  match s.sess k with
  | some x =>
    if x.control ∧ slotPort k = p then checkTolerance (s.setReg (.capo (.tol p)) (us.setWidth 64)) else s
  | none => s

/-! ## The commands -/

def execPllLossOfLock (k : Fin 27) (s : State) : Host.Outcome State Fault Refusal := .next (pllLost s k)

def execCapoStepDeeper (s : State) : Host.Outcome State Fault Refusal := .next (stepDeeper s)

def execCapoEntryStepDone (s : State) : Host.Outcome State Fault Refusal := .next (entryDone s)

def execCapoWakeEvent (why : WakeReason) (s : State) : Host.Outcome State Fault Refusal := .next (wakeEvent s why)

def execCapoWakeWrite (tie : Bool) (s : State) : Host.Outcome State Fault Refusal := .next (wakeWrite s tie)

def execWakeLockTimeout (k : Fin 27) (s : State) : Host.Outcome State Fault Refusal := .next (lockTimeout s k)

def execPowerSample (watts : BitVec 16) (mv : BitVec 16) (s : State) : Host.Outcome State Fault Refusal :=
  .next (samplePower s watts mv)

def execPlimAdjust (raise : Bool) (s : State) : Host.Outcome State Fault Refusal := .next (adjustPlim s raise)

/-- CAPO_PEAK_CLEAR. -/
def execCapoPeakClear (s : State) : Host.Outcome State Fault Refusal := .next (clearPeak s)

def execCapoTolWrite (slot : Fin 16) (p : EPort) (us : BitVec 32) (s : State) : Host.Outcome State Fault Refusal :=
  .next (writeTolerance s slot p us)

end Sys2Proof.Machine
end

