-- ==== Sys2Proof/Machine/Channels.lean ====
section
/-! DEFINITION. Channels and combining queues (group 12: R284 to R298), and the loss of a packet (R304). -/

namespace Sys2Proof.Machine

/-! ## Fields of group 12 (Table 10.5) -/

structure QFields where
  q : Fin 8
  as : Fin 16
  rs : Fin 32
  rd : Fin 32
  lsrc : Bool
  rel : Bool
  len : Nat
  rsvd : Bool
  deriving DecidableEq, Repr

def qFields (w : IWord) : QFields where
  q := Fin.ofNat 8 (field w 16 3).toNat
  as := fa (field w 19 4).toNat
  rs := fs (field w 23 5).toNat
  rd := fs (field w 28 5).toNat
  lsrc := bit w 33
  rel := bit w 34
  len := (field w 64 20).toNat
  rsvd := field w 35 29 ≠ 0 || field w 84 44 ≠ 0

/-- R115: the fields that an operation does not use are zero. -/
def QFields.unused (f : QFields) (useAs useRs useRd useSrc useRel : Bool) : Bool :=
  f.rsvd || (!useAs && f.as ≠ 0) || (!useRs && f.rs ≠ 0) || (!useRd && f.rd ≠ 0) || (!useSrc && (f.lsrc || f.len ≠ 0))
    || (!useRel && f.rel)

/-! ## The ring (R289, R290) -/

/-- The place by one receiver's view. -/
def recvPlace (c : Chan) (r : ChRecv) (m : Nat) : Option (Nat × Nat) := placeAt c.size c.wp r.rpSeen r.usedSeen m

/-- R289: the header word. -/
def headerWord (c : Chan) (m : ChMsg) : Word :=
  fld 0 (if m.pad then m.bytes else m.bytes - 8) ||| flag 20 m.pad ||| fld 21 c.sthr.val ||| fld 24 c.spa.val
    ||| fld 32 m.seq.toNat

def State.modChan (s : State) (i : Nat) (f : Chan → Chan) : State :=
  { s with net := { s.net with chans := modifyAt f s.net.chans i } }

def Chan.modRecv (c : Chan) (p : Pa) (f : ChRecv → ChRecv) : Chan :=
  { c with recvs := c.recvs.map fun r => if r.pa = p then f r else r }

/-- The device address of a ring offset on a PA. -/
def ringAddr (c : Chan) (p : Pa) (off : Nat) : Nat := spmAddr p (c.roff + off)

/-- The items that a message adds to each ring: its pad marker, if it needs one, and itself. -/
def messageItems (c : Chan) (at_ pad : Nat) (words : List Word) (bad : List Nat) : List ChMsg :=
  let m : ChMsg := { off := at_, bytes := 8 + 8 * words.length, pad := false, seq := c.seq, words := words, bad := bad }
  if pad = 0 then [m] else [{ off := c.wp, bytes := pad, pad := true, seq := c.seq, words := [] }, m]

/-- R290 to R293: the message is placed, at the same offset in every live receiver's ring. -/
def placeMessage (c : Chan) (at_ pad : Nat) (words : List Word) (bad : List Nat) : Chan :=
  let items := messageItems c at_ pad words bad
  let m := 8 + 8 * words.length
  let put := fun (r : ChRecv) => if r.live then { r with flying := r.flying ++ items, usedSeen := r.usedSeen + pad + m } else r
  { c with wp := (at_ + m) % c.size, seq := c.seq + 1, want := 0, recvs := c.recvs.map put }

/-- The ways of a message: XY ones for a multicast (R293). -/
def messageWays (c : Chan) : List (List Hop) :=
  (c.recvs.filter (·.live)).map fun r => paPath c.spa r.pa (c.yx && !c.multicast)

/-- The virtual network of a channel's messages (Table 10.2). -/
def messageNet (c : Chan) : Fin 4 := if c.yx && !c.multicast then 3 else 2

/-- A placed message leaves. -/
def sendWays (i : Nat) (c : Chan) (n : Nat) (s : State) : State := inject (.message i c.seq) (messageNet c) (flitsOf n) 0 (messageWays c) s

/-! ## Handles (R286) -/

/-- The channel that a handle names. -/
def handleChan (s : State) (h : Option (Fin 1088)) : Option (Nat × Chan) :=
  match h with
  | some i => if i.val < 1024 then (s.chan? i.val).map fun c => (i.val, c) else none
  | none => none

/-- The combining queue that a handle names. -/
def handleCq (s : State) (h : Option (Fin 1088)) : Option (Nat × Cq) :=
  match h with
  | some i => if 1024 ≤ i.val then (s.net.cqs[i.val - 1024]?).map fun c => (i.val - 1024, c) else none
  | none => none

def qOf (y : Thread) (i : Fin 8) : Option (Fin 1088) := y.q[i.val]

/-! ## SEND (R288, R290) -/

/-- R288: a source in the own SPM, 8-byte aligned. -/
def sourceCauses (p : Pa) (a : Word) (n : Nat) (i : Fin 16) : List (Option Cause) :=
  let x := a.toNat % 2 ^ 48
  [causeIf (a.toNat % 8 ≠ 0) .align .a i.val x, causeIf (!addrOk a || !ownSpm p a.toNat n) .window .a i.val x]

/-- The uncorrectable words among `n` words from an address, by number. -/
def badPayload (s : State) (a n : Nat) : List Nat := (upFrom 0 n).filter fun k => (badAt s (a + 8 * k) 8).isSome

/-- Count and record each of them (R94). -/
def noteWords (s : State) (a : Nat) (l : List Nat) : State := l.foldl (fun s k => noteBad s (a + 8 * k)) s

/-- An instruction in flight that ends with a deferred EXC_ECC at an address. -/
def eccOp (t : Thr) (y : Thread) (a : Nat) : Op where
  thr := t
  fpc := y.pc
  unit := .net
  uses := []
  defs := []
  writes := []
  bad := some (BitVec.ofNat 48 a)

/-- A source word that is uncorrectable ends its instruction with a deferred EXC_ECC (R288). -/
def owesEcc (p : Pa) (t : Thr) (s : State) (a : Nat) (l : List Nat) : State :=
  match l with
  | [] => s
  | k :: _ => launch (noteWords s a l) p (eccOp t (s.thr p t) (a + 8 * k))

/-- Place a message of `n` bytes whose ring space is free. -/
def sendMessage (p : Pa) (t : Thr) (s : State) (i : Nat) (c : Chan) (a n at_ pad : Nat) : State :=
  let bad := badPayload s a (n / 8)
  let s1 := sendWays i c (n + 8) s
  let s2 := s1.modChan i fun c => placeMessage c at_ pad (s.words a (n / 8)) bad
  let s3 := s2.event p { code := 0x32, amount := 1, thr := some t }
  owesEcc p t (s3.event p { code := 0x10, amount := n, master := some 0 }) a bad

/-- Wait for a source in the own SPM, and with rel set for the conditions of FENCE bit 1. -/
def needSource (p : Pa) (t : Thr) (src : Nat × Nat) (rel : Bool) (s : State) (k : Issue) : Issue :=
  unlessWaits s p t (spmNeeds [src] [] false ++ if rel then [.fence 2] else []) k

/-- The registers of SEND. -/
def sendRegs (f : QFields) : List Res := [.q f.q, .a f.as] ++ if f.lsrc then [.s f.rs] else []

/-- The form of a SEND word. -/
def sendForm (w : IWord) : Bool :=
  let f := qFields w
  formOk [7] w && !f.unused true f.lsrc false true true && !(f.lsrc && f.len ≠ 0)

/-- The bytes that a SEND carries. -/
def sendLen (y : Thread) (f : QFields) : Nat := if f.lsrc then (y.rs f.rs.val).toNat else f.len

/-- What refuses a SEND of channel `c`. -/
def sendCauses (p : Pa) (t : Thr) (y : Thread) (f : QFields) (c : Chan) : List (Option Cause) :=
  let n := sendLen y f
  [causeIf (c.spa ≠ p || c.sthr ≠ t) .illegal, causeIf c.broken .ecc,
    causeIf (n = 0 || n % 8 ≠ 0 || c.maxp < n) .illegal] ++ sourceCauses p (y.ra f.as.val) n f.as

/-- SEND. -/
def sendBody (p : Pa) (t : Thr) (w : IWord) (s : State) : Issue :=
  let f := qFields w
  if !sendForm w then illegal
  else needRegs p t (sendRegs f) s
    (let y := s.thr p t
     match handleChan s (qOf y f.q) with
     | none => .refuse { exc := .illegal, file := .q, reg := f.q.val } none
     | some (i, c) =>
       let n := sendLen y f
       let a := y.ra f.as.val
       unlessRefused (sendCauses p t y f c) none
         (needSource p t (a.toNat - spmAddr p 0, n) f.rel s
           (match chanPlace c (8 + n) with
            -- the sender blocks, and has written nothing
            | none => .wait [.ring i (8 + n)] (s.modChan i fun c => { c with want := 8 + n })
            | some (at_, pad) => .next (sendMessage p t s i c a.toNat n at_ pad))))

/-! ## RECV, TRYRECV and RFREE (R287, R291, R294) -/

/-- A credit return for `n` bytes leaves a receiver. -/
def addCredit (n : Nat) (r : ChRecv) : ChRecv := { r with credits := r.credits ++ [n], creditNo := r.creditNo + 1 }

/-- The pad markers at the front of what has been taken are freed. -/
def freePads (r : ChRecv) : ChRecv :=
  (r.taken.takeWhile (·.pad)).foldl (fun r m => addCredit m.bytes r) { r with taken := r.taken.dropWhile (·.pad) }

/-- R291: pad markers at the front of the ring are skipped and their bytes freed at once; the read pointer passes them with
the taken messages before them (DEDUCED, log entry 70). -/
def skipPads (r : ChRecv) : ChRecv :=
  freePads { r with arrived := r.arrived.dropWhile (·.pad), taken := r.taken ++ r.arrived.takeWhile (·.pad) }

/-- The credit returns that a receiver has sent leave its PA. -/
def sendCredits (i : Nat) (c : Chan) (old new : ChRecv) (s : State) : State :=
  (upFrom old.creditNo (new.creditNo - old.creditNo)).foldl
    (fun s n => inject (.credit i new.pa n) 1 1 0 [paPath new.pa c.spa false] s) s

/-- A receiver's ring after a receive or a free, with the credit returns that it sends. -/
def putRecv (i : Nat) (c : Chan) (old new : ChRecv) (s : State) : State :=
  (sendCredits i c old new s).modChan i fun c => c.modRecv old.pa fun _ => new

/-- A message is taken. -/
def takeMessage (r : ChRecv) : ChRecv :=
  match r.arrived with
  | [] => r
  | m :: l => { r with arrived := l, taken := r.taken ++ [m] }

/-- What a receive writes: length and status. -/
def recvResult (p : Pa) (t : Thr) (f : QFields) (len status : Nat) (s : State) : State :=
  s.modThr p t fun y => (y.ws f.rs.val (BitVec.ofNat 64 len)).ws f.rd.val (BitVec.ofNat 64 status)

/-- A receive of channel `i`; one that waits stalls when there is no message. -/
def receive (p : Pa) (t : Thr) (f : QFields) (waits : Bool) (i : Nat) (c : Chan) (r : ChRecv) (s : State) : Issue :=
  let r1 := skipPads r
  let put := fun (r2 : ChRecv) => putRecv i c r r2 s
  match r1.arrived with
  | m :: _ =>
    let s1 := (put (takeMessage r1)).modThr p t fun y => y.wa f.as.val (BitVec.ofNat 64 (ringAddr c p (m.off + 8)))
    .next (recvResult p t f (m.bytes - 8) 0 s1)
  | [] =>
    if !r.live && r.flying.isEmpty then .next (recvResult p t f 0 2 (put r1))
    else if waits then .wait [.message i] (put r1)
    else .next (recvResult p t f 0 1 (put r1))

/-- R286: the receiver that a thread is. -/
def receiverOf (c : Chan) (p : Pa) (t : Thr) : Option ChRecv := if c.rthr = t then c.recv? p else none

/-- Messages that a receiver has taken and not freed. -/
def ChRecv.held (r : ChRecv) : Nat := (r.taken.filter (!·.pad)).length

/-- The form of a RECV or TRYRECV word, and of a RFREE word. -/
def recvForm (w : IWord) : Bool := formOk [7] w && !(qFields w).unused true true true false false

def rfreeForm (w : IWord) : Bool := formOk [7] w && !(qFields w).unused false false false false false

/-- RECV and TRYRECV. -/
def recvBody (waits : Bool) (p : Pa) (t : Thr) (w : IWord) (s : State) : Issue :=
  let f := qFields w
  if !recvForm w then illegal
  else needRegs p t [.q f.q, .a f.as, .s f.rs, .s f.rd] s
    (match handleChan s (qOf (s.thr p t) f.q) with
     | none => .refuse { exc := .illegal, file := .q, reg := f.q.val } none
     | some (i, c) =>
       match receiverOf c p t with
       | none => unlessRefused [causeIf c.broken .ecc] none illegal
       | some r =>
         unlessRefused [causeIf c.broken .ecc, causeIf (16 ≤ r.held) .illegal] none
           (receive p t f waits i c r s))

/-- The oldest taken message is freed. -/
def freeOldest (r : ChRecv) : ChRecv :=
  match r.taken with
  | [] => r
  | m :: l => freePads (addCredit m.bytes { r with taken := l })

/-- RFREE. -/
def rfreeBody (p : Pa) (t : Thr) (w : IWord) (s : State) : Issue :=
  let f := qFields w
  if !rfreeForm w then illegal
  else needRegs p t [.q f.q] s
    (match handleChan s (qOf (s.thr p t) f.q) with
     | none => .refuse { exc := .illegal, file := .q, reg := f.q.val } none
     | some (i, c) =>
       match receiverOf c p t with
       | none => illegal
       | some r =>
         if r.held = 0 then illegal else .next (putRecv i c r (freeOldest r) s))

/-! ## Combining queues (R295, R296) -/

def State.modCq (s : State) (j : Nat) (f : Cq → Cq) : State :=
  { s with net := { s.net with cqs := modifyAt f s.net.cqs j } }

/-- The address of the slot of a round. -/
def cqSlot (c : Cq) (k : Nat) : Nat := spmAddr c.hpa (c.roff + k % 2 * 512)

/-- R296: the home may write the result of round `k`: the home thread has issued the CQWAIT before it. -/
def cqSlotFree (c : Cq) (k : Nat) : Bool := k < 2 || k ≤ c.waits

/-- A round is written: it is the oldest, or the one after the oldest. -/
def noteRound (c : Cq) (k : Nat) : Cq :=
  let rest := c.opened.filter (·.round ≠ k)
  if k = c.written then { c with opened := rest, written := c.written + (if c.early then 2 else 1), early := false }
  else { c with opened := rest, early := true }

/-- A round that is complete and may be written. -/
def roundDue (c : Cq) : Option CqPart := c.opened.find? fun r => c.cnt ≤ r.count && cqSlotFree c r.round

/-- Write a complete round whose slot is free, if the home's merge buffer takes it. -/
def settleCq (s : State) (j : Nat) : State :=
  match s.net.cqs[j]? with
  | none => s
  | some c =>
    match roundDue c with
    | none => s
    | some r =>
      if mergeFits s (cqSlot c r.round) (8 * r.words.length) then
        (s.store (cqSlot c r.round) (wordBytes r.words)).modCq j fun c => noteRound c r.round
      else forceMerge s (cqSlot c r.round)

/-- The contribution enters its round at the home. -/
def openRound (s : State) (c : Cq) (k : CqPart) : Cq :=
  if c.opened.any (·.round = k.round) then
    { c with opened := c.opened.map fun r =>
        if r.round = k.round then { r with words := combine s c r.words k.words, count := r.count + k.count } else r }
  else { c with opened := c.opened ++ [{ k with words := combine s c (List.replicate c.words 0) k.words }] }

/-- CQADD: the contribution leaves. -/
def contribute (p : Pa) (t : Thr) (s : State) (j : Nat) (c : Cq) (a : Nat) : State :=
  let bad := badPayload s a c.words
  let k := cqRound c p t
  let part : CqPart := { id := c.nextPart, round := k, words := s.words a c.words, count := 1 }
  let sent := sput (fun _ => 0) c.sent (cqThread p t) (k + 1)
  if bad.isEmpty then
    (inject (.part j part.id) 2 (flitsOf (8 * c.words)) 0 [paPath p c.hpa false] s).modCq j fun c =>
      { c with sent := sent, flying := c.flying ++ [part], nextPart := c.nextPart + 1 }
  else owesEcc p t (s.modCq j fun c => { c with sent := sent, lost := true }) a bad

/-- The form of a CQADD word, and of a CQWAIT word. -/
def cqaddForm (w : IWord) : Bool := formOk [7] w && !(qFields w).unused true false false false true

def cqwaitForm (w : IWord) : Bool := formOk [7] w && !(qFields w).unused true false false false false

/-- What refuses a CQADD to queue `c`. -/
def cqaddCauses (p : Pa) (y : Thread) (f : QFields) (c : Cq) : List (Option Cause) :=
  causeIf c.lost .ecc :: sourceCauses p (y.ra f.as.val) (8 * c.words) f.as

/-- CQADD. -/
def cqaddBody (p : Pa) (t : Thr) (w : IWord) (s : State) : Issue :=
  let f := qFields w
  if !cqaddForm w then illegal
  else needRegs p t [.q f.q, .a f.as] s
    (let y := s.thr p t
     match handleCq s (qOf y f.q) with
     | none => .refuse { exc := .illegal, file := .q, reg := f.q.val } none
     | some (j, c) =>
       let a := y.ra f.as.val
       unlessRefused (cqaddCauses p y f c) none
         (needSource p t (a.toNat - spmAddr p 0, 8 * c.words) f.rel s
           (unlessWaits s p t [.round j] (.next (contribute p t s j c a.toNat)))))

/-- CQWAIT. -/
def cqwaitBody (p : Pa) (t : Thr) (w : IWord) (s : State) : Issue :=
  let f := qFields w
  if !cqwaitForm w then illegal
  else needRegs p t [.q f.q, .a f.as] s
    (match handleCq s (qOf (s.thr p t) f.q) with
     | none => .refuse { exc := .illegal, file := .q, reg := f.q.val } none
     | some (j, c) =>
       unlessRefused [causeIf (c.hpa ≠ p || c.hthr ≠ t) .illegal, causeIf c.lost .ecc] none
         (if roundWritten c c.waits then
            let s1 := s.modCq j fun c => { c with waits := c.waits + 1 }
            .next (settleCq (s1.modThr p t fun y => y.wa f.as.val (BitVec.ofNat 64 (cqSlot c c.waits))) j)
          else .wait [.result j] (settleCq s j)))

/-! ## Delivery and credit (R289, R291, R304) -/

/-- The items of one delivery: pad markers, and the message after them. -/
def nextDelivery : List ChMsg → List ChMsg × List ChMsg
  | [] => ([], [])
  | m :: r => if m.pad then (m :: (nextDelivery r).1, (nextDelivery r).2) else ([m], r)

/-- The bytes of an item in the ring: a pad marker is its header alone. -/
def itemBytes (c : Chan) (m : ChMsg) : List Byte := wordBytes (headerWord c m :: m.words)

/-- The lines of a delivery find room in the receiver's merge buffer. -/
def itemsFit (s : State) (c : Chan) (p : Pa) (l : List ChMsg) : Bool :=
  l.all fun m => mergeFits s (ringAddr c p m.off) (8 + 8 * m.words.length)

/-- An item is committed to the ring, with the check patterns it carries. -/
def commitItem (c : Chan) (p : Pa) (f : FlitEcc) (s : State) (m : ChMsg) : State :=
  let a := ringAddr c p m.off
  let s1 := s.store a (itemBytes c m)
  let s2 := m.bad.foldl (fun s k => s.spoil (a + 8 + 8 * k)) s1
  if m.pad then s2 else spoilFlits f (a + 8) (8 * m.words.length) s2

/-- R304: the sequence number expected after an item, and whether the item skips. -/
def expectNext (e : BitVec 32) (m : ChMsg) : BitVec 32 := if m.pad then e else m.seq + 1

/-- A delivery at a receiver: a number that skips breaks the channel. -/
def arriveAt (p : Pa) (l rest : List ChMsg) (c : Chan) : Chan :=
  match c.recv? p with
  | none => c
  | some r =>
    let skips := l.any fun m => m.seq ≠ r.expect
    let r1 := { r with flying := rest, arrived := r.arrived ++ l, expect := l.foldl expectNext r.expect }
    { c.modRecv p fun _ => r1 with broken := c.broken || skips }

/-- The packet of a delivery, and where it leaves the mesh. -/
def messageFlow (i : Nat) (l : List ChMsg) : Flow := .message i ((l.getLast?.map (·.seq)).getD 0)

def messageDest (s : State) (c : Chan) (p : Pa) : Hop := destOf (routed s (paPath c.spa p (c.yx && !c.multicast)))

/-- CHANNEL_MESSAGE_DELIVERY. -/
def deliverMessage (s : State) (i : Nat) (p : Pa) (f : FlitEcc) : State :=
  match s.chan? i with
  | none => s
  | some c =>
    match c.recv? p with
    | none => s
    | some r =>
      let (l, rest) := nextDelivery r.flying
      let way := (messageFlow i l, messageDest s c p)
      if l.isEmpty || !mayArrive s way.1 way.2 then s
      else if !itemsFit s c p l then l.foldl (fun s m => forceMerge s (ringAddr c p m.off)) s
      else (l.foldl (commitItem c p f) (noteFlits f (arrive way.1 way.2 s))).modChan i (arriveAt p l rest)

/-- The first credit return of a receiver reaches the sender. -/
def takeCredit (size : Nat) (r : ChRecv) : ChRecv :=
  match r.credits with
  | [] => r
  | n :: l => { r with credits := l, rpSeen := (r.rpSeen + n) % size, usedSeen := r.usedSeen - n }

/-- CREDIT_RETURN. -/
def returnCredit (s : State) (i : Nat) (p : Pa) : State :=
  match s.chan? i with
  | none => s
  | some c =>
    match c.recv? p with
    | none => s
    | some r =>
      let f := Flow.credit i p (r.creditNo - r.credits.length)
      let d := destOf (routed s (paPath p c.spa false))
      if r.credits.isEmpty || !mayArrive s f d then s
      else (arrive f d s).modChan i fun c => c.modRecv p (takeCredit c.size)

/-- The contribution that has come to the home, merged with those that it met on its way (R297); one with a word that failed
on its way leaves its queue without it (R304). -/
def joinRound (s : State) (j id : Nat) (f : FlitEcc) : State :=
  match (s.net.cqs[j]?).bind fun c => c.flying.find? (·.id = id) with
  | none => s
  | some k =>
    let gone := fun (c : Cq) => { c with flying := c.flying.filter (·.id ≠ id) }
    if f.bad = [] then settleCq (s.modCq j fun c => gone (openRound s c k)) j
    else s.modCq j fun c => { gone c with lost := true }

/-- Where the contributions to a queue leave the mesh. -/
def cqDest (c : Cq) : Hop := { router := routerAt (meshX c.hpa) (meshY c.hpa), out := 0 }

/-- CQ_CONTRIBUTION_ARRIVAL. -/
def arriveContribution (s : State) (j n : Nat) (f : FlitEcc) : State :=
  match s.net.cqs[j]? with
  | none => s
  | some c =>
    match c.flying[n]? with
    | none => s
    | some k =>
      if mayArrive s (.part j k.id) (cqDest c) then joinRound (noteFlits f (arrive (.part j k.id) (cqDest c) s)) j k.id f
      else s

/-! ## Multicast drop and mutual blocks (R294, R298) -/

/-- R294: a live receiver that alone holds up the sender of a drop-mode multicast. -/
def mayDrop (s : State) (i : Nat) (c : Chan) (p : Pa) : Bool :=
  let others := c.recvs.filter fun r => r.live && r.pa ≠ p
  c.multicast && c.drop && !others.isEmpty && others.all (fun r => (recvPlace c r c.want).isSome)
    && blockedAt s c.spa c.sthr = some i
    && (match c.recv? p with | some r => r.live && (recvPlace c r c.want).isNone | none => false)

/-- MULTICAST_DROP. -/
def dropReceiver (s : State) (i : Nat) (p : Pa) : State :=
  match s.chan? i with
  | none => s
  | some c =>
    if mayDrop s i c p then
      let s1 := s.modChan i fun c => { c.modRecv p (fun r => { r with live := false }) with dropped := true }
      (s1.raiseBits (.frb .evt) (mask 0 1)).logRec 6 0 4 p.val i
    else s

/-- The threads that may end the block of a thread on channel or queue `i`: its receiver, the live receiver furthest
behind, or the home. -/
def blockers (s : State) (i : Nat) : List (Pa × Thr) :=
  if i < 1024 then
    match s.chan? i with
    | some c => (c.recvs.filter fun r => r.live && r.usedSeen = chanUsed c).map fun r => (r.pa, c.rthr)
    | none => []
  else match s.net.cqs[i - 1024]? with
    | some c => [(c.hpa, c.hthr)]
    | none => []

/-- Thread A is blocked on thread B. -/
def blockedBy (s : State) (p : Pa) (t : Thr) (q : Pa) (u : Thr) : Bool :=
  match blockedAt s p t with
  | some i => (blockers s i).contains (q, u)
  | none => false

/-- MUTUAL_BLOCK_DETECT. -/
def detectBlock (s : State) (p : Pa) (t : Thr) (q : Pa) (u : Thr) : State :=
  if (p, t) ≠ (q, u) && blockedBy s p t q u && blockedBy s q u p t then
    let s1 := (s.raiseBits (.frb .evt) (mask 1 1)).logRec 6 0 5 p.val q.val
    settlePas [(p, t), (q, u)] (takeException (takeException s1 p t { exc := .deadlock }) q u { exc := .deadlock })
  else s

/-! ## Lost packets (R304) -/

/-- An access whose request or response is lost can end only with EXC_ECC. -/
def loseAccess (o : Op) : Op :=
  match o.acc with
  | some m => { o with writes := [], acc := some { m with done := true }, bad := some (BitVec.ofNat 48 m.addr) }
  | none => o

/-- A message on its way to a receiver is lost. -/
def loseMessage (i : Nat) (p : Pa) (s : State) : State :=
  match (s.chan? i).bind fun c => (c.recv? p).map fun r => (c, r) with
  | none => s
  | some (c, r) =>
    let (l, rest) := nextDelivery r.flying
    if l.isEmpty then s
    else (cutWay (messageFlow i l) (messageDest s c p) s).modChan i fun c => c.modRecv p fun r => { r with flying := rest }

/-- Contribution `n` on its way to a queue is lost. -/
def loseContribution (j n : Nat) (s : State) : State :=
  match (s.net.cqs[j]?).bind fun c => c.flying[n]? with
  | none => s
  | some k => (dropFlow (.part j k.id) s).modCq j fun c => { c with flying := c.flying.filter (·.id ≠ k.id), lost := true }

/-- What the loss of a packet does to what it carried. -/
def losePacket (s : State) : LostPacket → State
  | .access p n =>
    (dropFlow (.answer p n) (dropFlow (.access p n) s)).modPa p fun x =>
      { x with ops := x.ops.map fun o => if o.id = n then loseAccess o else o }
  | .message c p => loseMessage c.val p s
  | .contribution j n => loseContribution j.val n s
  | .unit p n => (dropFlow (.unit p n) s).modPa p fun x =>
      { x with bow := { x.bow with tags := x.bow.tags.map fun g => if g.id = n then { g with lost := true } else g } }
  | .other => s

/-- FRB_ERR_LOC and the count of a discarded packet. -/
def noteHeader (s : State) (r : Fin 128) (i : Fin 5) : State :=
  let s1 := (s.raiseBits (.frb .evt) (mask 2 1)).countSat (.frb .eccCnt) 48 16 1
  let s2 :=
    if s1.regBit (.frb .errLoc) 10 then s1.raiseBits (.frb .errLoc) (mask 11 1)
    else s1.setReg (.frb .errLoc) ((s1.reg (.frb .errLoc) &&& mask 11 1) ||| mask 10 1 ||| fld 0 r.val ||| fld 7 i.val)
  s2.logRec 6 2 3 r.val i.val

/-- R304: instruction `n` of a PA has had no response in time. -/
def accessTimeout (s : State) (p : Pa) (n : Nat) : State :=
  match (s.pa p).ops.find? (·.id = n) with
  | some o => match o.acc with
    | some m => if ownSpm p m.addr m.size then s else abortAll s p o .ecc m.addr false
    | none => s
  | none => s

/-! ## The rows -/

/-- SEND. -/
def execSend (p : Pa) (t : Thr) (w : IWord) (s : State) : Host.Outcome State Fault Refusal :=
  .next (attemptOf 12 0x00 p t w (sendBody p t w) s)

/-- RECV. -/
def execRecv (p : Pa) (t : Thr) (w : IWord) (s : State) : Host.Outcome State Fault Refusal :=
  .next (attemptOf 12 0x01 p t w (recvBody true p t w) s)

/-- TRYRECV. -/
def execTryrecv (p : Pa) (t : Thr) (w : IWord) (s : State) : Host.Outcome State Fault Refusal :=
  .next (attemptOf 12 0x02 p t w (recvBody false p t w) s)

/-- RFREE. -/
def execRfree (p : Pa) (t : Thr) (w : IWord) (s : State) : Host.Outcome State Fault Refusal :=
  .next (attemptOf 12 0x03 p t w (rfreeBody p t w) s)

/-- CQADD. -/
def execCqadd (p : Pa) (t : Thr) (w : IWord) (s : State) : Host.Outcome State Fault Refusal :=
  .next (attemptOf 12 0x08 p t w (cqaddBody p t w) s)

/-- CQWAIT. -/
def execCqwait (p : Pa) (t : Thr) (w : IWord) (s : State) : Host.Outcome State Fault Refusal :=
  .next (attemptOf 12 0x09 p t w (cqwaitBody p t w) s)

/-- CHANNEL_MESSAGE_DELIVERY. -/
def execChannelMessageDelivery (c : Fin 1024) (p : Pa) (f : FlitEcc) (s : State) : Host.Outcome State Fault Refusal :=
  .next (deliverMessage s c.val p f)

/-- CREDIT_RETURN. -/
def execCreditReturn (c : Fin 1024) (p : Pa) (s : State) : Host.Outcome State Fault Refusal :=
  .next (returnCredit s c.val p)

/-- CQ_CONTRIBUTION_ARRIVAL. -/
def execCqContributionArrival (j : Fin 64) (n : Nat) (f : FlitEcc) (s : State) : Host.Outcome State Fault Refusal :=
  .next (arriveContribution s j.val n f)

/-- MULTICAST_DROP. -/
def execMulticastDrop (c : Fin 1024) (p : Pa) (s : State) : Host.Outcome State Fault Refusal :=
  .next (dropReceiver s c.val p)

/-- MUTUAL_BLOCK_DETECT. -/
def execMutualBlockDetect (p : Pa) (t : Thr) (p2 : Pa) (t2 : Thr) (s : State) : Host.Outcome State Fault Refusal :=
  .next (detectBlock s p t p2 t2)

/-- HEADER_DISCARD. -/
def execHeaderDiscard (r : Fin 128) (i : Fin 5) (lost : LostPacket) (s : State) : Host.Outcome State Fault Refusal :=
  .next (losePacket (noteHeader s r i) lost)

/-- RESPONSE_TIMEOUT. -/
def execResponseTimeout (p : Pa) (n : Nat) (s : State) : Host.Outcome State Fault Refusal :=
  .next (accessTimeout s p n)

end Sys2Proof.Machine
end

