-- ==== Sys2Proof/Machine/Control.lean ====
section
/-! DEFINITION. Control flow, hardware loops, thread control and the return from a handler (group 0: R112, R124 to
R128, R137), and the sequencer's own events. -/

namespace Sys2Proof.Machine

/-! ## Branches and jumps (Table 4.15) -/

/-- NOP. -/
def nopBody (w : IWord) (s : State) : Issue := if !formOk [0] w then illegal else .next s

/-- The conditions of B. -/
def branchTaken (c : Nat) (x y : Word) : Bool :=
  match c with
  | 0 => x = y
  | 1 => x ≠ y
  | 2 => x.toInt < y.toInt
  | 3 => y.toInt ≤ x.toInt
  | 4 => x.toNat < y.toNat
  | _ => y.toNat ≤ x.toNat

/-- B. -/
def branchBody (p : Pa) (t : Thr) (w : IWord) (s : State) : Issue :=
  if !formOk [2] w || 5 < wCond w then illegal
  else needRegs p t [.s (fs (wRs1 w)), .s (fs (wRs2 w))] s
    (let y := s.thr p t
     if branchTaken (wCond w) (y.rs (wRs1 w)) (y.rs (wRs2 w)) then .jumped (s.modThr p t fun y => y.jump (wTarget w))
     else .next s)

/-- JAL. -/
def jalBody (p : Pa) (t : Thr) (w : IWord) (s : State) : Issue :=
  if !formOk [1] w || 16384 ≤ (wImm64 w).toNat then illegal
  else needRegs p t [.s (fs (wRd w))] s
    (.jumped (s.modThr p t fun y => (y.ws (wRd w) (BitVec.ofNat 64 (y.pc + 1))).jump (wImm64 w).toNat))

/-- JR: the target is read before the link is written. -/
def jrBody (p : Pa) (t : Thr) (w : IWord) (s : State) : Issue :=
  if !formOk [0] w then illegal
  else needRegs p t [.s (fs (wRd w)), .s (fs (wRs1 w))] s
    (let dest := ((s.thr p t).rs (wRs1 w)).toNat
     unlessRefused [causeIf (16384 ≤ dest) .illegal .s (wRs1 w)] none
       (.jumped (s.modThr p t fun y => (y.ws (wRd w) (BitVec.ofNat 64 (y.pc + 1))).jump dest)))

/-! ## LOOP (R126) -/

/-- The count that a LOOP latches. -/
def loopCount (y : Thread) (w : IWord) : Nat := if wLoopSrc w then wLoopImm w else (y.rs (wRd w)).toNat

/-- The thread after a LOOP of count zero: no loop opens, and the loops that end at `last` step. -/
def Thread.skipLoop (y : Thread) (last : Nat) : Thread :=
  { y with pc := (stepLoops last y.loops).1, loops := (stepLoops last y.loops).2, needs := [], released := y.spend
           delivering := false }

/-- LOOP. -/
def loopBody (p : Pa) (t : Thr) (w : IWord) (s : State) : Issue :=
  if !formOk [3] w then illegal
  else needRegs p t (if wLoopSrc w then [] else [.s (fs (wRd w))]) s
    (let y := s.thr p t
     let n := loopCount y w
     let beyond := match y.loops with
       | l :: _ => decide (l.last < wTarget w)
       | [] => false
     unlessRefused
       [causeIf (!wLoopSrc w && 0xFFFFFFFF < n) .illegal .s (wRd w),
        causeIf (y.st = .handler || wTarget w ≤ y.pc || 4 ≤ y.loops.length || beyond) .illegal] none
       (if n = 0 then .jumped (s.modThr p t fun y => y.skipLoop (wTarget w))
        else .next (s.modThr p t fun y =>
          { y with loops := { start := y.pc + 1, last := wTarget w, remaining := n, index := 0 } :: y.loops })))

/-! ## Threads (R112) and the sequencer (R97) -/

/-- TEND: in the cycle it issues, the thread's run-ahead is cancelled. -/
def tendBody (p : Pa) (t : Thr) (w : IWord) (s : State) : Issue :=
  if !formOk [0] w then illegal
  else .next (s.modPa p fun x => cancelBow t (x.modThr t fun y => { y with ending := true }))

/-- A thread that issued TEND has nothing left in flight. -/
def endReady (x : PaState) (t : Thr) : Bool :=
  (x.thr t).active && (x.thr t).ending && !(x.ops.any fun o => o.thr = t) && !bowBusy x t

/-- R112: the thread enters the ended state; a release it holds is discarded (R132). A deferred exception that was latched
after its TEND stays latched, and is delivered if the thread is started again (DESIGN CHOICE, log entry 67). -/
def endThread (s : State) (p : Pa) (t : Thr) : State :=
  settlePa (s.modPa p fun x => leaveBarrier t (x.modThr t fun y =>
    { y with st := .ended, ending := false, held := [], released := none, needs := [], cancelled := false })) p t

/-- An idle or ended thread starts with its registers as they stand. -/
def Thread.start (y : Thread) (pc : Nat) : Thread :=
  { y with st := .run, pc := pc, ending := false, needs := [], wait := .none, released := none, holdTo := 0
           delivering := false }

/-- TSTART. -/
def tstartBody (p : Pa) (t : Thr) (w : IWord) (s : State) : Issue :=
  if !formOk [1] w then illegal
  else needRegs p t [.s (fs (wRs1 w))] s
    (let k := ((s.thr p t).rs (wRs1 w)).toNat
     let u : Thr := Fin.ofNat 8 k
     let z := s.thr p u
     unlessRefused [causeIf (7 < k || u = t || z.active || z.st = .faulted) .illegal .s (wRs1 w)] none
       (.next (s.modThr p u fun z => z.start ((wImm64 w).toNat % 16384))))

/-- YIELD. -/
def yieldBody (w : IWord) (s : State) : Issue := if !formOk [0] w then illegal else .yield s

/-! ## The return from a handler (R137) -/

/-- The thread back in run state at `pc`. -/
def Thread.back (y : Thread) (pc : Nat) (loops : List Loop) : Thread :=
  { y with st := .run, pc := pc, loops := loops, needs := [], delivering := false }

/-- ERET: run state at epc. -/
def eretBody (p : Pa) (t : Thr) (w : IWord) (s : State) : Issue :=
  if !formOk [0] w || (s.thr p t).st ≠ .handler then illegal
  else .jumped (s.modThr p t fun y => y.back y.exc.epc.toNat y.loops)

/-- ERETN: run state after epc, as if its instruction had issued without effect; a release held for it is discarded
(R132). -/
def eretnBody (p : Pa) (t : Thr) (w : IWord) (s : State) : Issue :=
  if !formOk [0] w || (s.thr p t).st ≠ .handler then illegal
  else .jumped (s.modThr p t fun y =>
    let n := stepLoops y.exc.epc.toNat y.loops
    { y.back n.1 n.2 with held := [], released := none })

/-! ## SRD (Table 4.16) -/

/-- The special value of a selector. -/
def srdValue (s : State) (p : Pa) (t : Thr) (k : Nat) : Option Word :=
  let y := s.thr p t
  match k with
  | 0 => some (BitVec.ofNat 64 (p.val * 8 + t.val))
  | 1 => some (BitVec.ofNat 64 p.val)
  | 2 => some (BitVec.ofNat 64 t.val)
  | 3 => some (s.reg (.pa p .ovtCycle))
  | 4 => some (excWord y.exc)
  | 5 => some (epcWord y.exc)
  | 6 => some (fld 0 y.exc.addr.toNat)
  | 16 => some (BitVec.ofNat 64 y.loops.length)
  | 17 => some (readGlb s .devaddr)
  | k =>
    if 8 ≤ k ∧ k ≤ 11 then some (wisCapWord (Fin.ofNat 4 (k - 8)))
    else if 12 ≤ k ∧ k ≤ 15 then
      some (match y.loops[k - 12]? with | some l => BitVec.ofNat 64 l.index | none => 0)
    else none

/-- SRD. -/
def srdBody (p : Pa) (t : Thr) (w : IWord) (s : State) : Issue :=
  if !formOk [1] w then illegal
  else match srdValue s p t (wImm64 w).toNat with
    | none => illegal
    | some v => needRegs p t [.s (fs (wRd w))] s (.next (s.ws p t (wRd w) v))

/-! ## The rows -/

/-- NOP. -/
def execNop (p : Pa) (t : Thr) (w : IWord) (s : State) : Host.Outcome State Fault Refusal :=
  .next (attemptOf 0 0x00 p t w (nopBody w) s)

/-- B. -/
def execBranch (p : Pa) (t : Thr) (w : IWord) (s : State) : Host.Outcome State Fault Refusal :=
  .next (attemptOf 0 0x02 p t w (branchBody p t w) s)

/-- JAL. -/
def execJal (p : Pa) (t : Thr) (w : IWord) (s : State) : Host.Outcome State Fault Refusal :=
  .next (attemptOf 0 0x03 p t w (jalBody p t w) s)

/-- JR. -/
def execJr (p : Pa) (t : Thr) (w : IWord) (s : State) : Host.Outcome State Fault Refusal :=
  .next (attemptOf 0 0x04 p t w (jrBody p t w) s)

/-- LOOP. -/
def execLoop (p : Pa) (t : Thr) (w : IWord) (s : State) : Host.Outcome State Fault Refusal :=
  .next (attemptOf 0 0x08 p t w (loopBody p t w) s)

/-- TEND. -/
def execTend (p : Pa) (t : Thr) (w : IWord) (s : State) : Host.Outcome State Fault Refusal :=
  .next (attemptOf 0 0x10 p t w (tendBody p t w) s)

/-- TSTART. -/
def execTstart (p : Pa) (t : Thr) (w : IWord) (s : State) : Host.Outcome State Fault Refusal :=
  .next (attemptOf 0 0x11 p t w (tstartBody p t w) s)

/-- YIELD. -/
def execYield (p : Pa) (t : Thr) (w : IWord) (s : State) : Host.Outcome State Fault Refusal :=
  .next (attemptOf 0 0x12 p t w (yieldBody w) s)

/-- ERET. -/
def execEret (p : Pa) (t : Thr) (w : IWord) (s : State) : Host.Outcome State Fault Refusal :=
  .next (attemptOf 0 0x18 p t w (eretBody p t w) s)

/-- ERETN. -/
def execEretn (p : Pa) (t : Thr) (w : IWord) (s : State) : Host.Outcome State Fault Refusal :=
  .next (attemptOf 0 0x19 p t w (eretnBody p t w) s)

/-- SRD. -/
def execSrd (p : Pa) (t : Thr) (w : IWord) (s : State) : Host.Outcome State Fault Refusal :=
  .next (attemptOf 0 0x20 p t w (srdBody p t w) s)

/-- THREAD_END: a thread that issued TEND enters the ended state. -/
def execThreadEnd (p : Pa) (t : Thr) (s : State) : Host.Outcome State Fault Refusal :=
  .next (if endReady (s.pa p) t then endThread s p t else s)

/-- ISSUE_QUANTUM_EXPIRY: after 256 consecutive cycles of one thread, issue moves to another ready thread. -/
def execIssueQuantumExpiry (p : Pa) (s : State) : Host.Outcome State Fault Refusal :=
  .next (if 256 ≤ (s.pa p).runLen && otherReady s p then s.modPa p seek else s)

end Sys2Proof.Machine
end

