-- ==== Sys2Proof/Machine/Exports.lean ====
section
/-! DEFINITION. Interactive export and resume (R201 to R203, R325, R326). -/

namespace Sys2Proof.Machine

/-! ## Exports in progress -/

def findExport (s : State) (chan : BitVec 8) : Option Export := s.rp.exports.find? (·.chan = chan)

def modExport (s : State) (chan : BitVec 8) (f : Export → Export) : State :=
  { s with rp := { s.rp with exports := s.rp.exports.map fun e => if e.chan = chan then f e else e } }

def dropExport (s : State) (chan : BitVec 8) : State :=
  { s with rp := { s.rp with exports := s.rp.exports.filter (·.chan ≠ chan) } }

/-- The bytes of a piece of a footprint: a piece that meets an uncorrectable word, or lies in a peer's window, holds
bytes that the model leaves free. -/
def exportBytes (s : State) (a n : Nat) : List Byte × State :=
  match region s a, badAt s a n with
  | .bridge dev off, _ => (askWindow s dev off n none).drawBytes n
  | _, some b => let (bs, s1) := s.drawBytes n; (bs, noteBad s1 b)
  | _, none => (s.bytes a n, s)

/-- The pieces of `[off, off + n)`: 8,192 bytes, or fewer for the last (R325). -/
def exportPieces (fuel off n : Nat) : List (Nat × Nat) :=
  match fuel with
  | 0 => []
  | f + 1 => if n = 0 then [] else (off, min n 8192) :: exportPieces f (off + 8192) (n - 8192)

/-- Send a range of an export's footprint to a session. -/
def sendRange (s : State) (k : Fin 16) (e : Export) (off n : Nat) : State :=
  (exportPieces (n / 8192 + 1) off n).foldl (fun s q =>
    let (bs, s1) := exportBytes s (dBase e.desc + q.1) q.2
    tellSession s1 k (16 + q.2) fun d sid seq => .exportData d sid seq e.chan q.1 bs) s

/-- Send an export to a session. -/
def sendExport (s : State) (k : Fin 16) (e : Export) : State :=
  let n := objBytes s e.desc
  sendRange (tellSession s k 48 fun d sid seq => .exportMsg d sid seq e.chan e.desc n) k e 0 n

/-- R325: an export goes to every open control session, or to the first that opens. -/
def announceExport (s : State) (chan : BitVec 8) : State :=
  match findExport s chan, controlSlots s with
  | some e, k :: l => (k :: l).foldl (fun s k => sendExport s k e) (modExport s chan fun e => { e with sent := true })
  | _, _ => s

/-- R325: a control session opens: exports that no session has been sent go to it. -/
def sendWaiting (s : State) (k : Fin 16) : State :=
  (s.rp.exports.filter fun e => !e.sent).foldl (fun s e =>
    sendExport (modExport s e.chan fun e => { e with sent := true }) k e) s

/-- The CXPT of an export has ended: its thread goes on, or does when it attempts the instruction again. -/
def resumeExport (s : State) (e : Export) : State :=
  if (s.thr e.pa e.thr).wait = .exporting e.chan then releaseThread e.pa s e.thr
  else s.modThr e.pa e.thr fun y => { y with released := some e.fpc }

/-- R203: an export ends without an answer, c[cd] poisoned. -/
def failExport (s : State) (e : Export) (how : Nat) : State :=
  exportEnded (resumeExport (poisonReg (dropExport s e.chan) e.pa e.thr e.cd) e) e.chan how

/-! ## Answers (R202, R326) -/

/-- R202: what the device accepts of an answer's descriptor. -/
def answerFits (s : State) (e : Export) (d : Desc) : Bool :=
  (dTag d = dTag e.desc || e.altTag = some (dTag d)) && dScheme d = dScheme e.desc && dLgn d = dLgn e.desc
    && !malformed s d && e.ab % 4096 = 0 && populated s e.ab (objBytes s d) true

/-- The end of what the pieces cover from byte `n` on. -/
def coveredTo (l : List (Nat × Nat)) (n : Nat) : Nat :=
  l.foldl (fun m r => if r.1 ≤ n && m < r.2 then r.2 else m) n

/-- Every byte below `n` is covered. -/
def coversAll (fuel : Nat) (l : List (Nat × Nat)) (n : Nat) : Nat → Bool
  | m =>
    match fuel with
    | 0 => n ≤ m
    | f + 1 => if n ≤ m then true else if coveredTo l m = m then false else coversAll f l n (coveredTo l m)

/-- A piece of an answer is written at its offset. -/
def writeAnswer (s : State) (e : Export) (off : Nat) (data : List Byte) : State :=
  modExport (placeData s (e.ab + off) data) e.chan fun e => { e with covered := e.covered ++ [(off, off + data.length)] }

/-- R202: a descriptor with a base of its own and poisoned 0. -/
def rebase (d : Desc) (base : Nat) : Desc :=
  (d &&& ~~~ BitVec.ofNat 256 (2 ^ 48 - 1 + 2 ^ 144)) ||| BitVec.ofNat 256 (base % 2 ^ 48)

/-- An answer is accepted: the thread resumes with it (R202, R326). -/
def acceptAnswer (s : State) (e : Export) (d : Desc) : State :=
  let s1 := (dropExport s e.chan).modThr e.pa e.thr fun y => y.wc e.cd.val (rebase d e.ab)
  exportEnded (resumeExport s1 e) e.chan 0

/-! ## CXPT (R201) -/

/-- The fields that CXPT does not use are zero. -/
def cxptForm (f : PFields) : Bool :=
  !f.rsvd && !f.ip && f.cs2 = 0 && f.ad = 0 && f.as1 = 0 && f.as2 = 0 && f.lw = 0 && f.lc = 0 && f.comp = 0
    && (f.lazy || f.kh = 0)

/-- The tag that a lazy export also takes: tag_out of key entry kh. -/
def exportTag (s : State) (y : Thread) (f : PFields) : Option (BitVec 48) :=
  if f.lazy then (y.k.toArray.getD f.kh.val none).bind fun e => (s.rp.keys[e.val]?).map (·.tagOut) else none

/-- R201: what refuses an export. -/
def cxptCauses (s : State) (y : Thread) (f : PFields) : List (Option Cause) :=
  let d := y.rc f.cs1.val
  let ab := y.ra f.ab.val
  let n := objBytes s d
  objChecks s d f.cs1
    ++ [causeIf (f.lazy && (exportTag s y f).isNone) .illegal .k f.kh.val,
        causeIf (ab.toNat % 4096 ≠ 0) .align .a f.ab.val (ab.toNat % 2 ^ 48),
        causeIf (!addrOk ab || !populated s ab.toNat n true) .window .a f.ab.val (ab.toNat % 2 ^ 48),
        causeIf (overlap ab.toNat n (dBase d) n) .overlap]

/-- The export that CXPT opens. -/
def newExport (s : State) (p : Pa) (t : Thr) (f : PFields) : Export :=
  let y := s.thr p t
  { chan := BitVec.ofNat 8 f.imm, pa := p, thr := t, cd := f.cd, fpc := y.pc, desc := y.rc f.cs1.val, ab := (y.ra f.ab.val).toNat
    timeoutMs := f.imm / 256, altTag := exportTag s y f }

/-- An export opens: its thread waits, and the control sessions are told. -/
def openExport (s : State) (e : Export) : State :=
  announceExport (({ s with rp := { s.rp with exports := s.rp.exports ++ [e] } } : State).modThr e.pa e.thr
    fun y => { y with wait := .exporting e.chan }) e.chan

/-- The registers of CXPT. -/
def cxptRegs (f : PFields) : List Res := [.c f.cd, .c f.cs1, .a f.ab] ++ if f.lazy then [.k f.kh] else []

/-- CXPT. -/
def cxptBody (p : Pa) (t : Thr) (w : IWord) (s : State) : Issue :=
  let f := pFields w
  let chan := BitVec.ofNat 8 f.imm
  if wFmt w ≠ 6 then illegal
  else if !cxptForm f then refuse .illegal (some f.cd)
  else needRegs p t (cxptRegs f) s
    (match findExport s chan with
     | some e =>
       if e.pa = p ∧ e.thr = t then .wait [] (s.modThr p t fun y => { y with wait := .exporting chan })
       else refuse .illegal (some f.cd)
     | none =>
       if isReleased (s.thr p t) then .next s
       else unlessRefused (cxptCauses s (s.thr p t) f) (some f.cd) (.wait [] (openExport s (newExport s p t f))))

/-! ## The rows -/

/-- CXPT. -/
def execCxpt (p : Pa) (t : Thr) (w : IWord) (s : State) : Host.Outcome State Fault Refusal :=
  .next (attemptOf 6 0x30 p t w (cxptBody p t w) s)

/-- EXPORT_TIMEOUT: an export with a timeout, whose time has passed. -/
def execExportTimeout (chan : BitVec 8) (s : State) : Host.Outcome State Fault Refusal :=
  .next (match findExport s chan with
    | some e => if e.timeoutMs = 0 then s else failExport s e 2
    | none => s)

end Sys2Proof.Machine
end

