-- ==== Sys2Proof/Machine/Ethernet.lean ====
section
/-! DEFINITION. The Ethernet ports (R307 to R309) and the handshake that opens a session (R312 to R314). -/

namespace Sys2Proof.Machine

/-! ## Frames -/

/-- The port's link is up and the port is enabled. -/
def portServes (s : State) (e : EPort) : Bool := s.host.eth[e.val].linkUp && portCfg s e 0 1 = 1

/-- R307 to R309: the port takes the frame. -/
def frameTaken (s : State) (f : Frame) : Bool :=
  portServes s f.port && !f.fragment && (s.host.eth[f.port.val].macsec.isNone || f.macsecOk)
    && (if portCfg s f.port 1 1 = 1 then decide (f.vlan = some (BitVec.ofNat 12 (portCfg s f.port 2 12))) else f.vlan.isNone)

/-- The address asked for is the port's own and in use. -/
def ownAddress (s : State) (f : Frame) : Bool :=
  if f.v6 then
    portCfg s f.port 15 1 = 1
      && f.target = BitVec.ofNat 128 ((s.rwp (.hif (.ip6hi f.port))).toNat * 2 ^ 64 + (s.rwp (.hif (.ip6lo f.port))).toNat)
  else portCfg s f.port 14 1 = 1 && f.target = BitVec.ofNat 128 (s.rwpField (.hif (.ip4 f.port)) 0 32)

/-- The source of a frame. -/
def sourceOf (f : Frame) : Peer := { mac := f.srcMac, ip := f.srcIp, v6 := f.v6 }

/-- Where a reply goes: to the source of the request (R308). -/
def replyDest (s : State) (f : Frame) : Dest := destAt s f.port (sourceOf f)

/-- A reply goes to the source of the request, from the port that took it (R308). -/
def replyTo (s : State) (f : Frame) (kind : Nat) (payload : List Byte) : State :=
  if frameTaken s f && ownAddress s f then s.emit (.reply f.port (replyDest s f) kind payload) else s

/-- R307: the port takes a GHT datagram: its frame is one that the port takes, and it names the port's own address and the GHT
port. -/
def datagramTaken (s : State) (d : Datagram) : Bool :=
  frameTaken s d.toFrame && ownAddress s d.toFrame && d.udp = BitVec.ofNat 16 (s.rwpField (.hif .cfg) 0 16)

/-- R308: the IP packet of an echo reply has at most 8,320 bytes. -/
def echoFits (f : Frame) (payload : List Byte) : Bool := (if f.v6 then 48 else 28) + payload.length ≤ 8320

/-! ## Links -/

/-- The hub PLL and the Ethernet PLL of a port are locked. -/
def ethClocked (s : State) (e : EPort) : Bool :=
  s.clk.powered && !s.clk.inReset && s.clk.live.getLsbD (8 + e.val) && s.clk.live.getLsbD (16 + e.val)

def setEth (s : State) (e : EPort) (x : EthPort) : State :=
  { s with host := { s.host with eth := s.host.eth.set e.val x } }

def linkUp (s : State) (e : EPort) (optical : Bool) : State :=
  if ethClocked s e then setEth s e { s.host.eth[e.val] with linkUp := true, optical := optical } else s

/-- R315: no session ends. -/
def linkDown (s : State) (e : EPort) : State := setEth s e { s.host.eth[e.val] with linkUp := false }

/-! ## HELLO (R312, R314) -/

/-- Received UDP payload of a port (R444). -/
def ethIn (s : State) (e : EPort) (n : Nat) : State := s.portBytes (Fin.ofNat 76 e.val) false n

/-- Soundpost serves handshakes: it runs, has its identity and its Drone, and no restart is in progress (R376, R404). -/
def handshakesServed (s : State) : Bool :=
  soundpostUp s && s.spt.ready && !s.spt.recovery && s.spt.restart.isNone && s.spt.idOk && droneOk s && s.drone.rngOk

/-- Sessions of a role at a port, those whose handshake is in progress included. -/
def roleCount (s : State) (e : EPort) (control : Bool) : Nat :=
  ((portSessions s e).filter fun x => x.control = control).length
    + (s.host.handshakes.filter fun h => h.port = e && h.control = control).length

/-- The body of a HELLO (Table 11.3). -/
def helloBody (role rsvd : BitVec 8) (nonce x kem : List Byte) : List Byte :=
  [1, 0, role, rsvd] ++ nonce ++ x ++ kem

/-- R314: the status of a HELLO, its key agreement apart. -/
def helloStatus (s : State) (e : EPort) (role rsvd : BitVec 8) (nonce x kem : List Byte) : Nat :=
  if (role ≠ 1 ∧ role ≠ 2) ∨ rsvd ≠ 0 ∨ nonce.length ≠ 32 ∨ x.length ≠ 32 ∨ kem.length ≠ 1184 ∨ !kemKeyOk kem then 3
  else if 4 ≤ s.host.handshakes.length then 2
  else if (if role = 1 then 1 else 7) ≤ roleCount s e (role = 1) then 1
  else 0

/-- A HELLO_R that refuses: unsigned, and with no session. -/
def refuseHello (s : State) (f : Frame) (status : Nat) : State :=
  (s.emit (.helloR f.port (replyDest s f) status 0 [])).portBytes (Fin.ofNat 76 f.port.val) true (Config.handshakeBytes 0)

/-- What HELLO_R carries after its status and sid, up to its signatures. -/
def helloFields (nonce pub ct : List Byte) : List Byte :=
  nonce ++ pub ++ ct ++ Config.edPublic (idSeed 0) ++ Config.dsaPublic (idSeed 32)

/-- The session keys and salts (R312). -/
def sessionKeys (ssx ssk th : List Byte) : List Byte := shake256 72 ([0x47, 0x48, 0x54, 0x31] ++ ssx ++ ssk ++ th)

/-- HELLO is accepted: the random generator gives the nonce, the scalar, the encapsulation and the hedge, in this
order. -/
def acceptHello (s : State) (f : Frame) (role rsvd : BitVec 8) (nonce x kem : List Byte) : State :=
  let rnd := randomBytes s 4
  let scalar := (rnd.drop 32).take 32
  let shared := x25519Out scalar x
  if shared.status ≠ 0 then refuseHello s f 3
  else
    let enc := Config.kemEncaps kem ((rnd.drop 64).take 32)
    let sid := if s.host.nextSid = 0 then 1 else s.host.nextSid
    let fields := helloFields (rnd.take 32) (Config.x25519 scalar (9 :: zeroBytes 31)) (fitBytes 1088 enc.1)
    let body := [2, 0, 0, 0] ++ leBytes 4 sid.toNat ++ fields
    let th := sha3_384 (helloBody role rsvd nonce x kem ++ body)
    let sigs := Config.edSign (idSeed 0) th ++ Config.dsaSign (idSeed 32) th ((rnd.drop 96).take 32)
    let h : Handshake := {
      port := f.port, control := decide (role = 1), sid := sid, th := th
      okm := sessionKeys shared.out (fitBytes 32 enc.2) th }
    let s1 := takeRandom s 4
    let s2 := { s1 with host := { s1.host with handshakes := s1.host.handshakes ++ [h], nextSid := sid + 1 } }
    (s2.emit (.helloR f.port (replyDest s f) 0 sid (fields ++ sigs))).portBytes (Fin.ofNat 76 f.port.val) true (16 + 6517)

/-- HELLO. One whose outer header is wrong is malformed. -/
def takeHello (s : State) (d : Datagram) (role rsvd : BitVec 8) (nonce x kem : List Byte) : State :=
  if !datagramTaken s d then s
  else
    let s1 := ethIn s d.port (16 + 1252)
    if !handshakesServed s1 then s1
    else match (if d.outerOk then helloStatus s1 d.port role rsvd nonce x kem else 3) with
      | 0 => acceptHello s1 d.toFrame role rsvd nonce x kem
      | st => refuseHello s1 d.toFrame st

/-! ## FINISH (R313) -/

/-- The digest of a HIF_HOSTKEY entry, by completed writes. -/
def hostDigest (s : State) (i : Fin 8) : List Byte := wordBytes ((List.finRange 6).map fun w => s.rwp (.hif (.hostKey i w)))

/-- R313: the entry that admits a host. -/
def admitting (s : State) (control : Bool) (digest : List Byte) : Option (Fin 8) :=
  (List.finRange 8).find? fun i =>
    bit (s.rwp (.hif (.hostRole i))) 0 && hostDigest s i = digest && (!control || bit (s.rwp (.hif (.hostRole i))) 1)

/-- R313: how a host with verified signatures is admitted: under open mode, by an entry, or not at all. -/
def admission (s : State) (control : Bool) (digest : List Byte) : Option (Option (Fin 8)) :=
  if openMode s then some none
  else match admitting s control digest with
    | some i => some (some i)
    | none => none

def dropHandshake (s : State) (sid : BitVec 32) : State :=
  { s with host := { s.host with handshakes := s.host.handshakes.filter (·.sid ≠ sid) } }

def sendFinish (s : State) (f : Frame) (sid : BitVec 32) (status role idle : Nat) : State :=
  (s.emit (.finishR f.port (replyDest s f) sid status role idle)).portBytes (Fin.ofNat 76 f.port.val) true (Config.handshakeBytes 1)

/-- A free session slot of a port. -/
def freeSlot (s : State) (e : EPort) : Option (Fin 16) :=
  (List.finRange 16).find? fun k => slotPort k = e && (s.sess k).isNone

/-- The idle timeout in seconds (Table 11.10). -/
def idleSeconds (s : State) : Nat := max 1 (s.rwpField (.hif .cfg) 16 8)

/-- The session opens with its FINISH_R. -/
def openSession (s : State) (f : Frame) (h : Handshake) (k : Fin 16) (entry : Option (Fin 8)) : State :=
  let x : Session := {
    sid := h.sid, control := h.control, entry := entry, okm := h.okm, top := 0, seen := [0], tx := 1, peer := sourceOf f }
  let role := if h.control then 1 else 2
  let s1 := sendFinish (s.setSess k (some x)) f h.sid 0 role (idleSeconds s)
  let s2 := sendAll (s1.logRec 8 0 2 h.port.val h.sid.toNat) 4 (byte1 h.port.val ++ byte1 role ++ byte1 0)
  if h.control then sendWaiting s2 k else s2

/-- R313 fails. -/
def refuseFinish (s : State) (f : Frame) (h : Handshake) : State :=
  (sendFinish s f h.sid 4 0 0 |>.raiseBits (.hif .evt) 1).logRec 8 0 1 h.port.val h.sid.toNat

/-- FINISH in a handshake, its tag good. -/
def endHandshake (s : State) (f : Frame) (h : Handshake) (edPk dsaPk : List Byte) (sigsOk : Bool) : State :=
  let s1 := dropHandshake s h.sid
  match (if sigsOk then admission s h.control (sha3_384 (edPk ++ dsaPk)) else none), freeSlot s h.port with
  | some entry, some k => openSession s1 f h k entry
  | _, _ => refuseFinish s1 f h

/-- FINISH. One that names no handshake is a datagram of an unknown sid, or of seq 0 in an open session (R310). -/
def takeFinish (s : State) (d : Datagram) (sid : BitVec 32) (authOk : Bool) (edPk dsaPk : List Byte) (sigsOk : Bool) : State :=
  if !datagramTaken s d then s
  else
    let e := d.port
    let s1 := ethIn s e (48 + 5357)
    match s.host.handshakes.find? fun h => h.sid = sid && h.port = e with
    | some h =>
      if !d.outerOk then s1.countSat (.hif (.errCnt e)) 32 16 1
      else if !authOk then s1.countSat (.hif (.errCnt e)) 0 16 1
      else if !soundpostUp s1 then s1
      else endHandshake s1 d.toFrame h edPk dsaPk sigsOk
    | none =>
      if d.outerOk && (portSessions s e).any (·.sid = sid) then
        (if authOk then s1.countSat (.hif (.errCnt e)) 16 16 1 else s1.countSat (.hif (.errCnt e)) 0 16 1)
      else s1.countSat (.hif (.errCnt e)) 32 16 1

/-! ## The commands -/

def execArpRequest (f : Frame) (s : State) : Host.Outcome State Fault Refusal :=
  .next (if f.v6 then s else replyTo s f 0 [])

def execNeighbourSolicitation (f : Frame) (s : State) : Host.Outcome State Fault Refusal :=
  .next (if f.v6 then replyTo s f 1 [] else s)

def execIcmpEcho (f : Frame) (payload : List Byte) (s : State) : Host.Outcome State Fault Refusal :=
  .next (if echoFits f payload then replyTo s f 2 payload else s)

/-- R308: nothing counts the frame. -/
def execFrameDiscard (_f : Frame) (s : State) : Host.Outcome State Fault Refusal := .next s

def execHello (d : Datagram) (role rsvd : BitVec 8) (nonce x25519 kem : List Byte) (s : State) :
    Host.Outcome State Fault Refusal := .next (takeHello s d role rsvd nonce x25519 kem)

def execFinish (d : Datagram) (sid : BitVec 32) (authOk : Bool) (edPk dsaPk : List Byte) (sigsOk : Bool) (s : State) :
    Host.Outcome State Fault Refusal := .next (takeFinish s d sid authOk edPk dsaPk sigsOk)

/-- HANDSHAKE_TIMEOUT: 1 s after its HELLO_R. -/
def execHandshakeTimeout (sid : BitVec 32) (s : State) : Host.Outcome State Fault Refusal := .next (dropHandshake s sid)

def execEthLinkUp (port : EPort) (optical : Bool) (s : State) : Host.Outcome State Fault Refusal :=
  .next (linkUp s port optical)

def execEthLinkDown (port : EPort) (s : State) : Host.Outcome State Fault Refusal := .next (linkDown s port)

end Sys2Proof.Machine
end

