-- ==== Sys2Proof/Machine/Reduce.lean ====
section
/-! DEFINITION. Encrypted reduction over the Bridge's trees (R352 to R358, R363). -/

namespace Sys2Proof.Machine

/-! ## A context and its contribution (R352) -/

def rcCount (s : State) (j : Fin 4) : Nat := s.regField (.sys (.rcCfg j)) 0 8 + 1
def rcEnabled (s : State) (j : Fin 4) : Bool := s.regBit (.sys (.rcCfg j)) 8
def rcInplace (s : State) (j : Fin 4) : Bool := s.regBit (.sys (.rcCfg j)) 9
def rcRetries (s : State) (j : Fin 4) : Nat := s.regField (.sys (.rcCfg j)) 12 3
def rcTab (s : State) (j : Fin 4) : Nat := s.regField (.sys (.rcTab j)) 0 48
def rcRes (s : State) (j : Fin 4) : Nat := s.regField (.sys (.rcRes j)) 0 48
def rcRtab (s : State) (j : Fin 4) : Nat := s.regField (.sys (.rcRtab j)) 0 48
def rcArm (s : State) (j : Fin 4) : Nat := s.regField (.sys (.rcArm j)) 0 48

/-- The round that runs, or the next to run. -/
def rcRound (s : State) (j : Fin 4) : BitVec 32 := (s.red j).round + 1

/-- The contribution table. -/
def rcDescs (s : State) (j : Fin 4) : List Desc :=
  (upFrom 0 (rcCount s j)).map fun i => BitVec.ofNat 256 (s.num (rcTab s j + 32 * i) 32)

/-- Where each footprint starts among the bytes of the contribution. -/
def rcStarts (s : State) (off : Nat) : List Desc → List (Nat × Desc)
  | [] => []
  | d :: r => (off, d) :: rcStarts s (off + objBytes s d) r

/-- The bytes of the contribution. -/
def rcBytes (s : State) (j : Fin 4) : Nat := ((rcDescs s j).map (objBytes s)).foldl (· + ·) 0

/-- One 4 KiB block: where its contribution and its result lie, and the modulus of its limb. -/
structure BlockAt where
  src : Nat
  dst : Nat
  q : Nat
  deriving DecidableEq, Repr

/-- Block `b` (R354, step 3; R41, R45). -/
def redBlockAt (s : State) (j : Fin 4) (b : Nat) : Option BlockAt :=
  ((rcStarts s 0 (rcDescs s j)).find? fun e => e.1 ≤ b * 4096 && b * 4096 < e.1 + objBytes s e.2).map fun e =>
    let o := b * 4096 - e.1
    let limb := o / (dN e.2 * 8) % dLimbs e.2
    { src := dBase e.2 + o, dst := if rcInplace s j then dBase e.2 + o else rcRes s j + b * 4096, q := modQ s limb }

def rcBlocks (s : State) (j : Fin 4) : Nat := rcBytes s j / 4096

/-- The tree that carries block `b`: tree B is true. -/
def blockTree (s : State) (j : Fin 4) (b : Nat) : Bool :=
  match usedTrees s j with
  | [t] => t
  | _ => b % 2 = 1

/-- R356. -/
def checksum (q : Nat) (xs : List Nat) : Nat :=
  ((xs.zip (upFrom 1 xs.length)).foldl (fun c e => (c + e.2 * (e.1 % q)) % q) 0)

/-! ## Fingerprint (R354, step 2) -/

def fingerprint (s : State) : BitVec 32 :=
  crc32c ((upFrom 0 (modC s + modK s)).flatMap fun i => leBytes 8 (modQ s i))

/-! ## Headers -/

def entryOfDesc (d : Desc) : RoundEntry where
  lgn := BitVec.ofNat 3 (dLgn d)
  limbs := BitVec.ofNat 6 (dLimbs d - 1)
  level := BitVec.ofNat 6 (dLevel d)
  scheme := BitVec.ofNat 3 (dScheme d)
  form := dEval d
  tag := dTag d
  scale := BitVec.ofNat 12 (dScale d)
  noise := BitVec.ofNat 16 (dNoise d)
  count := 1
  unreliable := dUnreliable d

/-- The shape fields of two entries agree. -/
def sameShape (a b : RoundEntry) : Bool :=
  a.lgn = b.lgn && a.limbs = b.limbs && a.level = b.level && a.scheme = b.scheme && a.form = b.form && a.tag = b.tag
    && a.scale = b.scale

def mergeEntry (a b : RoundEntry) : RoundEntry :=
  { a with noise := if a.noise.toNat ≤ b.noise.toNat then b.noise else a.noise, count := a.count + b.count,
           unreliable := a.unreliable || b.unreliable }

/-- Merge a child's entries into this device's; none when a shape differs. -/
def mergeEntries : List RoundEntry → List RoundEntry → Option (List RoundEntry)
  | [], [] => some []
  | a :: r, b :: t => if sameShape a b then (mergeEntries r t).map (mergeEntry a b :: ·) else none
  | _, _ => none

/-- The RHDR packet of a header: an entry of 16 bytes for each descriptor, and the rest among its arguments. -/
def headerPacket (s : State) (n : BPort) (h : RoundHeader) : Packet :=
  roundPacket s n .rhdr [h.ctx.val, h.round.toNat, if h.treeB then 1 else 0, h.fingerprint.toNat] (h.entries.flatMap entryBytes)

/-- A header, and the bytes it puts on a link. -/
def sendHeader (s : State) (n : BPort) (h : RoundHeader) : State :=
  if portUsable s n then
    ((pushFlits s n (packetFlits PktKind.rhdr.code (headerPacket s n h))).emit (.header n h)).portBytes
      (Fin.ofNat 76 (2 + n.val)) true (16 * h.entries.length)
  else s

def ownHeader (s : State) (j : Fin 4) (treeB : Bool) (l : List RoundEntry) : RoundHeader :=
  { ctx := j, round := rcRound s j, treeB := treeB, entries := l, fingerprint := fingerprint s }

/-- A block with its checksum. -/
def sendBlock (s : State) (n : BPort) (b : RoundBlock) : State :=
  if portUsable s n then
    ((pushFlits s n (blockFlits b)).emit (.block n b)).portBytes (Fin.ofNat 76 (2 + n.val)) true 4096
  else s

def newBlock (s : State) (j : Fin 4) (treeB : Bool) (b q : Nat) (xs : List Nat) : RoundBlock where
  ctx := j
  attempt := (s.red j).attempts
  treeB := treeB
  index := BitVec.ofNat 32 b
  words := xs.map (BitVec.ofNat 64)
  checksum := BitVec.ofNat 64 (checksum q xs)

/-- The block's checksum agrees with the one it carries. -/
def checksumOk (q : Nat) (b : RoundBlock) : Bool := b.checksum.toNat = checksum q (b.words.map (·.toNat))

/-! ## Aborts and restarts (R356, R357) -/

/-- BRG_RERR: the first mismatch is recorded. -/
def recordMismatch (s : State) (j : Fin 4) (treeB : Bool) (where_ b : Nat) : State :=
  let s1 :=
    if s.regBit (.sys .rerr) 37 then s.raiseBits (.sys .rerr) (mask 38 1)
    else s.setReg (.sys .rerr) ((s.reg (.sys .rerr) &&& mask 38 1) ||| mask 37 1
      ||| BitVec.ofNat 64 (j.val + (if treeB then 4 else 0) + where_ * 8 + b % 2 ^ 32 * 32))
  (s1.raiseBits (.sys .evt) 32).logRec 7 2 4 0 b

/-- A restart is still permitted. -/
def mayRestart (s : State) (j : Fin 4) : Bool := !rcInplace s j && (s.red j).attempts.toNat < rcRetries s j

/-- The round stops and waits for the acknowledgements of the devices below; its result region is undefined until the next
attempt writes it. -/
def haltRound (s : State) (j : Fin 4) : State :=
  (if rcInplace s j then s else s.scramble (rcRes s j) (rcBytes s j)).modRed j fun c => { c with phase := .aborting, parts := [], hdrs := [], written := [], sent := [], finals := [], acks := [] }

/-! ## The up path -/

/-- The engine reads or writes HBM through the slices, with the class of Bridge traffic (R256, R257), as the port that the hub
of its contexts has (DESIGN CHOICE, log entry 86). -/
def engineAt (s : State) (a n : Nat) (wr : Bool) : State := atSlices s (.bridge 0) .scratch a n wr

/-- This device's words of a block; none when the read is uncorrectable. -/
def ownWords (s : State) (j : Fin 4) (k : BlockAt) : Option (List Nat × State) :=
  match badAt s k.src 4096 with
  | some _ => none
  | none => some ((s.words k.src 512).map (·.toNat), (engineAt s k.src 4096 false).portBytes (Fin.ofNat 76 (72 + j.val)) false 4096)

/-- R76: word by word, canonical. -/
def addBlocks (q : Nat) : List Nat → List Nat → List Nat
  | a :: r, b :: t => (a % q + b % q) % q :: addBlocks q r t
  | a :: r, [] => a % q :: addBlocks q r []
  | [], _ => []

/-- A result block is written at its home. -/
def writeResult (s : State) (j : Fin 4) (k : BlockAt) (b : Nat) (xs : List Nat) : State :=
  let s1 := ((engineAt s k.dst 4096 true).write k.dst (xs.flatMap fun x => leBytes 8 x)).portBytes (Fin.ofNat 76 (72 + j.val)) true 4096
  s1.modRed j fun c => { c with written := nins c.written b }

/-- The children whose block a sum needs. -/
def blockChildren (s : State) (treeB : Bool) : List BPort :=
  match ownAddr s with
  | some a => childPorts a s.brg.sysCount treeB
  | none => []

def isRoot (s : State) : Bool := ownAddr s = some 0

/-- The final header goes down a tree once the root has written all its blocks. -/
def finishTree (s : State) (j : Fin 4) (treeB : Bool) : State :=
  let c := s.red j
  let mine := (upFrom 0 (rcBlocks s j)).filter fun b => blockTree s j b = treeB
  if isRoot s ∧ !c.finals.contains treeB ∧ mine.all c.written.contains then
    let s1 := s.modRed j fun c => { c with finals := c.finals ++ [treeB] }
    (blockChildren s treeB).foldl (fun s n => sendHeader s n (ownHeader s j treeB c.merged)) s1
  else s

/-- A sum leaves this device: down from the root, up from any other. -/
def passSum (s : State) (j : Fin 4) (treeB : Bool) (b : Nat) (k : BlockAt) (xs : List Nat) : State :=
  let out := newBlock s j treeB b k.q xs
  if isRoot s then
    finishTree ((blockChildren s treeB).foldl (fun s n => sendBlock s n out) (writeResult s j k b xs)) j treeB
  else
    (parentPorts 1 treeB).foldl (fun s n => sendBlock s n out) (s.modRed j fun c => { c with sent := nins c.sent b })

/-- A block whose parts have all arrived is checked, summed and sent on. `upset` names the block, if any, whose own output compare
fails (R356): its adders have erred. -/
def sumBlock (mismatch : State → Bool → Nat → Nat → State) (upset : Option (BitVec 32)) (j : Fin 4) (s : State) (b : Nat) : State :=
  let c := s.red j
  let tb := blockTree s j b
  let kids := blockChildren s tb
  let got := c.parts.filter fun e => e.2.index.toNat = b && e.2.treeB = tb && e.2.attempt = c.attempts
  if c.phase ≠ .blocks ∨ c.sent.contains b ∨ c.written.contains b ∨ !(kids.all fun n => got.any (·.1 = n)) then s
  else match redBlockAt s j b with
    | none => s
    | some k =>
      let parts := kids.filterMap fun n => got.find? (·.1 = n)
      match parts.find? fun e => !checksumOk k.q e.2 with
      | some e => mismatch s tb (if e.1 = treePort tb 1 then 0 else 1) b
      | none =>
        match ownWords s j k with
        | none => failRound 9 none ((badAt s k.src 4096).elim s (noteBad s)) j
        | some (own, s1) =>
          let sum := parts.foldl (fun xs e => addBlocks k.q xs (e.2.words.map (·.toNat))) (own.map (· % k.q))
          let s2 := s1.modRed j fun c => { c with parts := c.parts.filter fun e => !(e.2.index.toNat = b && e.2.treeB = tb) }
          if upset.any (·.toNat = b) ∧ !kids.isEmpty then mismatch s2 tb 2 b else passSum s2 j tb b k sum

/-- All blocks whose parts have arrived. -/
def sumReady (mismatch : State → Bool → Nat → Nat → State) (upset : Option (BitVec 32)) (s : State) (j : Fin 4) : State :=
  let s1 := (upFrom 0 (rcBlocks s j)).foldl (sumBlock mismatch upset j) s
  (usedTrees s j).foldl (fun s t => if (s.red j).phase = .blocks then finishTree s j t else s) s1

/-! ## Starting an attempt -/

/-- The child headers of the running round, over the trees in use. -/
def childHeaders (s : State) (j : Fin 4) : List RoundHeader :=
  (redChildren s j).filterMap fun n =>
    ((s.red j).hdrs.find? fun e => e.1 = n && e.2.round = rcRound s j).map (·.2)

/-- The merged entries of one tree. -/
def mergeTree (s : State) (j : Fin 4) (treeB : Bool) : Option (List RoundEntry) :=
  ((childHeaders s j).filter (·.treeB = treeB)).foldl (fun o h => o.bind fun l => mergeEntries l h.entries)
    (some ((rcDescs s j).map entryOfDesc))

/-- R354, step 2: once every child's header has come, this device merges them and its own, and sends them up; its
blocks follow. -/
def settleHeaders (mismatch : State → Bool → Nat → Nat → State) (upset : Option (BitVec 32)) (s : State) (j : Fin 4) : State :=
  let hs := childHeaders s j
  if (s.red j).phase ≠ .headers ∨ hs.length ≠ (redChildren s j).length then s
  else if hs.any fun h => h.fingerprint ≠ fingerprint s then failRound 6 none s j
  else match (usedTrees s j).filterMap (mergeTree s j) with
    | [] => failRound 3 none s j
    | l :: r =>
      if (l :: r).length ≠ (usedTrees s j).length then failRound 3 none s j
      else if isRoot s ∧ (l.any fun e => e.count ≠ s.brg.sysCount) then failRound 10 none s j
      else
        let s1 := s.modRed j fun c => { c with phase := .blocks, merged := l, hdrs := [] }
        let s2 := if isRoot s then s1
          else (usedTrees s j).foldl (fun s t => sendHeader s (treePort t 0) (ownHeader s j t l)) s1
        sumReady mismatch upset s2 j

/-- A tree without a parent, and a device without children, wait for nobody. -/
def restartRound (mismatch : State → Bool → Nat → Nat → State) (s : State) (j : Fin 4) (attempt : BitVec 3) : State :=
  settleHeaders mismatch none (s.modRed j fun c => { c with phase := .headers, attempts := attempt, acks := [] }) j

/-- RESTART to the children of a tree. -/
def sendRestart (s : State) (j : Fin 4) (treeB : Bool) (attempt : BitVec 3) : State :=
  ((blockChildren s treeB).filter (portUsable s)).foldl (fun s n =>
    (pushFlits s n (packetFlits PktKind.restart.code (roundPacket s n .restart [j.val, attempt.toNat] []))).emit
      (.roundRestart n j attempt)) s

/-- Every device below has acknowledged: the root restarts the round, any other device acknowledges in turn. -/
def settleAcks (s : State) (j : Fin 4) : State :=
  let c := s.red j
  if c.phase ≠ .aborting ∨ !((redChildren s j).all c.acks.contains) then s
  else if isRoot s then
    let a := c.attempts + 1
    let s1 := (usedTrees s j).foldl (fun s t => sendRestart s j t a) s
    s1.modRed j fun c => { c with phase := .headers, attempts := a, acks := [] }
  else sendAborts s j (redParents s j) 0

/-- R357: a notice that a round stops for a restart, from a port or from this device itself. -/
def stopRound (s : State) (j : Fin 4) (from_ : Option BPort) : State :=
  let s1 := sendAborts (haltRound s j) j ((redParents s j ++ redChildren s j).filter fun n => some n ≠ from_) 5
  settleAcks s1 j

/-- R357: this device finds a checksum mismatch. -/
def findMismatch (j : Fin 4) (s : State) (treeB : Bool) (where_ b : Nat) : State :=
  let s1 := recordMismatch s j treeB where_ b
  if mayRestart s1 j then stopRound s1 j none else failRound 5 none s1 j

/-- A root alone in its cascade restarts at once; so does any root after the last acknowledgement. -/
def goOn (s : State) (j : Fin 4) : State :=
  if (s.red j).phase = .headers then settleHeaders (findMismatch j) none s j else s

/-! ## Arming and starting (R353, R354 step 1) -/

/-- A footprint wholly in HBM. -/
def wholeHbm (s : State) (a n : Nat) : Bool := region s a = .hbm && populated s a n true

/-- Step 1: the code that fails the round, or 0. A context whose arm word or result table is out of its place (R352) is an invalid
one (log entry 92). -/
def localCheck (s : State) (j : Fin 4) : Nat :=
  let ds := rcDescs s j
  let fp := ds.map fun d => (dBase d, objBytes s d)
  let res := (rcRes s j, rcBytes s j)
  let ports := redParents s j ++ redChildren s j
  if (ownAddr s).isNone then 10
  else if !(ports.all (portUsable s)) then 8
  else if rcTab s j % 32 ≠ 0 ∨ !wholeHbm s (rcTab s j) (32 * rcCount s j) then 1
  else if rcArm s j % 16 ≠ 0 ∨ !wholeHbm s (rcArm s j) 16 then 1
  else if !rcInplace s j ∧ (rcRtab s j % 32 ≠ 0 ∨ !wholeHbm s (rcRtab s j) (32 * rcCount s j)) then 1
  else if (badAt s (rcTab s j) (32 * rcCount s j)).isSome then 9
  else if ds.any (fun d => malformed s d || dBase d % 4096 ≠ 0 || dScheme d = 3 || dScheme d = 4) ∨ !(fp.all fun f => wholeHbm s f.1 f.2) then 1
  else if !rcInplace s j ∧ (rcRes s j % 4096 ≠ 0 ∨ !wholeHbm s res.1 res.2 ∨ (fp.any fun f => overlap res.1 res.2 f.1 f.2)) then 1
  else if ds.any dPoisoned then 2
  else 0

/-- The round after the newest starts. -/
def startRound (upset : Option (BitVec 32)) (s : State) (j : Fin 4) : State :=
  let s1 := s.modRed j fun c =>
    { c with phase := .headers, attempts := 0, held := none, written := [], sent := [], finals := [], acks := [], merged := [], fail := 0 }
  match localCheck s1 j with
  | 0 => settleHeaders (findMismatch j) upset s1 j
  | code => failRound code none s1 j

/-- ROUND_ARM: the engine sees a store to the arm word. -/
def armRound (s : State) (j : Fin 4) (v : Word) (upset : Option (BitVec 32)) : State :=
  let c := s.red j
  let r := BitVec.ofNat 32 v.toNat
  if field v 32 32 ≠ 0 ∨ !rcEnabled s j ∨ s.rp.prog.isNone then s.raiseBits (.sys .evt) 64
  else if !c.running ∧ r = c.round + 1 then startRound upset s j
  else if c.running ∧ r = c.round + 2 ∧ c.held.isNone then s.modRed j fun c => { c with held := some r }
  else s.raiseBits (.sys .evt) 64

/-! ## What arrives -/

/-- Bytes of reduction data on a link. -/
def countIn (s : State) (n : BPort) (k : Nat) : State := s.portBytes (Fin.ofNat 76 (2 + n.val)) false k

/-- The final header comes down a tree. -/
def recvFinal (s : State) (j : Fin 4) (h : RoundHeader) : State :=
  let c := s.red j
  if c.phase ≠ .blocks ∨ h.round ≠ rcRound s j ∨ c.finals.contains h.treeB then s
  else
    let s1 := s.modRed j fun c => { c with merged := h.entries, finals := c.finals ++ [h.treeB] }
    (blockChildren s h.treeB).foldl (fun s n => sendHeader s n h) s1

/-- RHDR. -/
def recvHeader (s : State) (n : BPort) (h : RoundHeader) (upset : Option (BitVec 32)) : State :=
  let j := h.ctx
  match treePlace n with
  | none => s
  | some (tb, place) =>
    if !portUsable s n ∨ tb ≠ h.treeB then s
    else
      let s1 := countIn s n (16 * h.entries.length)
      if place = 0 then recvFinal s1 j h
      else
        let s2 := s1.modRed j fun c => { c with hdrs := (c.hdrs.filter fun e => e.1 ≠ n) ++ [(n, h)] }
        settleHeaders (findMismatch j) upset s2 j

/-- A block comes down: it is checked, written and passed on. -/
def recvDown (s : State) (j : Fin 4) (b : RoundBlock) : State :=
  let c := s.red j
  if c.phase ≠ .blocks ∨ b.attempt ≠ c.attempts ∨ b.words.length ≠ 512 then s
  else match redBlockAt s j b.index.toNat with
    | none => s
    | some k =>
      if b.treeB ≠ blockTree s j b.index.toNat then s
      else if !checksumOk k.q b then findMismatch j s b.treeB 3 b.index.toNat
      else
        let s1 := writeResult s j k b.index.toNat (b.words.map (·.toNat))
        (blockChildren s b.treeB).foldl (fun s n => sendBlock s n b) s1

/-- REDUCTION_BLOCK. -/
def recvBlock (s : State) (n : BPort) (b : RoundBlock) (upset : Bool) : State :=
  let j := b.ctx
  match treePlace n with
  | none => s
  | some (tb, place) =>
    if !portUsable s n ∨ tb ≠ b.treeB then s
    else
      let s1 := countIn s n 4096
      if place = 0 then recvDown s1 j b
      else if b.words.length ≠ 512 then s1
      else
        let s2 := s1.modRed j fun c => { c with parts := c.parts ++ [(n, b)] }
        sumBlock (findMismatch j) (if upset then some b.index else none) j s2 b.index.toNat

/-- ABORT: a notice that the round fails, a notice that it restarts, or an acknowledgement. -/
def recvAbort (s : State) (n : BPort) (j : Fin 4) (code : Nat) : State :=
  let c := s.red j
  if !portUsable s n ∨ !c.live ∨ !(redParents s j ++ redChildren s j).contains n then s
  else if code = 0 then
    (if c.phase = .aborting ∧ (redChildren s j).contains n then
      goOn (settleAcks (s.modRed j fun c => { c with acks := n :: c.acks.filter (· ≠ n) }) j) j
     else s)
  else if code = 5 ∧ mayRestart s j then
    (if c.phase = .aborting then s else goOn (stopRound s j (some n)) j)
  else failRound code (some n) s j

/-- RESTART, from the parent of a tree. -/
def recvRestart (s : State) (n : BPort) (j : Fin 4) (attempt : BitVec 3) : State :=
  match treePlace n with
  | some (tb, 0) =>
    if !portUsable s n ∨ !(redParents s j).contains n ∨ !(s.red j).live then s
    else
      let s1 := sendRestart s j tb attempt
      if (s1.red j).phase = .aborting then restartRound (findMismatch j) s1 j attempt else s1
  | _ => s

/-! ## The end of a round (R355, R358) -/

/-- ceil256 of log2 of a count, Q8.8. -/
def ceilLog2 (n : Nat) : Nat := if n ≤ 1 then 0 else Nat.log2 (n ^ 256 - 1) + 1

/-- Result descriptor (R355). -/
def resultDesc (e : RoundEntry) (base : Nat) : Desc :=
  let n := min 0xFFFF (e.noise.toNat + ceilLog2 e.count)
  BitVec.ofNat 256 (base + e.lgn.toNat * 2 ^ 48 + e.limbs.toNat * 2 ^ 52 + e.level.toNat * 2 ^ 58
    + e.scheme.toNat * 2 ^ 64 + (if e.form then 2 ^ 67 else 0) + e.tag.toNat * 2 ^ 68 + e.scale.toNat * 2 ^ 116
    + n * 2 ^ 128 + (if e.unreliable then 2 ^ 145 else 0))

/-- The result descriptors, in table order, over the contribution's own when the context is in place. -/
def resultDescs (s : State) (j : Fin 4) : List Desc :=
  ((rcStarts s 0 (rcDescs s j)).zip (s.red j).merged).map fun x =>
    resultDesc x.2 (if rcInplace s j then dBase x.1.2 else rcRes s j + x.1.1)

/-- A round whose blocks and final headers have all come. -/
def roundWhole (s : State) (j : Fin 4) : Bool :=
  let c := s.red j
  c.phase = .blocks && (usedTrees s j).all c.finals.contains && (upFrom 0 (rcBlocks s j)).all c.written.contains

/-- The done word (R358). -/
def doneWord (r : BitVec 32) (code : Nat) : Word :=
  BitVec.ofNat 64 (r.toNat + code * 2 ^ 32 + (if code = 0 then 0 else 2 ^ 63))

/-- BRG_RC_STAT after a round. -/
def closeRound (s : State) (j : Fin 4) (code : Nat) : State :=
  let r := rcRound s j
  let s1 := (engineAt s (rcArm s j + 8) 8 true).writeWord (rcArm s j + 8) (doneWord r code)
  s1.modRed j fun c =>
    { c with round := r, code := BitVec.ofNat 8 code, phase := .idle, written := [], sent := [], finals := [], acks := [], merged := [],
             parts := if code = 0 then c.parts else [] }

/-- A held arm starts as the round before it completes (R353). -/
def startHeld (upset : Option (BitVec 32)) (s : State) (j : Fin 4) : State :=
  match (s.red j).held with
  | some _ => if s.rp.prog.isSome ∧ rcEnabled s j then startRound upset s j else s.modRed j fun c => { c with held := none }
  | none => s

/-- ROUND_DONE. -/
def endRound (s : State) (j : Fin 4) (upset : Option (BitVec 32)) : State :=
  let c := s.red j
  if c.phase = .failing then
    let s1 := (closeRound s j c.fail.toNat).raiseBits (.sys .evt) 16
    startHeld upset (s1.logRec 7 2 5 j.val c.fail.toNat) j
  else if roundWhole s j then
    let tab := if rcInplace s j then rcTab s j else rcRtab s j
    let ds := resultDescs s j
    let s1 := (engineAt s tab (32 * ds.length) true).write tab (ds.flatMap fun d => leBytes 32 d.toNat)
    startHeld upset (closeRound s1 j 0) j
  else s

/-- CONTEXT_DISABLE: clearing enable; a running round fails. -/
def disableContext (s : State) (j : Fin 4) : State := failRound 7 none (s.putRegField (.sys (.rcCfg j)) 8 1 0) j

/-! ## The rows -/

def execRoundArm (j : Fin 4) (v : Word) (upset : Option (BitVec 32)) (s : State) : Host.Outcome State Fault Refusal :=
  .next (armRound s j v upset)
def execRhdr (n : BPort) (hdr : RoundHeader) (upset : Option (BitVec 32)) (s : State) : Host.Outcome State Fault Refusal :=
  .next (recvHeader (beginWake s) n hdr upset)
def execReductionBlock (n : BPort) (blk : RoundBlock) (upset : Bool) (s : State) : Host.Outcome State Fault Refusal :=
  .next (recvBlock (beginWake s) n blk upset)
def execAbortRound (n : BPort) (j : Fin 4) (code : BitVec 8) (s : State) : Host.Outcome State Fault Refusal :=
  .next (recvAbort (beginWake s) n j code.toNat)
def execRestart (n : BPort) (j : Fin 4) (attempt : BitVec 3) (s : State) : Host.Outcome State Fault Refusal :=
  .next (recvRestart (beginWake s) n j attempt)

/-- ROUND_TIMEOUT. -/
def execRoundTimeout (j : Fin 4) (s : State) : Host.Outcome State Fault Refusal := .next (failRound 4 none s j)

def execRoundDone (j : Fin 4) (upset : Option (BitVec 32)) (s : State) : Host.Outcome State Fault Refusal :=
  .next (endRound s j upset)
def execContextDisable (j : Fin 4) (s : State) : Host.Outcome State Fault Refusal := .next (disableContext s j)

end Sys2Proof.Machine
end

