-- ==== Sys2Proof/Machine/Service.lean ====
section
/-! DEFINITION. The service commands (R401 to R408) and the end of a mailbox command. -/

namespace Sys2Proof.Machine

/-- A service command other than SLOT_WRITE and SP_RESTART wakes the device (R425). -/
def serviceWakes (c : Nat) : Bool := serviceCmd c && c ≠ 0x10 && c ≠ 0x11

/-- A write of SPT_MB_CMD(p) (R382, R401); it waits while a restart runs (R404). -/
def commandWrite (s : State) (p : EPort) (c : BitVec 8) : State :=
  if s.spt.restart.isSome then { s with spt := { s.spt with owedCmds := s.spt.owedCmds.set p.val (some c) } }
  else if (s.box p).isSome then writeMailbox s p c
  else
    let s1 := writeMailbox s p c
    match s1.box p with
    | some m => if m.started && serviceWakes c.toNat then beginWake s1 else s1
    | none => s1

/-- The service command `c` that port `p` runs, once the device is awake where the command needs it. -/
def serviceRuns (s : State) (p : EPort) (c : Nat) : Option MailboxCmd :=
  if serviceWakes c && asleep s then none else boxRuns s p c

/-! ## SLOT_WRITE (R403) -/

/-- The images of a bundle from address `a`, by kind, as address and length, or the first that fails with its status. -/
def bundleImages (s : State) (sigs : Vector SigFacts 4) : List (Fin 4) → Nat → List (Nat × Nat) → Except (Nat × Nat) (List (Nat × Nat))
  | [], _, l => .ok l
  | k :: r, a, l =>
    if !(region s a = .hbm && populated s a 4096 false) then .error (0x17, 0)
    else
      let n := 4096 + bodyLen (s.bytes a 4096)
      if bodyLen (s.bytes a 4096) ≤ largestBody (k.val + 1) && !(populated s a n false) then .error (0x17, 0)
      else
        let v := verifyAt s a (min n (4096 + largestBody (k.val + 1) + 4096)) (some (k.val + 1)) sigs[k.val]
        if v = 0 then bundleImages s sigs r (a + n) (l ++ [(a, n)]) else .error (v, k.val + 1)

/-- Program one image at its place in a slot. -/
def programImage (slot : Nat) (s : State) (e : Nat × (Nat × Nat)) : State :=
  { s with spt := { s.spt with
      store := putBytes s.spt.store (slot * 0x1000000 + slotOffset (e.1 + 1)) (s.bytes e.2.1 e.2.2)
      slotCut := s.spt.slotCut.setIfInBounds slot false } }

/-- R403, step 4: the slot's loader magic is erased. -/
def eraseMagic (slot : Nat) (s : State) : State :=
  { s with spt := { s.spt with store := serase s.spt.store (slot * 0x1000000) 8 } }

def runSlotWrite (s : State) (p : EPort) (sigs : Vector SigFacts 4) (readBackOk : Bool) : State :=
  match serviceRuns s p 0x10 with
  | none => s
  | some m =>
    let slot := m.arg 1
    if 2 ≤ slot ∨ m.arg 0 % 4096 ≠ 0 then s.boxDone p 0x17 [0]
    else if slot = (if s.spt.slot then 1 else 0) then s.boxDone p 0x12 [0]
    else
      match bundleImages s sigs (List.finRange 4) (m.arg 0) [] with
      | .error e => s.boxDone p e.1 [e.2]
      | .ok l =>
        let s1 := ((upFrom 0 4).zip l).foldl (programImage slot) s
        if readBackOk then s1.boxDone p 0 [0] else (eraseMagic slot s1).boxDone p 0x16 [0]

/-! ## SP_RESTART -/

/-- The restart begins; the mailbox command ends with the boot. -/
def runRestart (s : State) (p : EPort) (b : BootFacts) : State :=
  match serviceRuns s p 0x11 with
  | none => s
  | some m => (resetSoundpost { s with spt := { s.spt with mailbox := Vector.replicate 2 none } } b).setBox p (some m)

/-- What waited at a mailbox is served once Soundpost is ready again (R404). -/
def serveOwedBox (s : State) (p : EPort) : State :=
  let x := { s with spt := { s.spt with
    owedCmds := s.spt.owedCmds.set p.val none
    owedLatch := s.spt.owedLatch.set p.val none } }
  let x1 := match s.spt.owedLatch[p.val] with
    | some q => selectRecord x p q
    | none => x
  match s.spt.owedCmds[p.val] with
  | some c => commandWrite x1 p c
  | none => x1

/-- The restarted firmware runs: its mailbox shows done, or the device is in recovery. -/
def endRestart (s : State) (p : EPort) (m : MailboxCmd) (b : BootFacts) : State :=
  let s1 := bootAgain b { s with spt := { s.spt with restart := none } }
  if s1.spt.ready then serveOwedBox (serveOwedBox (publish s1 p m 0 []) 0) 1 else (pegRelease (s1.setBox p none) .soundpost 63).1

/-! ## The PAs (R405, R406) -/

/-- The pa_mask of a program that is resident or loading. -/
def programMask (s : State) : BitVec 128 :=
  match s.rp.prog, s.rp.load with
  | some q, _ => q.mask
  | none, some l => BitVec.ofNat 128 (s.num (l.addr + 0x20) 16)
  | none, none => 0

/-- Table 14.4: what keeps a PA from MC_APPLY and PA_CYCLE, or the PA. -/
def cycleTarget (s : State) (m : MailboxCmd) : Except Nat Pa :=
  let a := m.arg 0
  if 128 ≤ a then .error 0x17
  else
    let p : Pa := Fin.ofNat 128 a
    if (programMask s).getLsbD p.val then .error 0x13
    else if paDisabled s p then .error 0x14
    else .ok p

/-- The start-up checks: a failing PA stays offline, and the failures are reported (Table 14.3). A bank whose four spares are
in use and that needs a fifth fails (R255). -/
def startChecked (s : State) (q : Pa) (fails : List (Fin 16 × BitVec 8)) : State :=
  if fails = [] then setOnline true s q else s.logRec 2 2 5 q.val 0

def failWords (fails : List (Fin 16 × BitVec 8)) : List Nat :=
  match fails with
  | [] => [0, 0]
  | f :: _ => [fails.length, f.1.val + f.2.toNat * 16]

/-- The PA leaves service and its domain is reset; its start-up begins with its remap entries. -/
def takeOffline (s : State) (q : Pa) : State := applyRemaps (resetPa (setOnline false s q) q) q

/-- PA_CYCLE. -/
def runPaCycle (s : State) (p : EPort) (fails : List (Fin 16 × BitVec 8)) : State :=
  match serviceRuns s p 0x13 with
  | none => s
  | some m =>
    match cycleTarget s m with
    | .error e => s.boxDone p e []
    | .ok q =>
      let s0 := takeOffline s q
      let l := testedFails (s0.pa q) fails
      (remeasure s (startChecked s0 q l)).boxDone p (if l = [] then 0 else 0x14) (failWords l)

def revisions (s : State) (q : Pa) : Nat := (s.pa q).mcPa.toNat + (s.pa q).mcBow.toNat * 256

/-- MC_APPLY: the microcode of the running slot is verified again. -/
def runMcApply (s : State) (p : EPort) (sigs : Vector SigFacts 2) (fails : List (Fin 16 × BitVec 8)) : State :=
  match serviceRuns s p 0x12 with
  | none => s
  | some m =>
    match cycleTarget s m, s.spt.running with
    | .error e, _ => s.boxDone p e []
    | .ok _, none => s.boxDone p 0x14 []
    | .ok q, some v =>
      let s1 := takeOffline s q
      let one := recheck s 3 v[2] sigs[0]
      let two := recheck s 4 v[3] sigs[1]
      let bad := if one ≠ 0 then one else two
      if bad ≠ 0 then ((remeasure s s1).logRec 2 2 4 q.val 0).boxDone p bad [revisions s1 q]
      else
        let l := testedFails (s1.pa q) fails
        let s2 := remeasure s (startChecked (loadMicrocode s1 q) q l)
        s2.boxDone p (if l = [] then 0 else 0x14) [revisions s2 q]

/-! ## PHY_CAL (R407) -/

/-- Table 14.5: the effect on the target. -/
def calibrate (s : State) (t : Nat) : State :=
  if t < 2 then dropEth s (Fin.ofNat 2 t)
  else if t < 10 then laneLoss s (Fin.ofNat 8 (t - 2))
  else s

/-- The results go to the target's TPC_PHYCAL words. -/
def persistCal (s : State) (t : Fin 36) (results : Vector Word 8) : State :=
  (List.finRange 8).foldl (fun s w =>
    writeRwp s { off := Reg.off (.tpc (.phycal t w)), value := results[w.val] }) s

def runPhyCal (s : State) (p : EPort) (results : Vector Word 8) : State :=
  match serviceRuns s p 0x14 with
  | none => s
  | some m =>
    let t := m.arg 0
    if 36 ≤ t then s.boxDone p 0x17 []
    else if (t = 10 ∨ t = 11) ∧ s.rp.prog.isSome ∧ s.st.cxl[(Fin.ofNat 2 t).val].mapped then s.boxDone p 0x13 []
    else
      let s1 := calibrate s t
      let s2 := if bit (BitVec.ofNat 64 (m.arg 1)) 0 then persistCal s1 (Fin.ofNat 36 t) results else s1
      s2.boxDone p 0 []

/-! ## LINK_SET (R408) -/

/-- The routers at the ends of a link. -/
def linkRouters (e : Nat × Nat) : List Nat :=
  let r : Fin 128 := Fin.ofNat 128 e.1
  match linkEnd r e.2 with
  | some q => [r.val, q.val]
  | none => [r.val]

/-- Two routers are the same or adjacent. -/
def routersMeet (a b : Nat) : Bool :=
  a = b || (upFrom 1 4).any fun o => linkEnd (Fin.ofNat 128 a) o = some (Fin.ofNat 128 b)

/-- Two links meet at one router or at adjacent routers. -/
def linksMeet (a b : Nat × Nat) : Bool :=
  (linkRouters a).any fun x => (linkRouters b).any fun y => routersMeet x y

/-- The output has a link: to a router, or to a hub stop at the north and south edges. -/
def linkExists (r o : Nat) : Bool :=
  1 ≤ o && o ≤ 4 && ((linkEnd (Fin.ofNat 128 r) o).isSome || o = 1 || o = 3)

/-- The entry of an excluded link, by either end. -/
def findExcl (s : State) (r : Fin 128) (o : Fin 5) : Option (Nat × Nat) :=
  s.net.excl.find? fun e => e = (r.val, o.val) ||
    match linkEnd r o.val with
    | some q => decide (e = (q.val, (outBack o).val))
    | none => false

/-- A hop crosses the link at an output, in either direction. -/
def crosses (r : Fin 128) (o : Fin 5) (h : Hop) : Bool :=
  (h.router = r && h.out = o) ||
    match linkEnd r o.val with
    | some q => h.router = q && h.out = outBack o
    | none => false

/-- A channel whose route a change of the link changes has a message in flight (R281): the channels routed over it when it
goes, those whose messages would cross it when it returns. -/
def linkBusy (s : State) (r : Fin 128) (o : Fin 5) (back : Bool) : Bool :=
  s.net.chans.any fun c => (c.recvs.any fun x => x.flying ≠ [])
    && ((messageWays c).flatMap fun l => if back then l else routed s l).any (crosses r o)

/-- What has not yet crossed an excluded link goes aside (R408). -/
def reroute (s : State) : State :=
  { s with net := { s.net with pkts := s.net.pkts.map fun k =>
      { k with ways := k.ways.map fun w =>
          let l := routed s w.left
          { dest := l.getLast?.getD w.dest, left := l } } } }

/-- The persistent entry that holds a link, and a free one. -/
def exclWord (e : Nat × Nat) : Word := fld 0 e.1 ||| fld 7 e.2 ||| flag 10 true

def exclEntry (s : State) (e : Nat × Nat) : Option (Fin 8) :=
  (List.finRange 8).find? fun i => rwpRead s (.tpc (.frbExcl i)) = exclWord e

def freeEntry (s : State) : Option (Fin 8) :=
  (List.finRange 8).find? fun i => !bit (rwpRead s (.tpc (.frbExcl i))) 10

def setEntry (s : State) (i : Option (Fin 8)) (v : Word) : State :=
  match i with
  | some i => writeRwp s { off := Reg.off (.tpc (.frbExcl i)), value := v }
  | none => s

def setExcl (s : State) (l : List (Nat × Nat)) : State := { s with net := { s.net with excl := l } }

/-- The command ends with the number of excluded links. -/
def linkDone (s : State) (p : EPort) (status : Nat) : State := s.boxDone p status [s.net.excl.length]

def runLinkSet (s : State) (p : EPort) : State :=
  match serviceRuns s p 0x15 with
  | none => s
  | some m =>
    let a := m.arg 0
    let r : Fin 128 := Fin.ofNat 128 a
    let o : Fin 5 := Fin.ofNat 5 (a / 128)
    if 1024 ≤ a ∨ 5 ≤ a / 128 ∨ !linkExists r.val (a / 128) then linkDone s p 0x17
    else if bit (BitVec.ofNat 64 (m.arg 1)) 0 then
      if (findExcl s r o).isSome then linkDone s p 0
      else if 8 ≤ s.net.excl.length ∨ s.net.excl.any (linksMeet (r.val, o.val)) then linkDone s p 0x15
      else if linkBusy s r o false then s
      else
        let s1 := setEntry (reroute (setExcl s (s.net.excl ++ [(r.val, o.val)]))) (freeEntry s) (exclWord (r.val, o.val))
        linkDone (s1.logRec 6 0 6 r.val o.val) p 0
    else
      match findExcl s r o with
      | some e =>
        if linkBusy s r o true then s
        else
        let s1 := setEntry (setExcl s (s.net.excl.filter (· ≠ e))) (exclEntry s e) 0
        linkDone (s1.logRec 6 0 6 r.val o.val) p 0
      | none => linkDone s p 0

/-! ## The device, and the end of a command -/

/-- DEVICE_RESET: accepted RWP writes complete first (R455). -/
def runDeviceReset (s : State) (p : EPort) : State :=
  match serviceRuns s p 0x18 with
  | none => s
  | some _ => resetDevice (flushRwp s)

/-- MAILBOX_COMMAND_END. -/
def commandEnd (s : State) (p : EPort) : State :=
  match s.box p with
  | none => s
  | some m =>
    match s.spt.restart, m.result with
    | some b, _ => if m.cmd = 0x11 then endRestart s p m b else s
    | none, some (st, res) => publish s p m st.toNat res
    | none, none => s

/-! ## The commands -/

def execSlotWrite (p : EPort) (sigs : Vector SigFacts 4) (readBackOk : Bool) (s : State) :
    Host.Outcome State Fault Refusal := .next (runSlotWrite s p sigs readBackOk)

def execSpRestart (p : EPort) (boot : BootFacts) (s : State) : Host.Outcome State Fault Refusal :=
  .next (runRestart s p boot)

def execMcApply (p : EPort) (sigs : Vector SigFacts 2) (fails : List (Fin 16 × BitVec 8)) (s : State) :
    Host.Outcome State Fault Refusal := .next (runMcApply s p sigs fails)

def execPaCycle (p : EPort) (fails : List (Fin 16 × BitVec 8)) (s : State) : Host.Outcome State Fault Refusal :=
  .next (runPaCycle s p fails)

def execPhyCal (p : EPort) (results : Vector Word 8) (s : State) : Host.Outcome State Fault Refusal :=
  .next (runPhyCal s p results)

def execLinkSet (p : EPort) (s : State) : Host.Outcome State Fault Refusal := .next (runLinkSet s p)

def execDeviceReset (p : EPort) (s : State) : Host.Outcome State Fault Refusal := .next (runDeviceReset s p)

end Sys2Proof.Machine
end

