-- ==== Sys2Proof/Machine/RegWrite.lean ====
section
/-! DEFINITION. A write of a control register (R12 to R16): by its access codes, and with the effects that fields of a
register have of their own. -/

namespace Sys2Proof.Machine

/-- GLB_CLK_STAT: writing one clears a sticky bit (R38). -/
def writeClk (s : State) (v : Word) : State :=
  { s with clk := { s.clk with sticky := s.clk.sticky &&& ~~~ (field v 32 27) } }

/-- HBM_PC_BANK_PD: what the write of one bank's bits asks (R261, R262). -/
def writeBank (h : Hub) (old v : Word) (s : State) (b : Fin 16) : State :=
  let was := bit old b.val
  let req := bit v b.val
  let force := req && bit v (16 + b.val)
  if force && !(was && bit old (16 + b.val)) then forceBank s h b
  else if req && !was then drainBank s h b true
  else if !req && was then drainBank s h b false
  else s

def writeBankPd (s : State) (h : Hub) (v : Word) : State :=
  let old := s.reg (.slice h .bankPd)
  let s1 := (List.finRange 16).foldl (writeBank h old v) s
  s1.setReg (.slice h .bankPd) (v &&& mask 0 32)

/-- BRG_WIN_BASE and BRG_WIN_LIM ignore writes while the window is open or closing. -/
def writeWindow (s : State) (i : Fin 16) (r : SysReg) (v : Word) : State :=
  if winServed s i then s else plainWrite s (.sys r) v

/-- BRG_WIN_CTL: setting enable opens the window with the permissions written, clearing it closes the window. -/
def writeWinCtl (s : State) (i : Fin 16) (v : Word) : State :=
  if winServed s i then (if bit v 0 then s else shutWindow s i)
  else
    let s1 := plainWrite s (.sys (.winCtl i)) (v &&& ~~~ 1)
    if bit v 0 then openWindow s1 i else s1

/-- BRG_RC registers ignore writes while a round runs, but for one that clears enable (R363). -/
def writeContext (s : State) (j : Fin 4) (r : SysReg) (v : Word) : State :=
  if (s.red j).running then (if r = .rcCfg j ∧ !bit v 8 then disableContext s j else s) else plainWrite s (.sys r) v

/-- CXL_CFG is left alone while a program is resident (R271). -/
def writeCxlCfg (s : State) (v : Word) : State :=
  if s.rp.prog.isSome then s
  else (cxlEnable (cxlEnable s 0 (bit v 1)) 1 (bit v 2)).putRegField (.cxl .cfg) 0 1 (if bit v 0 then 1 else 0)

/-- The fields of a PA's block. -/
def writePa (s : State) (p : Pa) (r : PaReg) (v : Word) : State :=
  match r with
  | .ctrl => if s.regBit (.pa p .ctrl) 0 = bit v 0 then s else setQuiesce s p (bit v 0)
  | .thExc t => if bit v 10 then s.modThr p t fun y => { y with exc := { y.exc with overrun := false } } else s
  | .thHandler t => s.modThr p t fun y =>
      { y with handlerPc := field v 0 14, handlerOn := bit v 15 }
  | .ovtSnap => if bit v 0 then takeSnapshot s p else s
  -- clearing reuse empties the table (R248, R253)
  | .bowCfg => (plainWrite s (.pa p .bowCfg) v).modPa p fun x => if bit v 16 then x else clearReuse x
  | r => plainWrite s (.pa p r) v

/-- The fields of the FRB block. -/
def writeFrb (s : State) (r : FrbReg) (v : Word) : State :=
  match r with
  | .rw k o => plainWrite (holdCredits s (.router k o)) (.frb r) v
  | .hw k => plainWrite (holdCredits s (.stop k)) (.frb r) v
  | .rctl k o => setFreeze s (.router k o) (bit v 0)
  | .hctl k => setFreeze s (.stop k) (bit v 0)
  | r => plainWrite s (.frb r) v

/-- The fields of the package counters. -/
def writeOvt (s : State) (r : OvtReg) (v : Word) : State :=
  match r with
  | .ctl =>
    let s1 := plainWrite s (.ovt .ctl) v
    if bit v 1 then startSnapAll s1 else s1
  | .winCfg =>
    let s1 := setWindowLen s (field v 0 5).toNat
    if bit v 5 then clearPeaks s1 else s1
  | r => plainWrite s (.ovt r) v

/-- The fields of the SPT block. -/
def writeSpt (s : State) (r : SptReg) (v : Word) : State :=
  match r with
  | .temp i => if bit v 16 then resetMax s i else s
  | .mbCmd p => commandWrite s p (v.setWidth 8)
  | .logSel p => selectRecord s p (v.setWidth 32)
  | r => plainWrite s (.spt r) v

/-- The fields of the CAPO block. -/
def writeCapo (s : State) (r : CapoReg) (v ties : Word) : State :=
  match r with
  | .tol p => checkTolerance (s.setReg (.capo (.tol p)) (v &&& mask 0 32))
  | .ctl => if bit v 0 then wakeWrite s (bit ties 0) else s
  | .pwr => if bit v 48 then clearPeak s else s
  | r => plainWrite s (.capo r) v

/-- What a write does, but for a write of an RWP register. Peg cells and DRN_JOB are reached by commands of their own. -/
def writeVolatile (s : State) (r : Reg) (v ties : Word) : State :=
  match r with
  | .glb .clkStat => writeClk s v
  | .glb _ => s
  | .peg .evt => plainWrite s r v
  | .peg _ => s
  | .hif _ => plainWrite s r v
  | .capo q => writeCapo s q v ties
  | .spt q => writeSpt s q v
  | .tpc _ => plainWrite s r v
  | .drn .cnt => plainWrite s r v
  | .drn (.jobSt _) => plainWrite s r v
  | .drn _ => s
  | .hbm _ _ => plainWrite s r v
  | .slice h .bankPd => writeBankPd s h v
  | .slice _ _ => plainWrite s r v
  | .brg _ _ => plainWrite s r v
  | .sys .ctl => if bit v 0 then startEnum s else s
  | .sys (.winBase i) => writeWindow s i (.winBase i) v
  | .sys (.winLim i) => writeWindow s i (.winLim i) v
  | .sys (.winCtl i) => writeWinCtl s i v
  | .sys (.rcCfg j) => writeContext s j (.rcCfg j) v
  | .sys (.rcTab j) => writeContext s j (.rcTab j) v
  | .sys (.rcRes j) => writeContext s j (.rcRes j) v
  | .sys (.rcRtab j) => writeContext s j (.rcRtab j) v
  | .sys (.rcArm j) => writeContext s j (.rcArm j) v
  | .sys _ => plainWrite s r v
  | .cxl .cfg => writeCxlCfg s v
  | .cxl _ => plainWrite s r v
  | .pa p q => writePa s p q v
  | .frb q => writeFrb s q v
  | .ovt q => writeOvt s q v

/-- A write of a register. The write of an RWP register goes to Tailpiece for the request that asks (R16); a W1C bit that
hardware sets in the same cycle stays set (R15). -/
def writeReg (s : State) (r : Reg) (v ties : Word) (asker : Option (BitVec 32 × BitVec 32)) : State :=
  if r.spec.rwp = 0 then writeVolatile s r (v &&& ~~~ (ties &&& r.spec.w1c)) ties
  else writeRwp s { off := r.off, value := v, asker := asker }

/-- REGISTER_WRITE: an address outside every register is ignored (R35). -/
def registerWrite (s : State) (a : Nat) (v ties : Word) : State :=
  match region s a with
  | .ctl o => match Reg.at? o with
    | some r => writeReg s r v ties none
    | none => s
  | _ => s

/-- BRG_PORT_ENABLE: a write of BRG_PORT_CFG.enable, which acts when it completes (R16). -/
def enableBridge (s : State) (n : BPort) (on : Bool) : State :=
  writeReg s (.brg n .cfg) (putField (regRead s (.brg n .cfg)) 0 1 (if on then 1 else 0)) 0 none

def execRegisterWrite (addr : BitVec 48) (v ties : Word) (s : State) : Host.Outcome State Fault Refusal :=
  .next (registerWrite s addr.toNat v ties)

def execBrgPortEnable (n : BPort) (on : Bool) (s : State) : Host.Outcome State Fault Refusal :=
  .next (enableBridge s n on)

end Sys2Proof.Machine
end

