-- ==== Sys2Proof/Machine/Request.lean ====
section
/-! DEFINITION. What each host request does when it starts (R309, R318, R319, R321 to R326, R383), and the status and
data of its response. -/

namespace Sys2Proof.Machine

/-- Who makes a request: the port, the session and its role. -/
structure Asker where
  port : EPort
  sid : BitVec 32
  control : Bool
  deriving DecidableEq, Repr

/-- A request that is answered at once: the state, its status, detail and data. -/
structure Answer where
  s : State
  st : Status := .ok
  detail : Nat := 0
  data : List Byte := []
  /-- its home cannot take the access yet, and nothing has been done -/
  held : Bool := false
  deriving DecidableEq, Repr

def reject (s : State) (st : Status) (detail : Nat := 0) : Answer := { s := s, st := st, detail := detail }

/-! ## Registers (R36, R318) -/

/-- One register access: the new state and the value read, or the status that refuses it. -/
abbrev RegAccess := Except Status (State × Word)

/-- A register of another port's mailbox or log latch (R393). -/
def otherPorts (w : Asker) : SptReg → Bool
  | .mbCmd p => p ≠ w.port
  | .mbStat p => p ≠ w.port
  | .mbArg p _ => p ≠ w.port
  | .mbRes p _ => p ≠ w.port
  | .logSel p => p ≠ w.port
  | .logData p _ => p ≠ w.port
  | _ => false

/-- R395: DRN_STAT and DRN_CNT. -/
def drnOpen (o : Nat) (wr : Bool) : Bool := o = Reg.off (.drn .cnt) || (!wr && o = Reg.off (.drn .stat))

/-- The offset lies in the DRN block. -/
def inDrn (o : Nat) : Bool :=
  match Block.at? o with
  | some (.drn, _) => true
  | _ => false

/-- R36: the offset in the control range of an address, or the status that refuses it. -/
def ctlOffset (a : Word) : Except Status Nat :=
  if a.toNat % 8 ≠ 0 then .error .align
  else if ctlBase ≤ a.toNat ∧ a.toNat < ctlBase + 0x2000000 then .ok (a.toNat - ctlBase)
  else .error .window

/-- One read of REG_READ. -/
def readOne (s : State) (w : Asker) (a : Word) : RegAccess := do
  let o ← ctlOffset a
  if inDrn o ∧ !drnOpen o false then .error .denied
  else match Reg.at? o with
    | none => .ok (s, 0)
    | some (.peg (.lock i)) => if w.control then .ok (pegAcquire s (.port w.port) i) else .error .role
    | some (.spt r) => if otherPorts w r then .error .denied else .ok (s, regRead s (.spt r))
    | some r => .ok (s, regRead s r)

/-- The write of a listed register by a control session. -/
def writeListed (s : State) (w : Asker) (id : BitVec 32) (r : Reg) (v ties : Word) : RegAccess :=
  let plain := writeReg s r v ties (some (w.sid, id))
  match r with
  | .peg (.lock i) =>
    match pegRelease s (.port w.port) i with
    | (s1, true) => .ok (s1, 0)
    | (_, false) => .error .notOwner
  | .peg .brk =>
    match pegBreak s w.port (Fin.ofNat 64 (field v 0 6).toNat) with
    | .nothing s1 => .ok (s1, 0)
    | .broken s1 => .ok (s1, 0)
    | .denied => .error .denied
  | .spt q => if otherPorts w q then .error .denied else .ok (plain, 0)
  | .tpc (.phycal _ _) => .error .denied
  | .capo (.tol p) => if p ≠ w.port then .error .denied else .ok (plain, 0)
  | _ => .ok (plain, 0)

/-- One write of REG_WRITE. -/
def writeOne (s : State) (w : Asker) (id : BitVec 32) (a v ties : Word) : RegAccess := do
  let o ← ctlOffset a
  if inDrn o ∧ !drnOpen o true then .error .denied
  else match Reg.at? o with
    | none => .ok (s, 0)
    | some r => writeListed s w id r v ties

/-- Reads in list order, up to the first that fails. -/
def readList (w : Asker) : List Word → Nat → State → List Byte → Answer
  | [], _, s, bs => { s := s, data := bs }
  | a :: r, i, s, bs =>
    match readOne s w a with
    | .ok (s1, v) => readList w r (i + 1) s1 (bs ++ leBytes 8 v.toNat)
    | .error st => reject s st i

/-- Writes in list order, up to the first that fails; `ties` are the bits that hardware sets in the cycle of each (R15). -/
def writeList (w : Asker) (id : BitVec 32) (ties : List Word) : List (Word × Word) → Nat → State → Answer
  | [], _, s => { s := s }
  | e :: r, i, s =>
    match writeOne s w id e.1 e.2 (ties[i]?.getD 0) with
    | .ok (s1, _) => writeList w id ties r (i + 1) s1
    | .error st => reject s st i

/-! ## Memory (R318, R319, R324) -/

/-- HBM, an SPM window or the far tier, and no Bridge window. -/
def hostRegion (s : State) (a : Nat) : Bool :=
  match region s a with
  | .hbm => true
  | .spm _ _ => true
  | .far _ _ => true
  | _ => false

/-- What keeps a host access of `[a, a + n)` from being performed. -/
def memRefusal (s : State) (a n : Nat) (wr : Bool) : Option Status :=
  if a % 8 ≠ 0 then some .align
  else if hostRegion s a && populated s a n wr then none
  else some .window

/-- The stream class that a message names (R318). -/
def classOf : Nat → StreamClass
  | 1 => .key
  | 2 => .ciphertext
  | 3 => .plaintext
  | _ => .scratch

/-- Perform an access for a host. One that its home cannot take yet is not performed. -/
def hostAccess (s : State) (e : EPort) (c : StreamClass) (a : Nat) (acc : Access) : Answer :=
  match serveNow 64 (.host e) c s a acc with
  | .done s1 data => { s := s1, data := data }
  | .failed s1 _ => reject s1 .ecc
  | .held _ => { s := s, held := true }

/-- MEM_READ. -/
def memRead (s : State) (w : Asker) (a n cls : Nat) : Answer :=
  if 4 ≤ cls ∨ n % 8 ≠ 0 ∨ n = 0 ∨ 8192 < n then reject s .malformed
  else match memRefusal s a n false with
    | some st => reject s st
    | none => hostAccess s w.port (classOf cls) a (.read n)

/-- MEM_WRITE. -/
def memWrite (s : State) (w : Asker) (a cls : Nat) (data : List Byte) : Answer :=
  let n := data.length
  if 4 ≤ cls ∨ n % 8 ≠ 0 ∨ n = 0 ∨ 8192 < n then reject s .malformed
  else match memRefusal s a n true with
    | some st => reject s st
    | none => { hostAccess s w.port (classOf cls) a (.write data) with data := [] }

/-- R319: the detail that refuses a header, 0 for none. -/
def keyDetail (data : List Byte) : Nat :=
  if data.length < 4096 then 1
  else if numAt data 0x10 6 = 0 ∨ numAt data 0x16 6 = 0 then 2
  else if !keyHeaderOk (data.take 4096) then 1
  else 0

/-- KEY_WRITE. -/
def keyWrite (s : State) (w : Asker) (base off : Nat) (data : List Byte) : Answer :=
  let a := base + off
  if 8192 < data.length then reject s .malformed
  else if base % 4096 ≠ 0 then reject s .align
  else if off = 0 ∧ keyDetail data ≠ 0 then reject s .key (keyDetail data)
  else if !(region s base = .hbm && region s a = .hbm && populated s a data.length true) then reject s .window
  else { hostAccess s w.port .key a (.write data) with data := [] }

/-- DOORBELL: an HBM word or a word of an SPM window. -/
def doorbell (s : State) (w : Asker) (a : Nat) (addend : Word) : Answer :=
  match memRefusal s a 8 true, region s a with
  | some st, _ => reject s st
  | none, .far _ _ => reject s .window
  | none, _ => hostAccess s w.port .scratch a (.atomic .add addend)

/-! ## Watches (R324) -/

/-- Watches of a session and of the device, but for watch `i` of the session in slot `k`. -/
def watchCount (s : State) (k i : Nat) : Nat :=
  ((List.finRange 16).map fun j => match s.sess j with
    | some x => ((List.finRange 16).filter fun n => (x.watches[n.val]).isSome && !(j.val = k && n.val = i)).length
    | none => 0).foldl (· + ·) 0

def setWatch (s : State) (k : Fin 16) (i : Fin 16) (v : Option Watch) : State :=
  match s.sess k with
  | some x => s.setSess k (some { x with watches := x.watches.set i.val v })
  | none => s

/-- The current value of a word that may be watched. -/
def watchValue (s : State) (w : Asker) (a wid : Nat) : Answer :=
  if 16 ≤ wid then reject s .malformed
  else if a % 8 ≠ 0 then reject s .align
  else if !(region s a = .hbm && populated s a 8 false) then reject s .window
  else hostAccess s w.port .scratch a (.read 8)

/-- WATCH: the watch stands once the value has been read. -/
def installWatch (s : State) (w : Asker) (a wid : Nat) : Answer :=
  let r := watchValue s w a wid
  match r.st, findSid s w.sid with
  | .ok, some k =>
    if r.held then r
    else if 64 ≤ watchCount s k.val wid then reject s .busy
    else { r with s := setWatch r.s k (Fin.ofNat 16 wid) (some { addr := a }) }
  | _, _ => r

/-- UNWATCH. -/
def removeWatch (s : State) (w : Asker) (wid : Nat) : Answer :=
  if 16 ≤ wid then reject s .malformed
  else match findSid s w.sid with
    | some k => { s := setWatch s k (Fin.ofNat 16 wid) none }
    | none => { s := s }

/-! ## Attestation (R383) -/

/-- Table 13.8: the flags. -/
def reportFlags (s : State) (e : EPort) : Nat :=
  (flag 0 s.rp.prog.isSome ||| flag 1 (openMode s) ||| flag 2 s.spt.hd2 ||| flag 3 s.spt.fallback
    ||| flag 4 (commonRev s (·.mcPa) = 0xFF || commonRev s (·.mcBow) = 0xFF) ||| flag 5 s.host.eth[e.val].macsec.isSome).toNat

/-- Bytes 0x000 to 0xEEF of a report. -/
def reportBody (s : State) (w : Asker) (nonce : List Byte) : List Byte :=
  [0x47, 0x4C, 0x44, 0x41, 0x54, 0x54, 0x53, 0x31] ++ leBytes 2 1 ++ zeroBytes 6
    ++ wordBytes [regRead s (.glb .serial), regRead s (.glb .id), regRead s (.glb .version)] ++ leBytes 8 s.micros
    ++ nonce ++ leBytes 4 w.sid.toNat ++ byte1 w.port.val ++ byte1 (if w.control then 1 else 2)
    ++ leBytes 2 (reportFlags s w.port) ++ s.spt.idDigest
    ++ s.spt.gen.toList.flatMap (fun g => leBytes 4 g.toNat) ++ zeroBytes 4 ++ s.spt.meas.toList.flatten
    ++ (match s.rp.prog with | some q => q.digest | none => zeroBytes 48)
    ++ (upFrom 0 3373).map Config.enrolment ++ zeroBytes 3

/-- ATTEST: the report and its two signatures. -/
def attest (s : State) (w : Asker) (nonce : List Byte) : Answer :=
  let b := reportBody s w nonce
  let sigs := Config.edSign (idSeed 0) b ++ Config.dsaSign (idSeed 32) b (randomBytes s 1)
  { s := takeRandom s 1, data := b ++ sigs }

/-! ## MACsec (R309) -/

/-- Table 11.5: a key that MACSEC_KEY may name. -/
def macsecFits (key : MacsecKey) : Bool := key.suite.toNat ≤ 2 && (key.suite = 2 || allZero key.salt)

/-- MACSEC_KEY, once its response has left: the key protects every frame from then on, or none does. -/
def setMacsec (s : State) (e : EPort) (key : MacsecKey) : State :=
  if macsecFits key then setEth s e { s.host.eth[e.val] with macsec := if key.suite = 0 then none else some key } else s

/-! ## Exports (R202, R203, R325, R326) -/

/-- The slot number of a session that is open. -/
def slotOf (s : State) (w : Asker) : Option Nat := (findSid s w.sid).map (·.val)

/-- An export that the session may answer or decline: open, and bound to no other session. -/
def ownExport (s : State) (w : Asker) (chan : BitVec 8) : Except Answer Export :=
  match findExport s chan with
  | none => .error (reject s .exporting 1)
  | some e => if e.bound ≠ none ∧ e.bound ≠ slotOf s w then .error (reject s .exporting 2) else .ok e

/-- EXPORT_RESEND: the range lies in the footprint (log entry 23). -/
def resendExport (s : State) (w : Asker) (chan : BitVec 8) (off n : Nat) : Answer :=
  match findExport s chan, findSid s w.sid with
  | none, _ => reject s .exporting 1
  | some e, some k => if objBytes s e.desc < off + n then reject s .malformed else { s := sendRange s k e off n }
  | some _, none => { s := s }

/-- ANSWER_BEGIN. -/
def beginAnswer (s : State) (w : Asker) (chan : BitVec 8) (d : Desc) : Answer :=
  match ownExport s w chan with
  | .error r => r
  | .ok e =>
    if !answerFits s e d then reject s .exporting 4
    else { s := modExport s chan fun e => { e with bound := slotOf s w, answer := some d, covered := [] } }

/-- ANSWER_DATA: the piece lies in the answer's footprint (log entry 23). -/
def answerPiece (s : State) (w : Asker) (chan : BitVec 8) (off : Nat) (data : List Byte) : Answer :=
  match ownExport s w chan with
  | .error r => r
  | .ok e =>
    match e.answer with
    | none => reject s .exporting 2
    | some d =>
      if objBytes s d < off + data.length ∨ 8192 < data.length then reject s .malformed
      else { s := writeAnswer s e off data }

/-- ANSWER_END, of the session that the export is bound to. -/
def endAnswer (s : State) (w : Asker) (chan : BitVec 8) : Answer :=
  match findExport s chan with
  | none => reject s .exporting 1
  | some e =>
    match (if e.bound = slotOf s w then e.answer else none) with
    | none => reject s .exporting 3
    | some d =>
      if coversAll (e.covered.length + 1) e.covered (objBytes s d) 0 then { s := acceptAnswer s e d } else reject s .exporting 3

/-- DECLINE. -/
def declineExport (s : State) (w : Asker) (chan : BitVec 8) : Answer :=
  match ownExport s w chan with
  | .error r => r
  | .ok e => { s := failExport s e 1 }

/-! ## Events -/

/-- EVENT_ACK. -/
def ackEvent (s : State) (w : Asker) (eseq : BitVec 32) : Answer :=
  match findSid s w.sid with
  | some k => match s.sess k with
    | some x => { s := s.setSess k (some { x with events := x.events.filter (·.eseq ≠ eseq) }) }
    | none => { s := s }
  | none => { s := s }

end Sys2Proof.Machine
end

