-- ==== Sys2Proof/Machine/Ght.lean ====
section
/-! DEFINITION. Protected datagrams (R310, R311, R316, R317): what the device accepts, the order in which a session's
requests start, and the commands that let waiting requests start. -/

namespace Sys2Proof.Machine

/-! ## Messages -/

/-- Bytes of a body, as Table 11.5 lays it out. -/
def GhtBody.size : GhtBody → Nat
  | .regRead l => 8 + 8 * l.length
  | .regWrite l => 8 + 16 * l.length
  | .memRead _ _ _ => 16
  | .memWrite _ _ d => 16 + d.length
  | .keyWrite _ _ d => 24 + d.length
  | .doorbell _ _ => 16
  | .watch _ _ => 16
  | .unwatch _ => 8
  | .progLoad _ _ => 16
  | .attest _ => 32
  | .macsecKey _ _ _ _ _ _ => 68
  | .exportResend _ _ _ => 24
  | .answerBegin _ _ => 40
  | .answerData _ _ d => 16 + d.length
  | .answerEnd _ => 8
  | .decline _ => 8
  | .eventAck _ => 8
  | .progUnload => 0
  | .progCancel => 0
  | .ping => 0
  | .close => 0
  | .unlisted _ => 0

/-- Table 11.5: an observe session may send the message. -/
def GhtBody.observer : GhtBody → Bool
  | .regRead _ => true
  | .memRead _ _ _ => true
  | .watch _ _ => true
  | .unwatch _ => true
  | .attest _ => true
  | .eventAck _ => true
  | .ping => true
  | .close => true
  | .unlisted _ => true
  | _ => false

/-- The counts and lengths that a body may have. -/
def GhtBody.fits : GhtBody → Bool
  | .regRead l => 1 ≤ l.length && l.length ≤ 64
  | .regWrite l => 1 ≤ l.length && l.length ≤ 64
  | .attest n => n.length = 32
  | .macsecKey _ _ _ sak _ salt => sak.length = 32 && salt.length = 12
  | .unlisted _ => false
  | _ => true

/-- R317: DOORBELL and PROG_LOAD always act as fenced. -/
def GhtBody.fenced : GhtBody → Bool
  | .doorbell _ _ => true
  | .progLoad _ _ => true
  | _ => false

/-- R317: the messages that are read again when the host repeats them. -/
def GhtBody.reads : GhtBody → Bool
  | .regRead _ => true
  | .memRead _ _ _ => true
  | .watch _ _ => true
  | _ => false

/-- A write of a control register starts a mailbox command or latches a log record. -/
def asksSoundpost (a : Word) : Bool :=
  match Reg.at? (a.toNat - ctlBase) with
  | some (.spt (.mbCmd _)) => true
  | some (.spt (.logSel _)) => true
  | _ => false

/-- R404: what waits while a Soundpost restart runs. A report waits, besides, for the Drone that signs it. -/
def soundpostServes (s : State) (b : GhtBody) : Bool :=
  let up := soundpostUp s && s.spt.ready && s.spt.restart.isNone
  match b with
  | .progLoad _ _ => up
  | .progUnload => up
  | .progCancel => up
  | .attest _ => up && s.spt.idOk && droneOk s && s.drone.rngOk
  | .regWrite l => up || !l.any fun e => asksSoundpost e.1
  | _ => true

/-! ## A request starts -/

/-- A request is answered without being recorded: BUSY (Table 11.6). -/
def answerBusy (s : State) (e : EPort) (sid id : BitVec 32) : State :=
  let s1 := s.countSat (.hif (.errCnt e)) 48 16 1
  match findSid s1 sid with
  | some k => match s1.sess k with
    | some x =>
      let p := (x.busy.find? (·.id = id)).elim x.peer (·.peer)
      sendResponse (s1.setSess k (some { x with busy := x.busy.filter (·.id ≠ id) })) k p id .busy 0 []
    | none => s1
  | none => endedDone s1 sid id

/-- A request that is performed at once is answered; one that its home holds has not started. -/
def finish (w : Asker) (id : BitVec 32) (r : Answer) : State :=
  if r.held then modReq r.s w.sid id fun q => { q with started := false, held := true }
  else if r.st = .busy then answerBusy r.s w.port w.sid id
  else respond r.s w.sid id r.st r.detail r.data

/-- A REG_WRITE is answered at once, or when its RWP writes have completed (R16). -/
def finishWrite (w : Asker) (id : BitVec 32) (r : Answer) : State :=
  if (r.s.tpc.active ++ r.s.tpc.waiting).any (·.asker = some (w.sid, id)) then
    modReq r.s w.sid id fun q => { q with answer := some (r.st, r.detail) }
  else finish w id r

/-- CLOSE: the session ends, and no response leaves. -/
def closeSession (s : State) (w : Asker) (id : BitVec 32) : State :=
  match findSid s w.sid with
  | some k => match s.sess k with
    | some x => endSession (s.setSess k (some { x with busy := x.busy.filter (·.id ≠ id) })) k true
    | none => s
  | none => endedDone s w.sid id

/-- MACSEC_KEY: the response leaves before the key protects a frame (R309). -/
def finishMacsec (s : State) (w : Asker) (id : BitVec 32) (key : MacsecKey) : State :=
  if macsecFits key then setMacsec (finish w id { s := s }) w.port key else finish w id (reject s .malformed)

/-- What a request does when it starts. -/
def performReq (s : State) (w : Asker) (q : Req) : State :=
  match q.body with
  | .regRead l => finish w q.id (readList w l 0 s [])
  | .regWrite l => finishWrite w q.id (writeList w q.id q.ties l 0 s)
  | .memRead a n c => finish w q.id (memRead s w a.toNat n.toNat c.toNat)
  | .memWrite a c d => finish w q.id (memWrite s w a.toNat c.toNat d)
  | .keyWrite b o d => finish w q.id (keyWrite s w b.toNat o.toNat d)
  | .doorbell a v => finish w q.id (doorbell s w a.toNat v)
  | .watch a i => finish w q.id (if q.again then watchValue s w a.toNat i.toNat else installWatch s w a.toNat i.toNat)
  | .unwatch i => finish w q.id (removeWatch s w i.toNat)
  | .progLoad a t => startLoad s w.sid q.id a.toNat t.toNat
  | .progUnload => cancelOrWait s { sid := w.sid, reqId := q.id, unload := true }
  | .progCancel => cancelOrWait s { sid := w.sid, reqId := q.id, unload := false }
  | .attest n => finish w q.id (attest s w n)
  | .macsecKey su an sci sak ssci salt =>
    finishMacsec s w q.id { suite := su, an := an, sci := sci, sak := sak, ssci := ssci, salt := salt }
  | .exportResend c o n => finish w q.id (resendExport s w c o.toNat n.toNat)
  | .answerBegin c d => finish w q.id (beginAnswer s w c d)
  | .answerData c o d => finish w q.id (answerPiece s w c o.toNat d)
  | .answerEnd c => finish w q.id (endAnswer s w c)
  | .decline c => finish w q.id (declineExport s w c)
  | .eventAck n => finish w q.id (ackEvent s w n)
  | .ping => finish w q.id { s := s }
  | .close => closeSession s w q.id
  | .unlisted _ => finish w q.id (reject s .malformed)

/-! ## The order in which requests start (R317, R425) -/

/-- The open sessions by slot, then the ended ones that still have requests. -/
def askers (s : State) : List (Asker × Session) :=
  ((List.finRange 16).filterMap fun k => (s.sess k).map fun x =>
      ({ port := slotPort k, sid := x.sid, control := x.control }, x))
    ++ s.host.ended.map fun e => ({ port := e.1, sid := e.2.sid, control := e.2.control }, e.2)

/-- The request of a session that may start now: its oldest one not started, and of a fenced one no earlier request is
incomplete. -/
def mayStart (s : State) (x : Session) : Option Req :=
  match x.busy.find? fun q => !q.started with
  | none => none
  | some q =>
    let alone := match x.busy with
      | h :: _ => !h.started
      | [] => true
    if q.held || (q.fence && !alone) || (asleep s && needsWake q.body) || !soundpostServes s q.body then none else some q

/-- R329: a request whose Peg access ties waits for its turn. -/
def turnCome (s : State) (w : Asker) (q : Req) : Bool := !q.tie || tieTurn s w.port

/-- The next request that starts on the device. -/
def nextStart (s : State) : List (Asker × Session) → Option (Asker × Req)
  | [] => none
  | e :: r => match (mayStart s e.2).filter (turnCome s e.1) with
    | some q => some (e.1, q)
    | none => nextStart s r

/-- A request starts. -/
def startOne (s : State) (w : Asker) (q : Req) : State :=
  let s1 := performReq (modReq s w.sid q.id fun q => { q with started := true }) w q
  if q.tie then serveHeld (tieServed s1) else s1

/-- Requests start as long as one may. -/
def startRequests (fuel : Nat) (s : State) : State :=
  match fuel with
  | 0 => s
  | f + 1 =>
    match nextStart s (askers s) with
    | some (w, q) => startRequests f (startOne s w q)
    | none => s

/-- What the homes of held accesses can take is tried again. -/
def unhold (s : State) : State :=
  let f := fun (x : Session) => { x with busy := x.busy.map fun q => { q with held := false } }
  { s with host := { s.host with
      sessions := s.host.sessions.map fun o => o.map f
      ended := s.host.ended.map fun e => (e.1, f e.2) } }

/-- Requests that have not started. -/
def unstarted (s : State) : Nat :=
  ((askers s).map fun e => (e.2.busy.filter fun q => !q.started).length).foldl (· + ·) 0

/-- Everything that may start starts, and sessions whose seq is exhausted end (R310). -/
def settleSessions (s : State) : State := sweepSessions (startRequests (unstarted s) (unhold s))

/-! ## A datagram arrives -/

/-- R310: the seq is refused by the window. -/
def seqRefused (x : Session) (seq : Nat) : Bool := seq + 64 ≤ x.top || x.seen.contains seq

def acceptSeq (x : Session) (seq : Nat) : Session :=
  let top := max x.top seq
  { x with top := top, seen := (seq :: x.seen).filter fun n => top < n + 64 }

/-- R317: more than 256 below the highest completed req_id. -/
def staleId (x : Session) (id : BitVec 32) : Bool :=
  match x.highest with
  | some h => 256 < (h - id).toNat && (h - id).toNat < 2 ^ 31
  | none => false

/-- A request joins its session. -/
def joinBusy (s : State) (k : Fin 16) (q : Req) : State :=
  match s.sess k with
  | some x =>
    let s1 := s.setSess k (some { x with busy := x.busy ++ [q] })
    settleSessions (if needsWake q.body then beginWake s1 else s1)
  | none => s

/-- The inner message of an accepted datagram. -/
def takeInner (s : State) (k : Fin 16) (x : Session) (h : GHdr) (b : GhtBody) : State :=
  let q : Req := {
    id := h.reqId, fence := h.fence || b.fenced, started := false, body := b, peer := sourceOf h.toFrame, tie := h.tie, ties := h.ties }
  match x.record.find? (·.1 = h.reqId) with
  | some r =>
    if b.reads && r.2.1 = .ok && x.busy.all (·.id ≠ h.reqId) then joinBusy s k { q with again := true }
    else sendResponse s k (sourceOf h.toFrame) h.reqId r.2.1 r.2.2.toNat []
  | none =>
    if x.busy.any (·.id = h.reqId) then s
    else if staleId x h.reqId then sendResponse s k (sourceOf h.toFrame) h.reqId .stale 0 []
    else if 128 ≤ x.busy.length then
      sendResponse (s.countSat (.hif (.errCnt h.port)) 48 16 1) k (sourceOf h.toFrame) h.reqId .busy 0 []
    else
      let refuse := fun st => respond (s.setSess k (some { x with busy := x.busy ++ [q] })) x.sid h.reqId st 0 []
      if !b.fits || !h.bodyOk then refuse .malformed
      else if !x.control && !b.observer then refuse .role
      else joinBusy s k q

/-- R310: a protected datagram arrives. -/
def takeDatagram (s : State) (h : GHdr) (b : GhtBody) : State :=
  if !datagramTaken s h.toDatagram then s
  else
    let s1 := ethIn s h.port (48 + b.size)
    let count := fun (lo : Nat) => s1.countSat (.hif (.errCnt h.port)) lo 16 1
    match findSid s1 h.sid with
    | none => count 32
    | some k =>
      match s1.sess k with
      | none => count 32
      | some x =>
        if slotPort k ≠ h.port ∨ !h.outerOk then count 32
        else if !h.authOk then count 0
        else if seqRefused x h.seq then count 16
        else
          let x1 := acceptSeq x h.seq
          sweepSessions (takeInner (s1.setSess k (some x1)) k x1 h b)

/-! ## Events of time and of the device -/

/-- WATCH_EVENT: the event that is due carries the latest value. -/
def sendWatch (s : State) (k wid : Fin 16) : State :=
  match (s.sess k).bind fun x => x.watches[wid.val] with
  | some y => match y.due with
    | some v => sendEvent (setWatch s k wid (some { y with due := none })) k 2 (byte1 wid.val ++ zeroBytes 7 ++ leBytes 8 v.toNat)
    | none => s
  | none => s

/-- EVENT_RETRANSMIT: an event not yet acknowledged. -/
def resendEvent (s : State) (k : Fin 16) (eseq : BitVec 32) : State :=
  match s.sess k with
  | some x => match x.events.find? (·.eseq = eseq) with
    | some e => tellSession s k 40 fun d sid seq => .event d sid seq e
    | none => s
  | none => s

/-- The device closes a session of the port. -/
def closeByDevice (s : State) (e : EPort) (sid : BitVec 32) : State :=
  match findSid s sid with
  | some k =>
    if slotPort k = e then endSession (tellRaw s k 0 fun d sid seq => .closed d sid seq) k true else s
  | none => s

/-- RWP_WRITE_COMPLETE, of the register at a device address. -/
def rwpDone (s : State) (a : Nat) : State := if ctlBase ≤ a then completeRwp s (a - ctlBase) else s

/-- The end of a load waits for a restart of Soundpost, which checks the image. -/
def loadDone (s : State) : State :=
  if soundpostUp s && s.spt.restart.isNone then completeLoad s else s

/-- WAKE_COMPLETE: P0 is reached, and what the wake holds is served (R425, R426). -/
def wakeDone (s : State) (failed : List Pa) : State :=
  if s.capo.waking && !s.capo.entering then servePackets (reachRun s failed) else s

/-- A request waits for a home that could not take it. -/
def anyHeld (s : State) : Bool := (askers s).any fun e => e.2.busy.any (·.held)

/-- A cycle passes without a command (log entry 1); requests that their homes held are tried again, the host's and then the
Bridge's, and withdrawals whose accesses are over are answered (R348). -/
def idleStep (s : State) : State :=
  let s1 := if anyHeld s then settleSessions (tick s) else tick s
  let s2 := if s1.brg.owed.isEmpty then s1 else settleOwed s1
  if s2.brg.withdrawing.isEmpty then s2 else settleWithdraw s2

/-! ## The commands -/

/-- A command, and then the requests that it lets start. -/
def settled (s : State) : Host.Outcome State Fault Refusal := .next (settleSessions s)

def execRegRead (h : GHdr) (addrs : List Word) (s : State) : Host.Outcome State Fault Refusal :=
  .next (takeDatagram s h (.regRead addrs))

def execRegWrite (h : GHdr) (writes : List (Word × Word)) (s : State) : Host.Outcome State Fault Refusal :=
  .next (takeDatagram s h (.regWrite writes))

def execMemRead (h : GHdr) (addr : Word) (len : BitVec 32) (cls : BitVec 8) (s : State) : Host.Outcome State Fault Refusal :=
  .next (takeDatagram s h (.memRead addr len cls))

def execMemWrite (h : GHdr) (addr : Word) (cls : BitVec 8) (data : List Byte) (s : State) :
    Host.Outcome State Fault Refusal := .next (takeDatagram s h (.memWrite addr cls data))

def execKeyWrite (h : GHdr) (base off : Word) (data : List Byte) (s : State) : Host.Outcome State Fault Refusal :=
  .next (takeDatagram s h (.keyWrite base off data))

def execDoorbell (h : GHdr) (addr addend : Word) (s : State) : Host.Outcome State Fault Refusal :=
  .next (takeDatagram s h (.doorbell addr addend))

def execWatch (h : GHdr) (addr : Word) (wid : BitVec 8) (s : State) : Host.Outcome State Fault Refusal :=
  .next (takeDatagram s h (.watch addr wid))

def execUnwatch (h : GHdr) (wid : BitVec 8) (s : State) : Host.Outcome State Fault Refusal :=
  .next (takeDatagram s h (.unwatch wid))

def execWatchEvent (slot wid : Fin 16) (s : State) : Host.Outcome State Fault Refusal := .next (sendWatch s slot wid)

def execProgLoad (h : GHdr) (addr : Word) (timeoutS : BitVec 32) (s : State) : Host.Outcome State Fault Refusal :=
  .next (takeDatagram s h (.progLoad addr timeoutS))

def execProgLoadComplete (s : State) : Host.Outcome State Fault Refusal := settled (loadDone s)

def execProgUnload (h : GHdr) (s : State) : Host.Outcome State Fault Refusal := .next (takeDatagram s h .progUnload)

def execProgCancel (h : GHdr) (s : State) : Host.Outcome State Fault Refusal := .next (takeDatagram s h .progCancel)

def execCancelComplete (s : State) : Host.Outcome State Fault Refusal := settled (cancelDone s)

def execProgramTimeout (s : State) : Host.Outcome State Fault Refusal := .next (timeoutProgram s)

def execAttest (h : GHdr) (nonce : List Byte) (s : State) : Host.Outcome State Fault Refusal :=
  .next (takeDatagram s h (.attest nonce))

def execMacsecKey (h : GHdr) (suite an : BitVec 8) (sci : Word) (sak : List Byte) (ssci : BitVec 32) (salt : List Byte)
    (s : State) : Host.Outcome State Fault Refusal := .next (takeDatagram s h (.macsecKey suite an sci sak ssci salt))

def execExportResend (h : GHdr) (chan : BitVec 8) (off len : Word) (s : State) : Host.Outcome State Fault Refusal :=
  .next (takeDatagram s h (.exportResend chan off len))

def execAnswerBegin (h : GHdr) (chan : BitVec 8) (desc : Desc) (s : State) : Host.Outcome State Fault Refusal :=
  .next (takeDatagram s h (.answerBegin chan desc))

def execAnswerData (h : GHdr) (chan : BitVec 8) (off : Word) (data : List Byte) (s : State) :
    Host.Outcome State Fault Refusal := .next (takeDatagram s h (.answerData chan off data))

def execAnswerEnd (h : GHdr) (chan : BitVec 8) (s : State) : Host.Outcome State Fault Refusal :=
  .next (takeDatagram s h (.answerEnd chan))

def execDecline (h : GHdr) (chan : BitVec 8) (s : State) : Host.Outcome State Fault Refusal :=
  .next (takeDatagram s h (.decline chan))

def execEventAck (h : GHdr) (eseq : BitVec 32) (s : State) : Host.Outcome State Fault Refusal :=
  .next (takeDatagram s h (.eventAck eseq))

def execEventRetransmit (slot : Fin 16) (eseq : BitVec 32) (s : State) : Host.Outcome State Fault Refusal :=
  .next (resendEvent s slot eseq)

def execPing (h : GHdr) (s : State) : Host.Outcome State Fault Refusal := .next (takeDatagram s h .ping)

def execClose (h : GHdr) (byDevice : Bool) (s : State) : Host.Outcome State Fault Refusal :=
  .next (if byDevice then closeByDevice s h.port h.sid else takeDatagram s h .close)

def execUnlistedMessageType (h : GHdr) (ty : BitVec 16) (s : State) : Host.Outcome State Fault Refusal :=
  .next (takeDatagram s h (.unlisted ty))

/-- SESSION_IDLE_TIMEOUT. -/
def execSessionIdleTimeout (slot : Fin 16) (s : State) : Host.Outcome State Fault Refusal := .next (endSession s slot false)

def execRwpWriteComplete (addr : BitVec 48) (s : State) : Host.Outcome State Fault Refusal := settled (rwpDone s addr.toNat)

/-- HBM_RETIRE: the completion of a write of HBM_RET(i). -/
def execHbmRetire (n : Stack) (i : Fin 64) (s : State) : Host.Outcome State Fault Refusal :=
  settled (completeRwp s (Reg.off (.hbm n (.ret i))))

def execMailboxCommandEnd (p : EPort) (s : State) : Host.Outcome State Fault Refusal := settled (commandEnd s p)

def execWakeComplete (failed : List Pa) (s : State) : Host.Outcome State Fault Refusal := settled (wakeDone s failed)

/-- PLL_RELOCK: a report may have waited for the Drone. -/
def execPllRelock (k : Fin 27) (s : State) : Host.Outcome State Fault Refusal := settled (pllBack s k)

/-- RNG_HEALTH_PASS. -/
def execRngHealthPass (s : State) : Host.Outcome State Fault Refusal := settled (rngHealth s true)

/-- STANDBY_TAKEOVER: the requests that waited for a Soundpost. -/
def execStandbyTakeover (s : State) : Host.Outcome State Fault Refusal := settled (takeOver s)

end Sys2Proof.Machine
end

