-- ==== Sys2Proof/Machine/Scalar.lean ====
section
/-! DEFINITION. Scalar and address instructions (groups 1 and 2: R116, R117, Tables 4.10 and 4.11). -/

namespace Sys2Proof.Machine

/-! ## Results (Table 4.10) -/

/-- An operand as a signed integer. -/
def sx (v : Word) : Int := v.toInt

/-- One or zero. -/
def ofBool (b : Bool) : Word := if b then 1 else 0

/-- The low six bits of a shift amount. -/
def shamt (y : Word) : Nat := y.toNat % 64

def aluShl (x y : Word) : Word := x <<< shamt y
def aluShr (x y : Word) : Word := x >>> shamt y
def aluSra (x y : Word) : Word := x.sshiftRight (shamt y)
def aluSlt (x y : Word) : Word := ofBool (sx x < sx y)
def aluSltu (x y : Word) : Word := ofBool (x.toNat < y.toNat)
def aluMin (x y : Word) : Word := if sx x ≤ sx y then x else y
def aluMax (x y : Word) : Word := if sx x ≤ sx y then y else x
def aluMinu (x y : Word) : Word := if x.toNat ≤ y.toNat then x else y
def aluMaxu (x y : Word) : Word := if x.toNat ≤ y.toNat then y else x
def aluMulhu (x y : Word) : Word := BitVec.ofNat 64 (x.toNat * y.toNat / 2 ^ 64)
def aluMulh (x y : Word) : Word := wordOfInt ((sx x * sx y) / 2 ^ 64)
/-- Table 4.11: division by zero gives all ones, and its remainder x. -/
def aluDivu (x y : Word) : Word := if y = 0 then BitVec.allOnes 64 else BitVec.ofNat 64 (x.toNat / y.toNat)
def aluRemu (x y : Word) : Word := if y = 0 then x else BitVec.ofNat 64 (x.toNat % y.toNat)
/-- Truncated toward zero; of -2^63 by -1 the quotient wraps. -/
def aluDiv (x y : Word) : Word := if y = 0 then BitVec.allOnes 64 else wordOfInt ((sx x).tdiv (sx y))
def aluRem (x y : Word) : Word := if y = 0 then x else wordOfInt ((sx x).tmod (sx y))

/-! ## The operations -/

/-- The second operand of a group 1 word (R116). -/
def aluY (y : Thread) (w : IWord) : Word := if wFmt w = 0 then y.rs (wRs2 w) else wImm64 w

/-- The registers that a word of format 0 or 1 names. -/
def aluRegs (w : IWord) : List Res :=
  [.s (fs (wRd w)), .s (fs (wRs1 w))] ++ if wFmt w = 0 then [.s (fs (wRs2 w))] else []

/-- A group 1 operation. -/
def aluBody (f : Word → Word → Word) (p : Pa) (t : Thr) (w : IWord) (s : State) : Issue :=
  if !formOk [0, 1] w then illegal
  else needRegs p t (aluRegs w) s
    (.next (s.ws p t (wRd w) (f ((s.thr p t).rs (wRs1 w)) (aluY (s.thr p t) w))))

/-- A divide: the PA's one divider accepts one every 18 cycles (R116). -/
def divBody (f : Word → Word → Word) (p : Pa) (t : Thr) (w : IWord) (s : State) : Issue :=
  if !formOk [0, 1] w then illegal
  else needRegs p t (aluRegs w) s
    (unlessWaits s p t [.divider] (.next ((s.modPa p fun x => { x with divTo := x.cycle + 18 }).ws p t (wRd w)
       (f ((s.thr p t).rs (wRs1 w)) (aluY (s.thr p t) w)))))

/-- AADD: address arithmetic wraps (R109). -/
def aaddBody (p : Pa) (t : Thr) (w : IWord) (s : State) : Issue :=
  if !formOk [0, 1] w || 16 ≤ wRd w || 16 ≤ wRs1 w then illegal
  else needRegs p t ([.a (fa (wRd w)), .a (fa (wRs1 w))] ++ if wFmt w = 0 then [.s (fs (wRs2 w))] else []) s
    (.next (s.modThr p t fun y => y.wa (wRd w) (y.ra (wRs1 w) + aluY y w)))

/-- AMOV: a scalar into an address register. -/
def amovBody (p : Pa) (t : Thr) (w : IWord) (s : State) : Issue :=
  if !formOk [0] w || wRs2 w ≠ 0 || 16 ≤ wRd w then illegal
  else needRegs p t [.a (fa (wRd w)), .s (fs (wRs1 w))] s
    (.next (s.modThr p t fun y => y.wa (wRd w) (y.rs (wRs1 w))))

/-- AGET: an address register into a scalar. -/
def agetBody (p : Pa) (t : Thr) (w : IWord) (s : State) : Issue :=
  if !formOk [0] w || wRs2 w ≠ 0 || 16 ≤ wRs1 w then illegal
  else needRegs p t [.s (fs (wRd w)), .a (fa (wRs1 w))] s
    (.next (s.ws p t (wRd w) ((s.thr p t).ra (wRs1 w))))

/-! ## The rows -/

/-- ADD: x + y. -/
def execAdd (p : Pa) (t : Thr) (w : IWord) (s : State) : Host.Outcome State Fault Refusal :=
  .next (attemptOf 1 0x00 p t w (aluBody (· + ·) p t w) s)

/-- SUB: x − y. -/
def execSub (p : Pa) (t : Thr) (w : IWord) (s : State) : Host.Outcome State Fault Refusal :=
  .next (attemptOf 1 0x01 p t w (aluBody (· - ·) p t w) s)

/-- AND. -/
def execAndS (p : Pa) (t : Thr) (w : IWord) (s : State) : Host.Outcome State Fault Refusal :=
  .next (attemptOf 1 0x02 p t w (aluBody (· &&& ·) p t w) s)

/-- OR. -/
def execOrS (p : Pa) (t : Thr) (w : IWord) (s : State) : Host.Outcome State Fault Refusal :=
  .next (attemptOf 1 0x03 p t w (aluBody (· ||| ·) p t w) s)

/-- XOR. -/
def execXorS (p : Pa) (t : Thr) (w : IWord) (s : State) : Host.Outcome State Fault Refusal :=
  .next (attemptOf 1 0x04 p t w (aluBody (· ^^^ ·) p t w) s)

/-- SHL. -/
def execShl (p : Pa) (t : Thr) (w : IWord) (s : State) : Host.Outcome State Fault Refusal :=
  .next (attemptOf 1 0x05 p t w (aluBody aluShl p t w) s)

/-- SHR. -/
def execShr (p : Pa) (t : Thr) (w : IWord) (s : State) : Host.Outcome State Fault Refusal :=
  .next (attemptOf 1 0x06 p t w (aluBody aluShr p t w) s)

/-- SRA. -/
def execSra (p : Pa) (t : Thr) (w : IWord) (s : State) : Host.Outcome State Fault Refusal :=
  .next (attemptOf 1 0x07 p t w (aluBody aluSra p t w) s)

/-- SLT. -/
def execSlt (p : Pa) (t : Thr) (w : IWord) (s : State) : Host.Outcome State Fault Refusal :=
  .next (attemptOf 1 0x08 p t w (aluBody aluSlt p t w) s)

/-- SLTU. -/
def execSltu (p : Pa) (t : Thr) (w : IWord) (s : State) : Host.Outcome State Fault Refusal :=
  .next (attemptOf 1 0x09 p t w (aluBody aluSltu p t w) s)

/-- MIN. -/
def execMinS (p : Pa) (t : Thr) (w : IWord) (s : State) : Host.Outcome State Fault Refusal :=
  .next (attemptOf 1 0x0A p t w (aluBody aluMin p t w) s)

/-- MAX. -/
def execMaxS (p : Pa) (t : Thr) (w : IWord) (s : State) : Host.Outcome State Fault Refusal :=
  .next (attemptOf 1 0x0B p t w (aluBody aluMax p t w) s)

/-- MINU. -/
def execMinu (p : Pa) (t : Thr) (w : IWord) (s : State) : Host.Outcome State Fault Refusal :=
  .next (attemptOf 1 0x0C p t w (aluBody aluMinu p t w) s)

/-- MAXU. -/
def execMaxu (p : Pa) (t : Thr) (w : IWord) (s : State) : Host.Outcome State Fault Refusal :=
  .next (attemptOf 1 0x0D p t w (aluBody aluMaxu p t w) s)

/-- MUL: low 64 bits. -/
def execMul (p : Pa) (t : Thr) (w : IWord) (s : State) : Host.Outcome State Fault Refusal :=
  .next (attemptOf 1 0x10 p t w (aluBody (· * ·) p t w) s)

/-- MULHU. -/
def execMulhu (p : Pa) (t : Thr) (w : IWord) (s : State) : Host.Outcome State Fault Refusal :=
  .next (attemptOf 1 0x11 p t w (aluBody aluMulhu p t w) s)

/-- MULH. -/
def execMulh (p : Pa) (t : Thr) (w : IWord) (s : State) : Host.Outcome State Fault Refusal :=
  .next (attemptOf 1 0x12 p t w (aluBody aluMulh p t w) s)

/-- DIVU. -/
def execDivu (p : Pa) (t : Thr) (w : IWord) (s : State) : Host.Outcome State Fault Refusal :=
  .next (attemptOf 1 0x14 p t w (divBody aluDivu p t w) s)

/-- REMU. -/
def execRemu (p : Pa) (t : Thr) (w : IWord) (s : State) : Host.Outcome State Fault Refusal :=
  .next (attemptOf 1 0x15 p t w (divBody aluRemu p t w) s)

/-- DIV. -/
def execDivS (p : Pa) (t : Thr) (w : IWord) (s : State) : Host.Outcome State Fault Refusal :=
  .next (attemptOf 1 0x16 p t w (divBody aluDiv p t w) s)

/-- REM. -/
def execRem (p : Pa) (t : Thr) (w : IWord) (s : State) : Host.Outcome State Fault Refusal :=
  .next (attemptOf 1 0x17 p t w (divBody aluRem p t w) s)

/-- AADD. -/
def execAadd (p : Pa) (t : Thr) (w : IWord) (s : State) : Host.Outcome State Fault Refusal :=
  .next (attemptOf 2 0x00 p t w (aaddBody p t w) s)

/-- AMOV. -/
def execAmov (p : Pa) (t : Thr) (w : IWord) (s : State) : Host.Outcome State Fault Refusal :=
  .next (attemptOf 2 0x01 p t w (amovBody p t w) s)

/-- AGET. -/
def execAget (p : Pa) (t : Thr) (w : IWord) (s : State) : Host.Outcome State Fault Refusal :=
  .next (attemptOf 2 0x02 p t w (agetBody p t w) s)

end Sys2Proof.Machine
end

