-- ==== Sys2Proof/Machine/Scheme.lean ====
section
/-! DEFINITION. The scheme-switching operations of Table 6.8 (R199, R200), and the key streams of the keyed ones (R469). Each runs
on the issuing PA alone. The words of
LKS, CBR, CXP and CPACK results are free values: the spec names these operations and states neither the gadget
decomposition, the modulus switch nor the order of the rows that would fix them (log entry 14). -/

namespace Sys2Proof.Machine

/-- A scheme-switching operation: what it reads, its result and refusals, its windows, what it writes, and the
descriptor it forms, if this window is the final one. -/
structure SwOp where
  reads : List (Desc × Fin 16)
  unreliable : Bool
  result : Tracked
  causes : List (Option Cause)
  srcs : List Staged
  dst : Staged
  last : Bool
  cycles : Nat
  data : List Wr
  /-- undefined words that `data` has drawn -/
  drawn : Nat
  /-- its key stream, which lands in no memory, and its modular operations -/
  stream : List Piece := []
  ops : Nat := 0

/-- The base of the result's footprint. -/
def SwOp.base (y : Thread) (f : PFields) : Nat := (y.ra f.ab.val).toNat % 2 ^ 48

/-- Every check of a scheme-switching operation. -/
def swCauses (s : State) (p : Pa) (t : Thr) (f : PFields) (o : SwOp) : List (Option Cause) :=
  let b := SwOp.base (s.thr p t) f
  o.reads.flatMap (fun x => objChecks s x.1 x.2) ++ o.causes
    ++ [noiseCause s p o.unreliable o.result (noisiest o.reads),
        causeIf (o.srcs.any fun x => overlapBad f.ip [o.dst.range] [x.range]) .overlap]
    ++ baseChecks s b (objBytes s (o.result.pack b)) true f.cd ++ o.dst.causes p ++ o.srcs.flatMap (Staged.causes p)

/-- The instruction in flight. -/
def swFlight (s : State) (p : Pa) (t : Thr) (f : PFields) (o : SwOp) : Op where
  thr := t
  fpc := (s.thr p t).pc
  unit := .cells
  uses := spmRes (spmOffsets p (o.srcs.map Staged.range))
  defs := (if o.last then [.c f.cd] else []) ++ spmRes (spmOffsets p [o.dst.range])
  writes := o.data ++ (if o.last then
    [.c f.cd ((budget s p o.unreliable o.result).1.pack (SwOp.base (s.thr p t) f))] else [])
  poison := some f.cd
  bad := (firstBad s (o.srcs.map Staged.range)).map (BitVec.ofNat 48)
  busyTo := (s.pa p).cycle + o.cycles

/-- R199: the operation's key stream is queued on the Bow, as a command that the instruction awaits. -/
def queueStream (p : Pa) (t : Thr) (l : List Piece) (s : State) : State :=
  if l = [] then s else s.modPa p fun x => addCmd (cmdAt x t false (streamUnits l) none false) x

/-- The operation is on its way. -/
def swSend (s : State) (p : Pa) (t : Thr) (f : PFields) (o : SwOp) : State :=
  let cmd := if o.stream = [] then none else some (s.pa p).bow.nextId
  let s1 := countWork { s with freeCtr := s.freeCtr + o.drawn } p t ((o.srcs.map (·.bytes)).foldl (· + ·) 0) 0 o.ops
  launch (queueStream p t o.stream s1) p { swFlight s p t f o with keyCmd := cmd }

/-- Issue a scheme-switching operation. -/
def swIssue (p : Pa) (t : Thr) (f : PFields) (s : State) (o : SwOp) : Issue :=
  unlessRefused (swCauses s p t f o) (some f.cd)
    (unlessWaits s p t (cellNeeds p (o.srcs.map Staged.range) [o.dst.range]) (.next (swSend s p t f o)))

/-- The form of a scheme-switching word: imm within its bits, unused fields zero. -/
def swForm (f : PFields) (immMax : Nat) (two keyed : Bool) : Bool :=
  !(f.rsvd || f.lazy || f.comp = 3 || immMax < f.imm || (!two && (f.cs2 ≠ 0 || f.as2 ≠ 0)) || (!keyed && f.kh ≠ 0))

/-- A scheme-switching instruction; `op` answers nothing where its key handle names no key of its kind. -/
def swBody (immMax : Nat) (two keyed : Bool) (op : State → Pa → Thread → PFields → Option SwOp) (p : Pa) (t : Thr)
    (w : IWord) (s : State) : Issue :=
  let f := pFields w
  if wFmt w ≠ 6 then illegal
  else if !swForm f immMax two keyed then refuse .illegal (some f.cd)
  else needRegs p t (.k f.kh :: descRegs f two) s
    (match op s p (s.thr p t) f with
     | some o => swIssue p t f s o
     | none => refuse .illegal (some f.cd))

/-- Scheme 0 to 2 in coefficient form. -/
def ringCoef (d : Desc) (i : Fin 16) : List (Option Cause) := [schemeCause d i, causeIf (dEval d) .illegal .c i.val]

/-- A window [lw, lw + lc] of a result of `k` limbs. -/
def windowCause (f : PFields) (k : Nat) : Option Cause := causeIf (k < f.lw + f.lc + 1) .illegal

/-! ## CSPLIT and CMERGE -/

/-- The words of a window, limb by limb of each component, in storage order. -/
def windowLimbs (s : State) (base n count : Nat) : List (List Nat) :=
  (upFrom 0 count).map fun j => (s.words (base + j * n * 8) n).map BitVec.toNat

/-- Every 2^e-th word from the i-th on. -/
def takeEvery (e i : Nat) (l : List Nat) : List Nat :=
  (upFrom 0 (l.length / 2 ^ e)).map fun t => l.getD (t * 2 ^ e + i) 0

/-- The word of the whole that stands at place `j`: part j mod 2^e, word j / 2^e. -/
def interleave (e n : Nat) (parts : List (List Nat)) : List Nat :=
  (upFrom 0 n).map fun j => (parts.getD (j % 2 ^ e) []).getD (j / 2 ^ e) 0

/-- CSPLIT. -/
def csplitOp (s : State) (_ : Pa) (y : Thread) (f : PFields) : Option SwOp :=
  let d := y.rc f.cs1.val
  let e := f.imm
  let n := dN d
  let count := windowComps f.comp (dPlain d) * (f.lc + 1)
  let src := staged y f.as1 (windowComps f.comp (dPlain d)) (f.lc + 1) n
  let dst := staged y f.ad (windowComps f.comp (dPlain d)) (f.lc + 1) n
  let limbs := windowLimbs s src.base.toNat n count
  let part := count * (n / 2 ^ e) * 8
  some
    { reads := [(d, f.cs1)], unreliable := dUnreliable d, result := { tracked d with lgn := dLgn d - e }
      causes := ringCoef d f.cs1 ++ [causeIf (dLgn d < e) .illegal .c f.cs1.val, windowCause f (dLimbs d),
        causeIf (f.comp = 2 && dPlain d) .illegal]
      srcs := [src], dst := dst, last := finalWindow f (tracked d), cycles := unitCycles (count * n) 512 1
      data := (upFrom 0 (2 ^ e)).flatMap fun i => (limbs.zip (upFrom 0 count)).map fun l =>
        .mem (dst.base.toNat + i * part + l.2 * (n / 2 ^ e) * 8) (limbBytes (takeEvery e i l.1))
      drawn := 0 }

/-- CMERGE: cs1 describes part 0, and the parts lie as CSPLIT writes them. -/
def cmergeOp (s : State) (_ : Pa) (y : Thread) (f : PFields) : Option SwOp :=
  let d := y.rc f.cs1.val
  let e := f.imm
  let n := dN d * 2 ^ e
  let count := windowComps f.comp (dPlain d) * (f.lc + 1)
  let src := staged y f.as1 (windowComps f.comp (dPlain d)) (f.lc + 1) n
  let dst := staged y f.ad (windowComps f.comp (dPlain d)) (f.lc + 1) n
  let part := count * dN d * 8
  let parts := (upFrom 0 (2 ^ e)).map fun i => windowLimbs s (src.base.toNat + i * part) (dN d) count
  some
    { reads := [(d, f.cs1)], unreliable := dUnreliable d, result := { tracked d with lgn := dLgn d + e }
      causes := ringCoef d f.cs1 ++ [causeIf (5 < dLgn d + e || !entriesFit s (dLimbs d) (12 + dLgn d + e)) .illegal
        .c f.cs1.val, windowCause f (dLimbs d), causeIf (f.comp = 2 && dPlain d) .illegal]
      srcs := [src], dst := dst, last := finalWindow f (tracked d), cycles := unitCycles (count * n) 512 1
      data := (upFrom 0 count).map fun j =>
        .mem (dst.base.toNat + j * n * 8) (limbBytes (interleave e n (parts.map fun l => l.getD j [])))
      drawn := 0 }

/-! ## LWE results -/

/-- Bytes of one staged LWE limb of dimension n (Table 2.1). -/
def lweBytes (n : Nat) : Nat := (n + 512) * 8

/-- The bytes of an LWE limb: a, then b, then 511 zero words (R42). -/
def lweLimb (a : List Nat) (b : Nat) : List Byte := limbBytes (a ++ b :: List.replicate 511 0)

/-- A window of `w` LWE limbs. -/
def lweWindow (y : Thread) (r : Fin 16) (w n : Nat) : Staged :=
  { reg := r, base := y.ra r.val, comps := 1, bytes := w * lweBytes n }

/-- a_t of an extraction at coefficient i. -/
def extractAt (q n i t : Nat) (c1 : List Nat) : Nat :=
  if t ≤ i then c1.getD (i - t) 0 else (q - c1.getD (n + i - t) 0 % q) % q

/-- CEXT: both components of a ciphertext. -/
def cextOp (s : State) (_ : Pa) (y : Thread) (f : PFields) : Option SwOp :=
  let d := y.rc f.cs1.val
  let n := dN d
  let lw := f.lc + 1
  let src := staged y f.as1 2 lw n
  let dst := lweWindow y f.ad lw n
  let c0 := windowLimbs s src.base.toNat n lw
  let c1 := windowLimbs s (src.base.toNat + lw * n * 8) n lw
  let r : Tracked := { tracked d with scheme := 3, eval := false, level := 0 }
  some
    { reads := [(d, f.cs1)], unreliable := dUnreliable d, result := r
      causes := ringCoef d f.cs1 ++ [causeIf (n ≤ f.imm || f.comp ≠ 0 || dPlain d) .illegal, windowCause f (dLimbs d)]
      srcs := [src], dst := dst, last := f.lw + lw = dLimbs d, cycles := unitCycles (lw * n) 512 1
      data := (upFrom 0 lw).map fun j =>
        .mem (dst.base.toNat + j * lweBytes n)
          (lweLimb ((upFrom 0 n).map fun t => extractAt (modQ s (f.lw + j)) n f.imm t (c1.getD j []))
            ((c0.getD j []).getD f.imm 0))
      drawn := 0 }

/-! ## Keyed operations -/

/-- Undefined words for a run of limbs. -/
def freeWords (s : State) (from_ n : Nat) : List Nat := (upFrom (s.freeCtr + from_) n).map fun i => (Config.freeWord i).toNat

/-- Whole results of k limbs: these operations take no partial window. -/
def wholeCause (f : PFields) (k : Nat) : Option Cause := causeIf (f.lw ≠ 0 || f.lc + 1 ≠ k || f.comp ≠ 0) .illegal

/-! ## Key streams (R469) -/

/-- The runs of a stream, one after another: each says where its bytes come from, and how many there are. -/
def streamRuns : Nat → List ((Nat → PieceSrc) × Nat) → List Piece
  | _, [] => []
  | at_, e :: r => runPieces e.1 at_ e.2 ++ streamRuns (at_ + e.2) r

/-- Bytes of a run that a seed gives for bytes i and j, modulo the prime of a table entry. -/
def rosinRun (e i j tab : Nat) : Nat → PieceSrc := fun o => .rosin e i j tab (o / 4096) (o % 4096)

/-- Bytes of a run of a key's body, from an offset. -/
def bodyRun (h : KeyHdr) (at_ : Nat) : Nat → PieceSrc := fun o => .mem (h.base + 4096 + at_ + o)

/-- Limb j of entry (i, g) of a key of kind 5: its a-vector, then its word b. -/
def lksEntry (e : Nat) (h : KeyHdr) (i g j : Nat) : List ((Nat → PieceSrc) × Nat) :=
  let k := (i * h.dnum + g) * h.limbs + j
  if h.seeded then [(rosinRun e g (i % 256) j, h.lweN * 8), (bodyRun h (k * 8), 8)]
  else [(bodyRun h (k * (h.lweN + 1) * 8), (h.lweN + 1) * 8)]

/-- The stream of an LKS: the first limb of every entry, in order. -/
def lksStream (e : Nat) (h : KeyHdr) : List Piece :=
  streamRuns 0 ((upFrom 0 h.n).flatMap fun i => (upFrom 0 h.dnum).flatMap fun g => lksEntry e h i g 0)

/-- Limb j of row r of ring-GSW ciphertext x of a key of kind 6: component 0, then component 1. -/
def gswRow (e : Nat) (h : KeyHdr) (x r j : Nat) : List ((Nat → PieceSrc) × Nat) :=
  let row := x * 2 * h.dnum + r
  if h.seeded then
    [(bodyRun h ((row * h.limbs + j) * h.n * 8), h.n * 8), (rosinRun e r (x % 256) j, h.n * 8)]
  else (upFrom 0 2).map fun c => (bodyRun h (((row * 2 + c) * h.limbs + j) * h.n * 8), h.n * 8)

/-- The stream of a CBR with a result of k limbs: ciphertext by ciphertext, row by row. -/
def cbrStream (e : Nat) (h : KeyHdr) (k : Nat) : List Piece :=
  streamRuns 0 ((upFrom 0 h.lweN).flatMap fun x => (upFrom 0 (2 * h.dnum)).flatMap fun r =>
    (upFrom 0 k).flatMap fun j => gswRow e h x r j)

/-- Both halves of every raised limb of a key of kind 7, digit by digit (R178). -/
def packRuns (s : State) (e : Nat) (h : KeyHdr) (k : Nat) : List ((Nat → PieceSrc) × Nat) :=
  (upFrom 0 (digitsUsed h k)).flatMap fun i => (upFrom 0 k ++ upFrom h.limbs (modK s)).flatMap fun j =>
    (upFrom 0 2).map fun half =>
      (if h.seeded && half = 1 then rosinRun e i j (keyEntry s h j) else fun o => .mem (keyLimbAt h i j half + o), h.n * 8)

/-- The stream of a CPACK: the keys of its entries in turn. -/
def packStream (s : State) (entry e k : Nat) : List Piece :=
  streamRuns 0 ((upFrom entry e).flatMap fun i => match s.rp.keys[i]? with
    | some h => packRuns s i h k
    | none => [])

/-! ## Operation counts (R197) -/

/-- Modular operations of an external product with d digits: the digits' transforms and products, and the transforms back. -/
def productOps (lg d : Nat) : Nat := (2 * d + 2) * butterflies lg + 6 * d * 2 ^ lg

/-- Modular operations of a CBR: each step rotates and subtracts both components before its product (log entry 72). -/
def cbrOps (h : KeyHdr) (k : Nat) : Nat := h.lweN * k * (productOps (12 + h.lgn) h.dnum + 4 * h.n)

/-- Modular operations of a CPACK: those of a CHORD on one PA, for each key. -/
def packOps (s : State) (entry e lg k : Nat) : Nat :=
  match s.rp.keys[entry]? with
  | some h => e * ((upFrom 0 (k + modK s)).map fun m => chordOps h .chord lg k (modK s) 1 m).foldl (· + ·) 0
  | none => 0

/-- The key of a handle, of a kind, with its directory entry. -/
def keyOf (s : State) (y : Thread) (f : PFields) (kind : Nat) : Option (Nat × KeyHdr) :=
  match y.k.toArray.getD f.kh.val none with
  | some e => ((s.rp.keys[e.val]?).filter (·.kind = kind)).map fun h => (e.val, h)
  | none => none

/-- The smallest lgn whose ring dimension holds an LWE dimension (log entry 15). -/
def lweLgn (n : Nat) : Nat := ((upFrom 0 6).find? fun g => n ≤ 2 ^ (12 + g)).getD 5

/-- log2 in Q8.8, of a power of two. -/
def q88 (e : Nat) : Nat := e * 256

/-- LKS. -/
def lksOp (s : State) (_ : Pa) (y : Thread) (f : PFields) : Option SwOp :=
  match keyOf s y f 5 with
  | none => none
  | some (e, h) =>
    let d := y.rc f.cs1.val
    let n := 2 ^ (12 + lweLgn h.lweN)
    let src := lweWindow y f.as1 (dLimbs d) (dN d)
    let dst := lweWindow y f.ad 1 n
    let r : Tracked := { tracked d with lgn := lweLgn h.lweN, k := 1, tag := h.tagOut
                                        noise := lse (dNoise d) (min 0xFFFF (h.knoise.toNat + q88 (12 + h.lgn))) }
    some
      { reads := [(d, f.cs1)], unreliable := dUnreliable d, result := r
        causes := [causeIf (dScheme d ≠ 3) .illegal .c f.cs1.val, causeIf (h.lgn ≠ dLgn d) .illegal .k f.kh.val,
          causeIf (dTag d ≠ h.tagIn) .keytag .k f.kh.val, wholeCause f 1]
        srcs := [src], dst := dst, last := true
        stream := lksStream e h, ops := dN d * h.dnum * (h.lweN + 1)
        cycles := unitCycles (dN d * h.dnum * (h.lweN + 1)) 512 1
        data := [.mem dst.base.toNat (lweLimb (freeWords s 0 n) (freeWords s n 1).sum)], drawn := n + 1 }

/-- R200: CBR's input against the LWE limit; an unreliable operand exempts the operation (R63). -/
def lweBudget (s : State) (p : Pa) (unrel : Bool) (d : Desc) (i : Fin 16) : Option Cause :=
  noiseCause s p unrel (tracked d) i

/-- CBR: the result's scale is a free value, for neither the operands' rules nor Table 6.8 state it. -/
def cbrOp (s : State) (p : Pa) (y : Thread) (f : PFields) : Option SwOp :=
  match keyOf s y f 6 with
  | none => none
  | some (e, h) =>
    let d := y.rc f.cs1.val
    let v := y.rc f.cs2.val
    let n := 2 ^ (12 + h.lgn)
    let k := dLimbs v
    let src1 := lweWindow y f.as1 (dLimbs d) (dN d)
    let src2 := staged y f.as2 1 k n
    let dst := lweWindow y f.ad k n
    let r : Tracked :=
      { lgn := h.lgn, k := k, level := 0, scheme := 3, eval := false, tag := h.tagOut
        scale := (freeWords s 0 1).sum % 4096, noise := h.knoise.toNat, unreliable := false }
    let beyond := overBudget s p (tracked d) && s.regBit (.pa p .ncfg) 0
    some
      { reads := [(d, f.cs1), (v, f.cs2)], unreliable := dUnreliable d || dUnreliable v || beyond, result := r
        causes := [causeIf (dScheme d ≠ 3 || lweLgn h.lweN ≠ dLgn d) .illegal .c f.cs1.val,
          causeIf (3 ≤ dScheme v || !dPlain v || dLgn v ≠ h.lgn || h.limbs < k) .illegal .c f.cs2.val,
          causeIf (dTag d ≠ h.tagIn) .keytag .k f.kh.val, wholeCause f k,
          lweBudget s p (dUnreliable d || dUnreliable v) d f.cs1]
        srcs := [src1, src2], dst := dst, last := true, cycles := h.lweN * 620
        stream := cbrStream e h k, ops := cbrOps h k
        data := (upFrom 0 k).map fun j =>
          .mem (dst.base.toNat + j * lweBytes n)
            (lweLimb (freeWords s (1 + j * (n + 1)) n) (freeWords s (1 + j * (n + 1) + n) 1).sum)
        drawn := 1 + k * (n + 1) }

/-- CXP. -/
def cxpOp (s : State) (p : Pa) (y : Thread) (f : PFields) : Option SwOp :=
  let d := y.rc f.cs1.val
  let g := y.rc f.cs2.val
  let n := dN d
  let k := dLimbs d
  let src1 := staged y f.as1 2 k n
  let src2 : Staged := { reg := f.as2, base := y.ra f.as2.val, comps := 1, bytes := objBytes s g }
  let dst := staged y f.ad 2 k n
  let r := { tracked d with
    noise := lse (dNoise d) (min 0xFFFF (dNoise g + (noiseConst s p 1).kks)) }
  some
    { reads := [(d, f.cs1), (g, f.cs2)], unreliable := dUnreliable d || dUnreliable g, result := r
      causes := ringCoef d f.cs1 ++ [causeIf (dScheme g ≠ 4) .illegal .c f.cs2.val,
        causeIf (dPlain d || dLgn d ≠ dLgn g) .illegal .c f.cs1.val, causeIf (k ≠ dLimbs g) .level .c f.cs2.val,
        causeIf (dTag d ≠ dTag g) .keytag .c f.cs2.val, wholeCause f k]
      srcs := [src1, src2], dst := dst, last := true, cycles := 600, ops := k * productOps (12 + dLgn d) (gswDigits s)
      data := [.mem dst.base.toNat (limbBytes (freeWords s 0 (2 * k * n)))], drawn := 2 * k * n }

/-- The packing keys of handle kh's entry and the next e - 1 fit (R199); the handle's own is of kind 7 even with e = 0. -/
def packKeysOk (s : State) (entry e : Nat) (d : Desc) : Bool :=
  ((s.rp.keys[entry]?).any (·.kind = 7)) && (upFrom 0 e).all fun i => match s.rp.keys[entry + i]? with
    | some h => h.kind = 7 && h.lgn = dLgn d && h.galois = dN d / 2 ^ (i + 1) + 1 && dLimbs d ≤ h.limbs && h.special = modK s
    | none => false

/-- Their tags, and that of the handle's key (R54). -/
def packTagsOk (s : State) (entry e : Nat) (d : Desc) : Bool :=
  (upFrom 0 (max 1 e)).all fun i => match s.rp.keys[entry + i]? with
    | some h => h.tagIn = dTag d
    | none => true

/-- CPACK: the result is a BFV ciphertext in evaluation form (log entry 16). -/
def cpackOp (s : State) (_ : Pa) (y : Thread) (f : PFields) : Option SwOp :=
  match y.k.toArray.getD f.kh.val none with
  | none => none
  | some entry =>
    let d := y.rc f.cs1.val
    let e := f.imm
    let n := dN d
    let k := dLimbs d
    let src : Staged := { reg := f.as1, base := y.ra f.as1.val, comps := 1, bytes := 2 ^ e * k * lweBytes n }
    let dst := staged y f.ad 2 k n
    let kn := match s.rp.keys[entry.val]? with
      | some h => h.knoise.toNat
      | none => 0
    let r : Tracked := { tracked d with scheme := 1, eval := true, level := 0
                                        noise := lse (min 0xFFFF (dNoise d + q88 e)) (min 0xFFFF (kn + q88 e)) }
    some
      { reads := [(d, f.cs1)], unreliable := dUnreliable d, result := r
        causes := [causeIf (dScheme d ≠ 3 || 12 + dLgn d < e) .illegal .c f.cs1.val,
          causeIf (!packKeysOk s entry.val e d) .illegal .k f.kh.val,
          causeIf (!packTagsOk s entry.val e d) .keytag .k f.kh.val, wholeCause f k]
        srcs := [src], dst := dst, last := true, cycles := 1
        stream := packStream s entry.val e k, ops := packOps s entry.val e (12 + dLgn d) k
        data := [.mem dst.base.toNat (limbBytes (freeWords s 0 (2 * k * n)))], drawn := 2 * k * n }

/-! ## The rows -/

/-- CSPLIT. -/
def execCsplit (p : Pa) (t : Thr) (w : IWord) (s : State) : Host.Outcome State Fault Refusal :=
  .next (attemptOf 6 0x28 p t w (swBody 7 false false csplitOp p t w) s)

/-- CMERGE. -/
def execCmerge (p : Pa) (t : Thr) (w : IWord) (s : State) : Host.Outcome State Fault Refusal :=
  .next (attemptOf 6 0x29 p t w (swBody 7 false false cmergeOp p t w) s)

/-- CEXT. -/
def execCext (p : Pa) (t : Thr) (w : IWord) (s : State) : Host.Outcome State Fault Refusal :=
  .next (attemptOf 6 0x2A p t w (swBody 0x1FFFF false false cextOp p t w) s)

/-- LKS. -/
def execLks (p : Pa) (t : Thr) (w : IWord) (s : State) : Host.Outcome State Fault Refusal :=
  .next (attemptOf 6 0x2B p t w (swBody 0 false true lksOp p t w) s)

/-- CBR. -/
def execCbr (p : Pa) (t : Thr) (w : IWord) (s : State) : Host.Outcome State Fault Refusal :=
  .next (attemptOf 6 0x2C p t w (swBody 0 true true cbrOp p t w) s)

/-- CXP. -/
def execCxp (p : Pa) (t : Thr) (w : IWord) (s : State) : Host.Outcome State Fault Refusal :=
  .next (attemptOf 6 0x2D p t w (swBody 0 true false cxpOp p t w) s)

/-- CPACK. -/
def execCpack (p : Pa) (t : Thr) (w : IWord) (s : State) : Host.Outcome State Fault Refusal :=
  .next (attemptOf 6 0x2E p t w (swBody 15 false true cpackOp p t w) s)

end Sys2Proof.Machine
end

