-- ==== Sys2Proof/Machine/Float.lean ====
section
/-! DEFINITION. Floating point (chapter 7): the formats of Table 7.2, exact values, and rounding to nearest even
(R172, R206, R212, R224), the block formats of R208 to R210, and the twiddles of R87 and R221. -/

namespace Sys2Proof.Machine

/-! ## Formats and values -/

/-- A float format: exponent and mantissa bits, bias, and whether it has infinities (Table 7.2). -/
structure FFmt where
  eb : Nat
  mb : Nat
  bias : Nat
  ieee : Bool
  deriving DecidableEq, Repr

def e4m3 : FFmt := { eb := 4, mb := 3, bias := 7, ieee := false }
def e5m2 : FFmt := { eb := 5, mb := 2, bias := 15, ieee := true }
def fp16 : FFmt := { eb := 5, mb := 10, bias := 15, ieee := true }
def bf16 : FFmt := { eb := 8, mb := 7, bias := 127, ieee := true }
def fp32 : FFmt := { eb := 8, mb := 23, bias := 127, ieee := true }
def fp64 : FFmt := { eb := 11, mb := 52, bias := 1023, ieee := true }

/-- The float format of a code of Table 7.1. -/
def fmtOf : Nat → FFmt
  | 0 => e4m3 | 1 => e5m2 | 2 => fp16 | 3 => bf16 | 4 => fp32 | _ => fp64

/-- Bits of an encoding. -/
def FFmt.width (f : FFmt) : Nat := 1 + f.eb + f.mb

/-- A value: a NaN, signalling or quiet; an infinity; or ±m × 2^e, exactly. -/
inductive FVal where
  | nan (signalling : Bool)
  | inf (neg : Bool)
  | fin (neg : Bool) (m : Nat) (e : Int)
  deriving DecidableEq, Repr

/-- R206: the value that a pattern encodes. -/
def FFmt.decode (f : FFmt) (v : Nat) : FVal :=
  let m := v % 2 ^ f.mb
  let x := v / 2 ^ f.mb % 2 ^ f.eb
  let neg := v / 2 ^ (f.mb + f.eb) % 2 = 1
  if f.ieee && x = 2 ^ f.eb - 1 then
    if m = 0 then .inf neg else .nan (m < 2 ^ (f.mb - 1))
  else if !f.ieee && x = 2 ^ f.eb - 1 && m = 2 ^ f.mb - 1 then .nan false
  else if x = 0 then .fin neg m (1 - (f.bias : Int) - f.mb)
  else .fin neg (2 ^ f.mb + m) ((x : Int) - f.bias - f.mb)

/-- The canonical NaN (R213). -/
def FFmt.qnan (f : FFmt) : Nat :=
  if f.ieee then (2 ^ f.eb - 1) * 2 ^ f.mb + 2 ^ (f.mb - 1) else 0x7F

/-- m × 2^d, for a result that is an integer. -/
def shiftBy (m : Nat) (d : Int) : Nat := if 0 ≤ d then m * 2 ^ d.toNat else m / 2 ^ (-d).toNat

/-- The pattern of a value that the format holds. -/
def FFmt.encode (f : FFmt) : FVal → Nat
  | .nan _ => f.qnan
  | .inf neg => (if neg then 2 ^ (f.mb + f.eb) else 0) + (2 ^ f.eb - 1) * 2 ^ f.mb
  | .fin neg m e =>
    let s := if neg then 2 ^ (f.mb + f.eb) else 0
    if m = 0 then s
    else
      let k : Int := (Nat.log2 m : Int) + e
      let emin : Int := 1 - (f.bias : Int)
      if k < emin then s + shiftBy m (e - (emin - f.mb))
      else s + (k + f.bias).toNat * 2 ^ f.mb + (shiftBy m (e - (k - f.mb)) - 2 ^ f.mb)

/-- The largest finite value, as m × 2^e. -/
def FFmt.maxFin (f : FFmt) : Nat × Int :=
  if f.ieee then (2 ^ (f.mb + 1) - 1, (2 ^ f.eb - 2 : Int) - f.bias - f.mb) else (14, 5)

/-- Whether m × 2^e exceeds m' × 2^e'. -/
def dyadLt (m : Nat) (e : Int) (m' : Nat) (e' : Int) : Bool :=
  let b := min e e'
  m * 2 ^ (e - b).toNat < m' * 2 ^ (e' - b).toNat

/-! ## Rounding to nearest, ties to even -/

/-- num / den rounded to an integer, ties to even. -/
def divEven (num den : Nat) : Nat :=
  let q := num / den
  let r := num % den
  if 2 * r < den then q else if 2 * r = den then (if q % 2 = 0 then q else q + 1) else q + 1

/-- num × 2^e / den in units of 2^q, rounded. -/
def quantum (num den : Nat) (e q : Int) : Nat :=
  if 0 ≤ e - q then divEven (num * 2 ^ (e - q).toNat) den else divEven num (den * 2 ^ (q - e).toNat)

/-- The exponent of the leading bit of num × 2^e / den, num nonzero. -/
def leadExp (num den : Nat) (e : Int) : Int :=
  let k : Int := (Nat.log2 num : Int) - Nat.log2 den
  let below := if 0 ≤ k then num < den * 2 ^ k.toNat else num * 2 ^ (-k).toNat < den
  (if below then k - 1 else k) + e

/-- ±num × 2^e / den rounded to a format (R212); nothing when its magnitude exceeds the largest finite value. -/
def FFmt.round (f : FFmt) (neg : Bool) (num den : Nat) (e : Int) : Option FVal :=
  if num = 0 then some (.fin neg 0 0)
  else
    let q := max (leadExp num den e - f.mb) (1 - (f.bias : Int) - f.mb)
    let m := quantum num den e q
    if dyadLt f.maxFin.1 f.maxFin.2 m q then none else some (.fin neg m q)

/-- A rounded result with the flags it raises. -/
structure FRes where
  v : FVal
  of : Bool := false
  nv : Bool := false
  deriving DecidableEq, Repr

/-- Round; an overflow becomes an infinity. -/
def FFmt.fit (f : FFmt) (neg : Bool) (num den : Nat) (e : Int) : FRes :=
  match f.round neg num den e with
  | some v => { v := v }
  | none => { v := .inf neg, of := true }

/-! ## Arithmetic -/

def FVal.signalling : FVal → Bool
  | .nan b => b
  | _ => false

def FVal.isNan : FVal → Bool
  | .nan _ => true
  | _ => false

/-- A quiet NaN, invalid if an operand is signalling. -/
def nanOf (a b : FVal) : FRes := { v := .nan false, nv := a.signalling || b.signalling }

/-- ±m × 2^e as an integer of units 2^b. -/
def unitsOf (neg : Bool) (m : Nat) (e b : Int) : Int :=
  let n : Int := (m * 2 ^ (e - b).toNat : Nat)
  if neg then -n else n

/-- a + b in a format. -/
def FFmt.add (f : FFmt) (a b : FVal) : FRes :=
  match a, b with
  | .nan _, _ => nanOf a b
  | _, .nan _ => nanOf a b
  | .inf s, .inf t => if s = t then { v := .inf s } else { v := .nan false, nv := true }
  | .inf s, .fin _ _ _ => { v := .inf s }
  | .fin _ _ _, .inf t => { v := .inf t }
  | .fin s m e, .fin t n g =>
    let k := min e g
    let sum := unitsOf s m e k + unitsOf t n g k
    if sum = 0 then { v := .fin (s && t) 0 0 }
    else f.fit (sum < 0) sum.natAbs 1 k

/-- −a. -/
def FVal.neg : FVal → FVal
  | .nan s => .nan s
  | .inf s => .inf !s
  | .fin s m e => .fin (!s) m e

def FFmt.sub (f : FFmt) (a b : FVal) : FRes := f.add a b.neg

/-- The exact product, and whether it is invalid. -/
def mulExact (a b : FVal) : FVal × Bool :=
  match a, b with
  | .nan s, x => (.nan false, s || x.signalling)
  | x, .nan s => (.nan false, s || x.signalling)
  | .inf s, .inf t => (.inf (s != t), false)
  | .inf s, .fin t m _ => if m = 0 then (.nan false, true) else (.inf (s != t), false)
  | .fin s m _, .inf t => if m = 0 then (.nan false, true) else (.inf (s != t), false)
  | .fin s m e, .fin t n g => (.fin (s != t) (m * n) (e + g), false)

/-- A value rounded to a format. -/
def FFmt.into (f : FFmt) : FVal → FRes
  | .nan s => { v := .nan false, nv := s }
  | .inf s => { v := .inf s }
  | .fin s m e => f.fit s m 1 e

/-- a × b in a format. -/
def FFmt.mul (f : FFmt) (a b : FVal) : FRes :=
  let p := mulExact a b
  let r := f.into p.1
  { r with nv := p.2 }

/-- Whether a < b, of values that are no NaN. -/
def FVal.lt (a b : FVal) : Bool :=
  match a, b with
  | .inf true, .inf true => false
  | .inf true, _ => true
  | _, .inf true => false
  | .inf false, _ => false
  | _, .inf false => true
  | .fin s m e, .fin t n g => let k := min e g; unitsOf s m e k < unitsOf t n g k
  | _, _ => false

/-- The larger of two values that are no NaN; a zero is +0.0 if either is (R172). -/
def FVal.max (a b : FVal) : FVal :=
  match a, b with
  | .fin s 0 _, .fin t 0 _ => .fin (s && t) 0 0
  | _, _ => if a.lt b then b else a

def FVal.abs : FVal → FVal
  | .nan s => .nan s
  | .inf _ => .inf false
  | .fin _ m e => .fin false m e

/-- The value as an integer rounded to nearest, ties to even. -/
def rintDyad (neg : Bool) (m : Nat) (e : Int) : Int :=
  let n : Int := (quantum m 1 e 0 : Nat)
  if neg then -n else n

/-! ## Conversions (R212, R213) -/

/-- Table 7.6: a value in a destination format, with SAT, OF and NV as bits 0, 5 and 6 of the flags word. -/
def FFmt.convert (f : FFmt) (sat : Bool) (v : FVal) : Nat × Nat :=
  let clamp := sat || !f.ieee
  let top := fun (neg : Bool) => f.encode (.fin neg f.maxFin.1 f.maxFin.2)
  match v with
  | .nan s => (f.qnan, if s then 64 else 0)
  | .inf neg => if clamp then (top neg, 1) else (f.encode (.inf neg), 0)
  | .fin neg m e =>
    match f.round neg m 1 e with
    | some r => (f.encode r, 0)
    | none => if clamp then (top neg, 1) else (f.encode (.inf neg), 32)

/-! ## Block formats (R208 to R210) -/

/-- Bytes of a block of format 6 or 7. -/
def blockBytes (ty : Nat) : Nat := if ty = 6 then 72 else 40

/-- Bytes that `n` packed elements of a format occupy (Table 7.1, R208). -/
def packedBytes (ty n : Nat) : Nat :=
  match ty with
  | 0 => n | 1 => n | 2 => 2 * n | 3 => 2 * n | 4 => 4 * n | 5 => 8 * n
  | _ =>
    let full := n / 64
    let rest := n % 64
    full * blockBytes ty + (if rest = 0 then 0 else 8 + if ty = 6 then rest else (rest + 1) / 2)

/-- R210. -/
def headerBad (ty : Nat) (h : Word) : Bool :=
  let v := fp32.decode (field h 0 32).toNat
  bit h 31 || (match v with | .fin _ _ _ => false | _ => true)
    || (!bit h 40 && field h 32 8 ≠ 0) || (ty = 7 && field h 36 4 ≠ 0) || field h 41 23 ≠ 0

def headerZp (h : Word) : Nat := (field h 32 8).toNat

/-- R209: the value of a code under a header: scale × q, or scale × (q - zp), formed exactly in binary64. -/
def codeValue (ty : Nat) (h : Word) (code : Nat) : FVal :=
  if headerBad ty h then .nan false
  else
    let w := if ty = 6 then 8 else 4
    let q : Int := if bit h 40 then (code : Int) - headerZp h else signedOf w code
    match fp32.decode (field h 0 32).toNat with
    | .fin _ m e => (fp64.fit (q < 0) (m * q.natAbs) 1 e).v
    | v => v

/-! ## Twiddles (R87, R221): correctly rounded cosines and sines of fractions of a turn -/

/-- π in units of 2^-160. -/
def piFix : Nat := 4591442807048218921384805199743311128454155024418

/-- One term of the series: acc ± x²ⁿ / …, in units of 2^-160. -/
def trigSeries (fuel : Nat) (x2 term k : Nat) (neg : Bool) (acc : Int) : Int :=
  match fuel with
  | 0 => acc
  | f + 1 =>
    let next := term * x2 / 2 ^ 160 / ((k + 1) * (k + 2))
    trigSeries f x2 next (k + 2) (!neg) (if neg then acc - term else acc + term)

def cosFix (x : Nat) : Int := trigSeries 22 (x * x / 2 ^ 160) (2 ^ 160) 0 false 0
def sinFix (x : Nat) : Int := trigSeries 22 (x * x / 2 ^ 160) x 1 false 0

/-- The binary64 nearest to a positive number of units of 2^-160. -/
def fixVal (neg : Bool) (n : Int) : FVal := (fp64.fit neg n.natAbs 1 (-160)).v

/-- (cos, sin) of `a` of `d` parts of a quarter turn, a ≤ d. -/
def quarter (a d : Nat) : FVal × FVal :=
  if a = 0 then (.fin false 1 0, .fin false 0 0)
  else if a = d then (.fin false 0 0, .fin false 1 0)
  else if 2 * a ≤ d then
    let x := piFix * a / (2 * d)
    (fixVal false (cosFix x), fixVal false (sinFix x))
  else
    let x := piFix * (d - a) / (2 * d)
    (fixVal false (sinFix x), fixVal false (cosFix x))

/-- −v, a zero staying positive. -/
def negOf (v : FVal) : FVal := match v with | .fin _ 0 _ => v | _ => v.neg

/-- (cos, sin) of 2π a / n, for n a multiple of four. -/
def unitRoot (a n : Nat) : FVal × FVal :=
  let b := a % n
  let d := n / 4
  let c := quarter (b % d) d
  match b / d with
  | 0 => c
  | 1 => (negOf c.2, c.1)
  | 2 => (negOf c.1, negOf c.2)
  | _ => (c.2, negOf c.1)

/-- A complex point. -/
abbrev CPoint := FVal × FVal

/-- The complex product, every product and sum rounded (R87), with its flags. -/
def cmul (w b : CPoint) : CPoint × Bool × Bool :=
  let p1 := fp64.mul w.1 b.1
  let p2 := fp64.mul w.2 b.2
  let p3 := fp64.mul w.1 b.2
  let p4 := fp64.mul w.2 b.1
  let re := fp64.sub p1.v p2.v
  let im := fp64.add p3.v p4.v
  ((re.v, im.v), p1.of || p2.of || p3.of || p4.of || re.of || im.of,
    p1.nv || p2.nv || p3.nv || p4.nv || re.nv || im.nv)

/-- The conjugate of a root of unity. -/
def conj (c : CPoint) : CPoint := (c.1, negOf c.2)

end Sys2Proof.Machine
end

