-- ==== Sys2Proof/Machine/Veu.lean ====
section
/-! DEFINITION. The Vector Element Unit (group 9): integer, logic and move operations (R166 to R168), reductions
(R169 to R172) and floating-point dot products (R173, R224, R225). -/

namespace Sys2Proof.Machine

/-! ## Element-wise operations (Table 5.13) -/

/-- mode bit 2. -/
def satMode (f : VFields) : Bool := f.mode.testBit 2

def boolWord (b : Bool) : Word := if b then 1 else 0

/-- Conditions on the fields of a group 9 word that hold of every operation but VRED. -/
def veuFields (f : VFields) : Bool := !f.lazy && f.nl = 0 && f.mi = 0

/-- The rate of a VEU operation: 512 elements a cycle. -/
def veuSpec : LaneSpec := { unit := .veu, align := 8, limbs := 1, num := 512, den := 1, ops := 0 }

/-- An operation on S1 and S2, and S3 where it takes one. Its destination is of kind 1 to 3: the spec lists no kind 5 for an
operation with one result a lane (DESIGN CHOICE, log entry 77). -/
def veuPlan (k1 k2 k3 : List Nat) (ok : VFields → Bool) (lane : VFields → Word → Word → Word → Word × Nat) (p : Pa)
    (t : Thr) (w : IWord) (s : State) : Option VPlan :=
  let f := vFields w
  if !vShape w [1, 2, 3] k1 k2 k3 || !veuFields f || !ok f then none
  else some (lanePlan p t f veuSpec [] (fun _ a b c => lane f a b c) s)

/-- Two sources, no mode bits, no immediate. -/
def veuTwo (lane : Nat → Word → Word → Word) (p : Pa) (t : Thr) (w : IWord) (s : State) : Option VPlan :=
  veuPlan [1, 2, 3, 5] [1, 2, 3, 5] [0] (fun f => f.mode = 0 && f.imm = 0) (fun f a b _ => (lane f.type a b, 0)) p t w s

/-- Two sources, wrapped or saturated. -/
def veuArith (op : Int → Int → Int) (p : Pa) (t : Thr) (w : IWord) (s : State) : Option VPlan :=
  veuPlan [1, 2, 3, 5] [1, 2, 3, 5] [0] (fun f => (f.mode = 0 || f.mode = 4) && f.imm = 0)
    (fun f a b _ => fitInt f.type (satMode f) (op (typeIn f.type a) (typeIn f.type b))) p t w s

/-- VMULH: the high w bits of the 2w-bit product. -/
def highProduct (ty : Nat) (a b : Word) : Word := typeOut ty (typeIn ty a * typeIn ty b / (2 ^ typeW ty : Nat))

/-- R168: the shift amount of a lane. -/
def shiftAmount (f : VFields) (b : Word) : Nat := if f.mode.testBit 0 then f.imm else b.toNat % 256

/-- A shift: S2 is of kind 0 when mode bit 0 is set, and imm is then at most 255. -/
def shiftPlan (satOk : Bool) (lane : VFields → Word → Nat → Word × Nat) (p : Pa) (t : Thr) (w : IWord) (s : State) :
    Option VPlan :=
  let f := vFields w
  let byImm := f.mode.testBit 0
  if !vShape w [1, 2, 3] [1, 2, 3, 5] (if byImm then [0] else [1, 2, 3, 5]) [0] || !veuFields f
      || !(f.mode ≤ 1 || satOk && (f.mode = 4 || f.mode = 5)) || (if byImm then 256 else 1) ≤ f.imm then none
  else some (lanePlan p t f veuSpec [] (fun _ a b _ => lane f a (shiftAmount f b)) s)

/-- VMOV: all 64 bits, with any source kind. -/
def vmovPlan (p : Pa) (t : Thr) (w : IWord) (s : State) : Option VPlan :=
  veuPlan [1, 2, 3, 4, 5] [0] [0] (fun f => f.mode = 0 && f.imm = 0) (fun _ a _ _ => (a, 0)) p t w s

/-- VSEL. -/
def vselPlan (p : Pa) (t : Thr) (w : IWord) (s : State) : Option VPlan :=
  veuPlan [1, 2, 3, 5] [1, 2, 3, 5] [1, 2, 3, 5] (fun f => f.mode = 0 && f.imm = 0)
    (fun _ a b c => (if c ≠ 0 then a else b, 0)) p t w s

/-- VMSKR: the columns of row imm[5:0] that are active, within the count, and nonzero. -/
def vmskrPlan (p : Pa) (t : Thr) (w : IWord) (s : State) : Option VPlan :=
  let f := vFields w
  match Operand.of f.d, Operand.of f.s1 with
  | some (.scalar i), some (.tile a) =>
    if !vShape w [5] [3] [0] [0] || !veuFields f || f.mode ≠ 0 || 64 ≤ f.imm then none
    else
      let o := vOps f
      some
        (let x := s.pa p
         let y := x.thr t
         let n := countOf f y
         let bits := (upFrom 0 64).map fun c =>
           let k := f.imm * 64 + c
           bitAt 64 c (k < n && activeAt (y.rm f.msk.val) k && typeIn f.type (tileAt x a k) ≠ 0)
         VPlan.mk (vRegs f (vOps f)) (laneCauses p y f o veuSpec n)
          { unit := .veu, cycles := unitCycles n 512 1, reads := [], dst := [], owes := [.s i]
            wrs := if n = 0 then [] else [.s i (bits.foldl (· ||| ·) 0)], flags := 0, bad := none })
  | _, _ => none

/-- VTRN: the 64 × 64 transpose of a tile, of elements of the type. -/
def vtrnPlan (p : Pa) (t : Thr) (w : IWord) (s : State) : Option VPlan :=
  let f := vFields w
  match Operand.of f.d, Operand.of f.s1 with
  | some (.tile d), some (.tile a) =>
    if !vShape w [3] [3] [0] [0] || !veuFields f || f.mode ≠ 0 || f.imm ≠ 0 || f.msk ≠ 0 then none
    else some
      (let x := s.pa p
       VPlan.mk (vRegs f (vOps f)) [causeIf (countOf f (x.thr t) ≠ 4096) .illegal]
        { unit := .veu, cycles := 8, reads := [], dst := [], owes := [.tile d]
          wrs := (upFrom 0 4096).map fun k =>
            .tile (d.val * 4096 + k) (typeOut f.type (typeIn f.type (tileAt x a (k % 64 * 64 + k / 64))))
          flags := 0, bad := none })
  | _, _ => none

/-! ## Reductions (R169 to R172) -/

/-- A result with its flags. -/
abbrev RedOut := Word × Nat

/-- R171. -/
def intSum (ty : Nat) (sat : Bool) (l : List Word) : RedOut :=
  if l = [] then (0, flEmpty) else fitInt ty sat ((l.map (typeIn ty)).foldl (· + ·) 0)

/-- A modular sum reads all 64 bits of each lane (DESIGN CHOICE, log entry 75). -/
def modSum (q : Nat) (l : List Word) : RedOut :=
  if l = [] then (0, flEmpty) else (BitVec.ofNat 64 ((l.map fun v => v.toNat % q).foldl (· + ·) 0 % q), 0)

def intMax (ty : Nat) : List Word → RedOut
  | [] => (typeOut ty (typeMin ty), flEmpty)
  | l => (typeOut ty ((l.map (typeIn ty)).foldl max (typeMin ty)), 0)

def intMin (ty : Nat) : List Word → RedOut
  | [] => (typeOut ty (typeMax ty), flEmpty)
  | l => (typeOut ty ((l.map (typeIn ty)).foldl min (typeMax ty)), 0)

/-- The canonical NaN of FP32 (R172). -/
def nan32 : Word := 0x7FC00000

/-- A lane's low 32 bits as FP32. -/
def lane32 (v : Word) : FVal := fp32.decode (v.toNat % 2 ^ 32)

/-- The pattern of an FP32 value in a lane. -/
def out32 (v : FVal) : Word := BitVec.ofNat 64 (fp32.encode v)

/-- The flags of a rounded result. -/
def resFlags (r : FRes) : Nat := flagIf r.of flOf ||| flagIf r.nv flNv

/-- A running sum: each later input is added and rounded; a NaN stays. -/
def floatAcc (acc : FVal × Nat) (v : FVal) : FVal × Nat :=
  let r := fp32.add acc.1 v
  (r.v, acc.2 ||| resFlags r)

/-- R172: a float sum. NV comes only of a signalling input or of +inf and -inf. -/
def floatSum (l : List Word) : RedOut :=
  match l.map lane32 with
  | [] => (0, flEmpty)
  | x :: r =>
    let sum := r.foldl floatAcc (x, 0)
    let flags := sum.2 ||| flagIf ((x :: r).any FVal.signalling) flNv
    if (x :: r).any FVal.isNan || sum.1.isNan then (nan32, flags) else (out32 sum.1, flags)

def floatMax (l : List Word) : RedOut :=
  match l.map lane32 with
  | [] => (0xFF800000, flEmpty)
  | x :: r =>
    let nv := flagIf ((x :: r).any FVal.signalling) flNv
    if (x :: r).any FVal.isNan then (nan32, nv) else (out32 (r.foldl FVal.max x), nv)

/-- Table 5.15: the operator of a VRED. -/
def reduce (s : State) (f : VFields) (l : List Word) : RedOut :=
  match f.imm % 8 with
  | 0 => intSum f.type (satMode f) l
  | 1 => modSum (modQ s f.mi) l
  | 2 => intMax f.type l
  | 3 => intMin f.type l
  | 4 => floatSum l
  | _ => floatMax l

/-- The active element numbers of result `r` along an axis of a tile of `n` elements, in order. -/
def axisElements (mask : Word) (axis n r : Nat) : List Nat :=
  (if axis = 0 then (upFrom (r * 64) 64) else (upFrom 0 64).map fun i => i * 64 + r).filter fun k =>
    k < n && activeAt mask k

/-- How many results a reduction along an axis has. -/
def axisResults (axis n : Nat) : Nat := if axis = 0 then ceilDiv n 64 else min n 64

/-- Cycles of a reduction or dot (Table 5.17). -/
def redCycles (y : Thread) (f : VFields) (o : VOps) (n : Nat) (slow cells : Bool) : Nat :=
  let n2 := if halved y o then 2 * n else n
  let own := unitCycles n2 (if slow then 8 else if cells then 256 else 512) 1
  if idxOperands f = 0 then own else max own (unitCycles n 64 1)

/-- The kinds of a reduction: tiles along an axis, or a source of kinds 1 to 3 and a scalar destination; an FDOT of form 2 takes
two such sources (DESIGN CHOICE, log entry 77). -/
def redKinds (f : VFields) (w : IWord) (k2 : List Nat) : Bool :=
  if f.mode % 4 = 2 then vShape w [5] [1, 2, 3] (if k2 = [0] then [0] else [1, 2, 3]) [0] else vShape w [3] [3] k2 [0]

/-- R145: the fields of a VRED word that its operator uses: sat only for an integer sum, mi only for a modular sum, and type
for every operator but a modular sum, which takes no element type (DESIGN CHOICE, log entry 75). A float operator ignores
type. -/
def redFields (f : VFields) : Bool :=
  (f.mode < 4 || f.imm % 8 = 0) && (f.mi = 0 || f.imm % 8 = 1) && (f.type = 0 || f.imm % 8 ≠ 1)

/-- The form of a VRED word: operator 0 to 5, an axis, the row of the destination only along an axis; lazy is ignored. -/
def vredForm (w : IWord) : Bool :=
  let f := vFields w
  redKinds f w [0] && f.nl = 0 && f.mode < 8 && f.mode % 4 ≠ 3 && f.imm % 8 ≤ 5 && f.imm < 512
    && (f.mode % 4 ≠ 2 || f.imm < 8) && redFields f

/-- Results written to a row of a tile, and their flags. -/
def rowResults (d : Fin 8) (row : Nat) (l : List RedOut) : List Wr × Nat :=
  ((l.zip (upFrom 0 l.length)).map fun e => .tile (d.val * 4096 + (row * 64 + e.2)) e.1.1, orFlags (l.map (·.2)))

/-- The values that a reduction over all elements takes. -/
def allInputs (s : State) (p : Pa) (t : Thr) (f : VFields) (o : Operand) (n : Nat) : List (Word × Bool) :=
  let y := s.thr p t
  (activeElements y f 1 n).map fun le => o.get s p t ((y.ra f.xa.val).toNat) n 0 le.2

/-- The results of a VRED: its writes and flags. -/
def vredOut (s : State) (p : Pa) (t : Thr) (f : VFields) (n : Nat) : List Wr × Nat :=
  let x := s.pa p
  let y := x.thr t
  match Operand.of f.d, Operand.of f.s1 with
  | some (.tile d), some (.tile a) =>
    rowResults d (f.imm / 8 % 64) ((upFrom 0 (axisResults (f.mode % 4) n)).map fun r =>
      reduce s f ((axisElements (y.rm f.msk.val) (f.mode % 4) n r).map (tileAt x a)))
  | some (.scalar i), some o =>
    let l := allInputs s p t f o n
    let r := reduce s f (l.map (·.1))
    ([.s i r.1], r.2 ||| flagIf (l.any (·.2)) flClp)
  | _, _ => ([], 0)

/-- VRED. -/
def vredPlan (p : Pa) (t : Thr) (w : IWord) (s : State) : Option VPlan :=
  let f := vFields w
  if !vredForm w then none
  else
    let o := vOps f
    let modular := f.imm % 8 = 1
    some
      (let y := s.thr p t
       let n := countOf f y
       let out := vredOut s p t f n
       let tch := touches s p t f o 1 n
       VPlan.mk (vRegs f (vOps f))
        (countCause n :: (operandCauses p y 8 n 1 o.s1 ++ indexCauses p f y n
          ++ [if modular then entriesCause s f.mi 1 else none]))
        { unit := if modular then .cells else .veu
          cycles := redCycles y f o n (f.imm % 8 = 4 && f.mode % 4 = 2) modular
          reads := [o.s1.spm y n 8 1, indexRanges f y n], dst := [], owes := o.d.owes, wrs := out.1, flags := out.2
          bad := firstBad s tch, readBytes := (tch.map (·.2)).foldl (· + ·) 0
          gathered := if idxOperands f = 0 then 0 else (activeElements y f 1 n).length
          ops := if modular then (activeElements y f 1 n).length else 0 })

/-! ## Dot products (R173, R224, R225) -/

/-- Where a dot product stands: its sum, the OR of its flags, and whether a NaN came in. -/
structure DotAcc where
  acc : Option FVal
  flags : Nat
  nan : Bool
  deriving DecidableEq, Repr

/-- 2^128 - 2^103, from which a product counts as infinite. -/
def productTop : Nat := 2 ^ 128 - 2 ^ 103

/-- One product and its addition; the exact sum acc + p is rounded once. -/
def dotStep (d : DotAcc) (xy : FVal × FVal) : DotAcc :=
  let (x, y) := xy
  let prod := mulExact x y
  let bad := x.signalling || y.signalling || (!x.isNan && !y.isNan && prod.2)
  let big := match prod.1 with
    | .fin _ m e => !dyadLt m e productTop 0
    | _ => false
  let v := if big then (match prod.1 with
    | .fin s _ _ => .inf s
    | u => u) else prod.1
  let r : FRes := match d.acc with
    | none => fp32.into v
    | some a => fp32.add a v
  let ofSum := r.of
  let nvSum := match d.acc with
    | none => false
    | some a => r.nv && !a.isNan && !v.isNan
  { acc := some r.v, flags := d.flags ||| flagIf (big || ofSum) flOf ||| flagIf (bad || nvSum) flNv
    nan := d.nan || x.isNan || y.isNan }

/-- A dot product. -/
def dotOf (l : List (FVal × FVal)) : RedOut :=
  let d := l.foldl dotStep { acc := none, flags := 0, nan := false }
  match d.acc with
  | none => (0, flEmpty)
  | some a => (if d.nan || a.isNan then nan32 else out32 a, d.flags)

/-- The low bits of a lane as a value of a float format. -/
def laneVal (ty : Nat) (v : Word) : FVal := (fmtOf ty).decode (v.toNat % 2 ^ (fmtOf ty).width)

/-- The results of an FDOT. -/
def fdotOut (s : State) (p : Pa) (t : Thr) (f : VFields) (n : Nat) : List Wr × Nat :=
  let x := s.pa p
  let y := x.thr t
  match Operand.of f.d, Operand.of f.s1, Operand.of f.s2 with
  | some (.tile d), some (.tile a), some (.tile b) =>
    rowResults d (f.imm / 8 % 64) ((upFrom 0 (axisResults (f.mode % 4) n)).map fun r =>
      dotOf ((axisElements (y.rm f.msk.val) (f.mode % 4) n r).map fun k =>
        (laneVal f.type (tileAt x a k), laneVal f.type (tileAt x b k))))
  | some (.scalar i), some o1, some o2 =>
    let l := (allInputs s p t f o1 n).zip (allInputs s p t f o2 n)
    let r := dotOf (l.map fun e => (laneVal f.type e.1.1, laneVal f.type e.2.1))
    ([.s i r.1], r.2 ||| flagIf (l.any fun e => e.1.2 || e.2.2) flClp)
  | _, _, _ => ([], 0)

/-- The form of an FDOT word: the row of the destination as in a VRED, imm[2:0] zero. -/
def fdotForm (w : IWord) : Bool :=
  let f := vFields w
  redKinds f w [3] && veuFields f && f.mode < 3 && f.type ≤ 4 && f.imm % 8 = 0 && f.imm < 512 && (f.mode ≠ 2 || f.imm = 0)

/-- FDOT. -/
def fdotPlan (p : Pa) (t : Thr) (w : IWord) (s : State) : Option VPlan :=
  let f := vFields w
  if !fdotForm w then none
  else
    let o := vOps f
    some
      (let y := s.thr p t
       let n := countOf f y
       let out := fdotOut s p t f n
       let tch := touches s p t f o 1 n
       VPlan.mk (vRegs f (vOps f))
        (countCause n :: (operandCauses p y 8 n 1 o.s1 ++ operandCauses p y 8 n 1 o.s2 ++ indexCauses p f y n))
        { unit := .veu, cycles := redCycles y f o n (f.mode = 2) false
          reads := [o.s1.spm y n 8 1, o.s2.spm y n 8 1, indexRanges f y n], dst := [], owes := o.d.owes, wrs := out.1
          flags := out.2, bad := firstBad s tch, readBytes := (tch.map (·.2)).foldl (· + ·) 0
          gathered := if idxOperands f = 0 then 0 else (activeElements y f 1 n).length })

/-! ## The rows -/

/-- VMOV. -/
def execVmov (p : Pa) (t : Thr) (w : IWord) (s : State) : Host.Outcome State Fault Refusal :=
  .next (attemptOf 9 0x00 p t w (vRun p t w (vmovPlan p t w)) s)

/-- VADD. -/
def execVadd (p : Pa) (t : Thr) (w : IWord) (s : State) : Host.Outcome State Fault Refusal :=
  .next (attemptOf 9 0x01 p t w (vRun p t w (veuArith (· + ·) p t w)) s)

/-- VSUB. -/
def execVsub (p : Pa) (t : Thr) (w : IWord) (s : State) : Host.Outcome State Fault Refusal :=
  .next (attemptOf 9 0x02 p t w (vRun p t w (veuArith (· - ·) p t w)) s)

/-- VMUL. -/
def execVmul (p : Pa) (t : Thr) (w : IWord) (s : State) : Host.Outcome State Fault Refusal :=
  .next (attemptOf 9 0x03 p t w (vRun p t w (veuArith (· * ·) p t w)) s)

/-- VMULH. -/
def execVmulh (p : Pa) (t : Thr) (w : IWord) (s : State) : Host.Outcome State Fault Refusal :=
  .next (attemptOf 9 0x04 p t w (vRun p t w (veuPlan [1, 2, 3, 5] [1, 2, 3, 5] [0] (fun f => (f.mode = 0 || f.mode = 4) && f.imm = 0)
    (fun f a b _ => (highProduct f.type a b, 0)) p t w)) s)

/-- VMIN. -/
def execVmin (p : Pa) (t : Thr) (w : IWord) (s : State) : Host.Outcome State Fault Refusal :=
  .next (attemptOf 9 0x05 p t w (vRun p t w (veuTwo (fun ty a b => typeOut ty (min (typeIn ty a) (typeIn ty b))) p t w)) s)

/-- VMAX. -/
def execVmax (p : Pa) (t : Thr) (w : IWord) (s : State) : Host.Outcome State Fault Refusal :=
  .next (attemptOf 9 0x06 p t w (vRun p t w (veuTwo (fun ty a b => typeOut ty (max (typeIn ty a) (typeIn ty b))) p t w)) s)

/-- VAND. -/
def execVand (p : Pa) (t : Thr) (w : IWord) (s : State) : Host.Outcome State Fault Refusal :=
  .next (attemptOf 9 0x08 p t w (vRun p t w (veuTwo (fun ty a b => typeOut ty ((a &&& b).toNat : Nat)) p t w)) s)

/-- VOR. -/
def execVor (p : Pa) (t : Thr) (w : IWord) (s : State) : Host.Outcome State Fault Refusal :=
  .next (attemptOf 9 0x09 p t w (vRun p t w (veuTwo (fun ty a b => typeOut ty ((a ||| b).toNat : Nat)) p t w)) s)

/-- VXOR. -/
def execVxor (p : Pa) (t : Thr) (w : IWord) (s : State) : Host.Outcome State Fault Refusal :=
  .next (attemptOf 9 0x0A p t w (vRun p t w (veuTwo (fun ty a b => typeOut ty ((a ^^^ b).toNat : Nat)) p t w)) s)

/-- VANDN. -/
def execVandn (p : Pa) (t : Thr) (w : IWord) (s : State) : Host.Outcome State Fault Refusal :=
  .next (attemptOf 9 0x0B p t w (vRun p t w (veuTwo (fun ty a b => typeOut ty ((a &&& ~~~b).toNat : Nat)) p t w)) s)

/-- VSHL. -/
def execVshl (p : Pa) (t : Thr) (w : IWord) (s : State) : Host.Outcome State Fault Refusal :=
  .next (attemptOf 9 0x10 p t w (vRun p t w (shiftPlan true (fun f a k => shiftLeft f.type (satMode f) a k) p t w)) s)

/-- VSHR. -/
def execVshr (p : Pa) (t : Thr) (w : IWord) (s : State) : Host.Outcome State Fault Refusal :=
  .next (attemptOf 9 0x11 p t w (vRun p t w (shiftPlan false (fun f a k => (shiftRight f.type a k, 0)) p t w)) s)

/-- VSRA. -/
def execVsra (p : Pa) (t : Thr) (w : IWord) (s : State) : Host.Outcome State Fault Refusal :=
  .next (attemptOf 9 0x12 p t w (vRun p t w (shiftPlan false (fun f a k => (shiftArith f.type a k, 0)) p t w)) s)

/-- VCMPEQ. -/
def execVcmpeq (p : Pa) (t : Thr) (w : IWord) (s : State) : Host.Outcome State Fault Refusal :=
  .next (attemptOf 9 0x18 p t w (vRun p t w (veuTwo (fun ty a b => boolWord (typeIn ty a = typeIn ty b)) p t w)) s)

/-- VCMPLT. -/
def execVcmplt (p : Pa) (t : Thr) (w : IWord) (s : State) : Host.Outcome State Fault Refusal :=
  .next (attemptOf 9 0x19 p t w (vRun p t w (veuTwo (fun ty a b => boolWord (typeIn ty a < typeIn ty b)) p t w)) s)

/-- VSEL. -/
def execVsel (p : Pa) (t : Thr) (w : IWord) (s : State) : Host.Outcome State Fault Refusal :=
  .next (attemptOf 9 0x1A p t w (vRun p t w (vselPlan p t w)) s)

/-- VMSKR. -/
def execVmskr (p : Pa) (t : Thr) (w : IWord) (s : State) : Host.Outcome State Fault Refusal :=
  .next (attemptOf 9 0x1B p t w (vRun p t w (vmskrPlan p t w)) s)

/-- VTRN. -/
def execVtrn (p : Pa) (t : Thr) (w : IWord) (s : State) : Host.Outcome State Fault Refusal :=
  .next (attemptOf 9 0x20 p t w (vRun p t w (vtrnPlan p t w)) s)

/-- VRED. -/
def execVred (p : Pa) (t : Thr) (w : IWord) (s : State) : Host.Outcome State Fault Refusal :=
  .next (attemptOf 9 0x28 p t w (vRun p t w (vredPlan p t w)) s)

/-- FDOT. -/
def execFdot (p : Pa) (t : Thr) (w : IWord) (s : State) : Host.Outcome State Fault Refusal :=
  .next (attemptOf 9 0x30 p t w (vRun p t w (fdotPlan p t w)) s)

end Sys2Proof.Machine
end

