-- ==== Sys2Proof/Machine/Stu.lean ====
section
/-! DEFINITION. The Slot Transform Unit (group 10, chapter 7): the FFT (R87, R220), format conversion (R205 to R213, R221,
R222), quantisation (R214 to R216) and statistics (R217 to R219). -/

namespace Sys2Proof.Machine

/-! ## Numbers in memory (R207, R208) -/

/-- Bytes per element of a float format. -/
def fBytes (ty : Nat) : Nat := (fmtOf ty).width / 8

/-- The bytes of the block of element `e`, from a base. -/
def blockAt (base ty e : Nat) : Nat := base + e / 64 * blockBytes ty

/-- Element `e` of an operand in a format, and whether its block's header is malformed. -/
def stuElem (s : State) (p : Pa) (t : Thr) (o : Operand) (ty e : Nat) : FVal × Bool :=
  match o with
  | .vec r =>
    let base := ((s.thr p t).ra r.val).toNat
    if ty < 6 then ((fmtOf ty).decode (s.num (base + e * fBytes ty) (fBytes ty)), false)
    else
      let b := blockAt base ty e
      let h := s.word b
      let i := e % 64
      let code := if ty = 6 then s.num (b + 8 + i) 1 else s.num (b + 8 + i / 2) 1 / 2 ^ (i % 2 * 4) % 16
      (codeValue ty h code, headerBad ty h)
  | .tile i => ((fmtOf ty).decode ((tileAt (s.pa p) i e).toNat % 2 ^ (fmtOf ty).width), false)
  | _ => (.fin false 0 0, false)

/-- The SPM bytes of `n` elements of an operand in a format. -/
def stuRange (y : Thread) (o : Operand) (ty n : Nat) : List (Nat × Nat) :=
  match o with
  | .vec r => if n = 0 then [] else [((y.ra r.val).toNat, packedBytes ty n)]
  | _ => []

/-- The SPM bytes that element `e` is read from. -/
def stuTouch (y : Thread) (o : Operand) (ty e : Nat) : List (Nat × Nat) :=
  match o with
  | .vec r =>
    let base := (y.ra r.val).toNat
    if ty < 6 then [(base + e * fBytes ty, fBytes ty)]
    else [(blockAt base ty e, 8), (blockAt base ty e + 8 + (if ty = 6 then e % 64 else e % 64 / 2), 1)]
  | _ => []

/-- The checks of an operand of `n` elements in a format; a tile holds no block format (R207). -/
def stuCauses (p : Pa) (y : Thread) (o : Operand) (ty n : Nat) : List (Option Cause) :=
  match o with
  | .vec r => spmCauses p y r 8 (stuRange y o ty n)
  | .tile _ => [causeIf (6 ≤ ty) .illegal, causeIf (4096 < n) .illegal]
  | _ => []

/-- The write of a float pattern at element `e`. -/
def stuPut (y : Thread) (o : Operand) (ty e v : Nat) : List Wr :=
  match o with
  | .vec r => [.mem ((y.ra r.val).toNat + e * fBytes ty) (leBytes (fBytes ty) v)]
  | .tile i => [.tile (i.val * 4096 + e) (BitVec.ofNat 64 v)]
  | _ => []

/-- Point `i` of a vector of complex FP64 points. -/
def pointAt (s : State) (base i : Nat) : CPoint :=
  (fp64.decode (s.num (base + i * 16) 8), fp64.decode (s.num (base + i * 16 + 8) 8))

def pointBytes (c : CPoint) : List Byte := leBytes 8 (fp64.encode c.1) ++ leBytes 8 (fp64.encode c.2)

/-! ## The FFT (R87, R220) -/

/-- One butterfly: a + t and a - t, t = w × b. -/
def butterfly (w a b : CPoint) : (CPoint × CPoint) × Nat :=
  let m := cmul w b
  let r1 := fp64.add a.1 m.1.1
  let i1 := fp64.add a.2 m.1.2
  let r2 := fp64.sub a.1 m.1.1
  let i2 := fp64.sub a.2 m.1.2
  (((r1.v, i1.v), (r2.v, i2.v)),
   flagIf m.2.1 flOf ||| flagIf m.2.2 flNv ||| resFlags r1 ||| resFlags i1 ||| resFlags r2 ||| resFlags i2)

/-- The twiddle of butterfly `j` of a span of 2m: e^(-2πi j / 2m), conjugated for the inverse transform. -/
def twiddle (inverse : Bool) (j m : Nat) : CPoint :=
  let r := unitRoot j (2 * m)
  if inverse then r else conj r

/-- The transform of 2^lg points from bit-reversed input to natural output: the halves first, then one stage of span
2^lg. The last stages' butterflies are independent, so their order does not show. -/
def fft (inverse : Bool) : Nat → List CPoint → List CPoint × Nat
  | 0, l => (l, 0)
  | lg + 1, l =>
    let m := 2 ^ lg
    let a := fft inverse lg (l.take m)
    let b := fft inverse lg (l.drop m)
    let bs := ((a.1.zip b.1).zip (upFrom 0 m)).map fun x => butterfly (twiddle inverse x.2 m) x.1.1 x.1.2
    (bs.map (·.1.1) ++ bs.map (·.1.2), a.2 ||| b.2 ||| orFlags (bs.map (·.2)))

/-- log2 of a point count from 2^11 to 2^16. -/
def pointLog (n : Nat) : Option Nat := (upFrom 11 6).find? fun lg => 2 ^ lg = n

/-- Fields that no operation of group 10 uses but where it says so. -/
def stuFields (f : VFields) : Bool := !f.lazy && f.nl = 0

/-- Cycles of the STU's element work (Table 5.17). -/
def stuCycles (y : Thread) (o : VOps) (work : Nat) : Nat := unitCycles (if halved y o then 2 * work else work) 64 1

/-- SFFT and SIFFT. -/
def sfftPlan (inverse : Bool) (p : Pa) (t : Thr) (w : IWord) (s : State) : Option VPlan :=
  let f := vFields w
  match Operand.of f.d, Operand.of f.s1 with
  | some (.vec rd), some (.vec ra) =>
    if !vShape w [1] [1] [0] [0] || !stuFields f || f.mi ≠ 0 || f.msk ≠ 0 || f.mode ≠ 0 || f.type ≠ 0 || f.imm ≠ 0
    then none
    else
      let o := vOps f
      some
        (let y := s.thr p t
         let n := countOf f y
         let lg := (pointLog n).getD 11
         let src := [((y.ra ra.val).toNat, n * 16)]
         let dst := [((y.ra rd.val).toNat, n * 16)]
         let out := fft inverse lg ((upFrom 0 n).map (pointAt s (y.ra ra.val).toNat))
         let work := n / 2 * lg
         VPlan.mk (vRegs f (vOps f))
          (causeIf (pointLog n).isNone .illegal :: (spmCauses p y rd 8 dst ++ spmCauses p y ra 8 src))
          { unit := .stu, cycles := unitCycles (if halved y o then 2 * work else work) 32 1, reads := [src], dst := dst
            owes := [], wrs := [.mem (y.ra rd.val).toNat (out.1.flatMap pointBytes)], flags := out.2
            bad := firstBad s src, readBytes := n * 16 })
  | _, _ => none

/-! ## Conversion (R211 to R213, R221, R222) -/

/-- P and N of a word. -/
def scvtLog (f : VFields) : Nat := f.imm % 8 + 11
def scvtP (f : VFields) : Nat := 2 ^ scvtLog f
/-- The scale s, Q8.4. -/
def scvtScale (f : VFields) : Nat := f.imm / 8 % 4096
def scvtComplex (f : VFields) : Bool := f.imm.testBit 15
/-- The format of the second position: S1 of CONVERT and SQNT, S2 of SSTAT. -/
def format2 (f : VFields) : Nat := f.imm / 2 ^ 16 % 8
def scvtSat (f : VFields) : Bool := f.imm.testBit 19

/-- imm with only the fields of `bits` in use. -/
def immWithin (f : VFields) (bits : Nat) : Bool := f.imm &&& bits = f.imm

/-- u_j: 5^j mod 2N is 4 u_j + 1. -/
def slotAt (lgP j : Nat) : Nat := (powMod 32 5 j (2 ^ (lgP + 2)) - 1) / 4

/-- Elements of `n` slots. -/
def slotElems (f : VFields) (n : Nat) : Nat := if scvtComplex f then 2 * n else n

/-- A value widened to FP64, and its flags. -/
def widen (v : FVal × Bool) : FVal × Nat :=
  let r := fp64.convert false v.1
  (fp64.decode r.1, r.2 ||| flagIf v.2 flNv)

/-- Slot j of SLOTIN. -/
def slotIn (s : State) (p : Pa) (t : Thr) (o : Operand) (f : VFields) (j : Nat) : CPoint × Nat :=
  if scvtComplex f then
    let a := widen (stuElem s p t o f.type (2 * j))
    let b := widen (stuElem s p t o f.type (2 * j + 1))
    ((a.1, b.1), a.2 ||| b.2)
  else
    let a := widen (stuElem s p t o f.type j)
    ((a.1, .fin false 0 0), a.2)

/-- The form of an SCVT word of a mode: kinds, the used bits of imm, and what else is zero. -/
def scvtForm (w : IWord) (mode : Nat) (dk k1 : List Nat) (bits : Nat) (typed : Bool) : Bool :=
  let f := vFields w
  vShape w dk k1 [0] [0] && stuFields f && f.mode = mode && immWithin f bits && (typed || f.type = 0)
    && (mode = 4 || f.msk = 0) && (mode = 2 || f.mi = 0) && (mode = 4 || f.imm % 8 ≤ 5)

/-- SLOTIN: every slot n to P - 1 is +0.0. -/
def slotinPlan (p : Pa) (t : Thr) (w : IWord) (s : State) : Option VPlan :=
  let f := vFields w
  let o := vOps f
  if !scvtForm w 0 [1] [1, 3] 0x8007 true then none
  else some
    (let y := s.thr p t
     let n := countOf f y
     let lg := scvtLog f
     let slots := (upFrom 0 n).map fun j => (brv lg (slotAt lg j), slotIn s p t o.s1 f j)
     let points := slots.foldl (fun m e => sput (fun _ => []) m e.1 (pointBytes e.2.1)) ([] : SMap (List Byte))
     let base := match o.d.base? with
       | some r => (y.ra r.val).toNat
       | none => 0
     let dst := [(base, scvtP f * 16)]
     let src := stuRange y o.s1 f.type (slotElems f n)
     VPlan.mk (vRegs f (vOps f))
      (causeIf (n = 0 || scvtP f < n) .illegal :: (stuCauses p y o.d 5 (2 * scvtP f)
        ++ stuCauses p y o.s1 f.type (slotElems f n)))
      { unit := .stu, cycles := stuCycles y o (scvtP f), reads := [src], dst := dst, owes := []
        wrs := [.mem base ((upFrom 0 (scvtP f)).flatMap (sget (fun _ => List.replicate 16 0) points))]
        flags := orFlags (slots.map (·.2.2)), bad := firstBad s src
        readBytes := (src.map (·.2)).foldl (· + ·) 0 })

/-- Integer parts of 2^(160 + r/16). -/
def root16 : Nat → Nat
  | 1 => 1526207842839400403315841709377384629400797186227
  | 2 => 1593778836812284633020451757027903673889016815607
  | 3 => 1664341454270728431050564533811007358441330402960
  | 4 => 1738028145702036203164997854722823562970811282486
  | 5 => 1814977225677569675322206271209634287351664654372
  | 6 => 1895333132477929583540990894561792503264716185945
  | 7 => 1979246699212726170575889846745500372508894302848
  | 8 => 2066875436943847413332748968013809022504194195829
  | 9 => 2158383830343665227923219283017857539110257203065
  | 10 => 2253943646443148769121293922658475076028999870259
  | 11 => 2353734257049424522914501277573123047842714272279
  | 12 => 2457942975437981305370337047535918110785069807082
  | 13 => 2566765407951512690628727295566906023758242662966
  | 14 => 2680405821165370090281992003848247055041873402304
  | 15 => 2799077525308819217254102165495562477383020840464
  | _ => 2 ^ 160

/-- The correctly rounded binary64 value of 2^(k/16). -/
def pow2Sixteenth (k : Int) : FVal := (fp64.fit false (root16 (k % 16).toNat) 1 (k / 16 - 160)).v

/-- ζ(t) = e^(iπ t / N). -/
def zeta (lgP t : Nat) : CPoint := unitRoot t (2 ^ (lgP + 2))

/-- R222: the biased word of an integer value. -/
def biased (v : FVal) : Word × Nat :=
  match v with
  | .nan _ => (mask 63 1, flNv)
  | .inf neg => (if neg then 1 else BitVec.allOnes 64, flSat)
  | .fin neg m e =>
    let i := rintDyad neg m e
    if 2 ^ 63 ≤ i.natAbs then (if i < 0 then 1 else BitVec.allOnes 64, flSat)
    else (wordOfInt i + mask 63 1, 0)

/-- A coefficient of COEFOUT. -/
def coefOut (v c : FVal) : Word × Nat :=
  let r := fp64.mul v c
  let b := biased r.v
  (b.1, b.2 ||| resFlags r)

/-- COEFOUT. -/
def coefoutPlan (p : Pa) (t : Thr) (w : IWord) (s : State) : Option VPlan :=
  let f := vFields w
  match Operand.of f.d, Operand.of f.s1 with
  | some (.vec rd), some (.vec ra) =>
    if !scvtForm w 1 [1] [1] 0x7FFF false then none
    else some
      (let y := s.thr p t
       let n := countOf f y
       let lg := scvtLog f
       let c := pow2Sixteenth ((scvtScale f : Int) + 16 - 16 * (lg + 1))
       let prods := (upFrom 0 (scvtP f)).map fun i => cmul (pointAt s (y.ra ra.val).toNat i) (conj (zeta lg i))
       let re := prods.map fun m => coefOut m.1.1 c
       let im := prods.map fun m => coefOut m.1.2 c
       let src := [((y.ra ra.val).toNat, scvtP f * 16)]
       let dst := [((y.ra rd.val).toNat, scvtP f * 16)]
       VPlan.mk (vRegs f (vOps f))
        (causeIf (n ≠ 2 * scvtP f) .illegal :: (spmCauses p y rd 8 dst ++ spmCauses p y ra 8 src))
        { unit := .stu, cycles := stuCycles y (vOps f) (2 * scvtP f), reads := [src], dst := dst, owes := []
          wrs := [.mem (y.ra rd.val).toNat (wordBytes ((re ++ im).map (·.1)))]
          flags := orFlags ((re ++ im).map (·.2)) ||| orFlags (prods.map fun m => flagIf m.2.1 flOf ||| flagIf m.2.2 flNv)
          bad := firstBad s src, readBytes := scvtP f * 16 })
  | _, _ => none

/-- A residue, centred and rounded to binary64 (R221). -/
def centred (q r : Nat) : FVal :=
  let x := r % q
  if (q - 1) / 2 < x then (fp64.fit true (q - x) 1 0).v else (fp64.fit false x 1 0).v

/-- A point of COEFIN with its flags. -/
def coefIn (q lg : Nat) (c : FVal) (i a b : Nat) : CPoint × Nat :=
  let m := cmul (centred q a, centred q b) (zeta lg i)
  let re := fp64.mul m.1.1 c
  let im := fp64.mul m.1.2 c
  ((re.v, im.v), flagIf m.2.1 flOf ||| flagIf m.2.2 flNv ||| resFlags re ||| resFlags im)

/-- COEFIN. -/
def coefinPlan (p : Pa) (t : Thr) (w : IWord) (s : State) : Option VPlan :=
  let f := vFields w
  match Operand.of f.d, Operand.of f.s1 with
  | some (.vec rd), some (.vec ra) =>
    if !scvtForm w 2 [1] [1] 0x7FFF false then none
    else some
      (let y := s.thr p t
       let n := countOf f y
       let lg := scvtLog f
       let q := modQ s f.mi
       let c := pow2Sixteenth (-(scvtScale f : Int))
       let base := (y.ra ra.val).toNat
       let pts := (upFrom 0 (scvtP f)).map fun i =>
         coefIn q lg c i (s.word (base + i * 8)).toNat (s.word (base + (i + scvtP f) * 8)).toNat
       let src := [(base, scvtP f * 16)]
       let dst := [((y.ra rd.val).toNat, scvtP f * 16)]
       VPlan.mk (vRegs f (vOps f))
        (causeIf (n ≠ 2 * scvtP f || !entryFits s f.mi (lg + 1)) .illegal
          :: (spmCauses p y rd 8 dst ++ spmCauses p y ra 8 src))
        { unit := .stu, cycles := stuCycles y (vOps f) (2 * scvtP f), reads := [src], dst := dst, owes := []
          wrs := (pts.zip (upFrom 0 (scvtP f))).map fun e =>
            .mem ((y.ra rd.val).toNat + brv lg e.2 * 16) (pointBytes e.1.1)
          flags := orFlags (pts.map (·.2)), bad := firstBad s src, readBytes := scvtP f * 16 })
  | _, _ => none

/-- Slot j of SLOTOUT: the writes of its elements, and flags. -/
def slotOut (s : State) (y : Thread) (o : Operand) (f : VFields) (base j : Nat) : List Wr × Nat :=
  let c := pointAt s base (slotAt (scvtLog f) j)
  let a := (fmtOf f.type).convert (scvtSat f) c.1
  if scvtComplex f then
    let b := (fmtOf f.type).convert (scvtSat f) c.2
    (stuPut y o f.type (2 * j) a.1 ++ stuPut y o f.type (2 * j + 1) b.1, a.2 ||| b.2)
  else (stuPut y o f.type j a.1, a.2)

/-- SLOTOUT. -/
def slotoutPlan (p : Pa) (t : Thr) (w : IWord) (s : State) : Option VPlan :=
  let f := vFields w
  let o := vOps f
  match Operand.of f.s1 with
  | some (.vec ra) =>
    if !scvtForm w 3 [1, 3] [1] 0x88007 true || 6 ≤ f.type then none
    else some
      (let y := s.thr p t
       let n := countOf f y
       let base := (y.ra ra.val).toNat
       let outs := (upFrom 0 n).map (slotOut s y o.d f base)
       let src := [(base, scvtP f * 16)]
       VPlan.mk (vRegs f (vOps f))
        (causeIf (n = 0 || scvtP f < n) .illegal :: (stuCauses p y o.d f.type (slotElems f n) ++ spmCauses p y ra 8 src))
        { unit := .stu, cycles := stuCycles y o n, reads := [src], dst := stuRange y o.d f.type (slotElems f n)
          owes := o.d.owes, wrs := outs.flatMap (·.1), flags := orFlags (outs.map (·.2)), bad := firstBad s src
          readBytes := scvtP f * 16 })
  | _ => none

/-- CONVERT. -/
def convertPlan (p : Pa) (t : Thr) (w : IWord) (s : State) : Option VPlan :=
  let f := vFields w
  let o := vOps f
  if !scvtForm w 4 [1, 3] [1, 3] 0xF0000 true || 6 ≤ f.type then none
  else some
    (let y := s.thr p t
     let n := countOf f y
     let act := (activeElements y f 1 n).map (·.2)
     let outs := act.map fun e =>
       let v := stuElem s p t o.s1 (format2 f) e
       let r := (fmtOf f.type).convert (scvtSat f) v.1
       (stuPut y o.d f.type e r.1, r.2 ||| flagIf v.2 flNv)
     let tch := act.flatMap (stuTouch y o.s1 (format2 f))
     VPlan.mk (vRegs f (vOps f))
      (countCause n :: (stuCauses p y o.d f.type n ++ stuCauses p y o.s1 (format2 f) n))
      { unit := .stu, cycles := stuCycles y o n, reads := [stuRange y o.s1 (format2 f) n]
        dst := stuRange y o.d f.type n, owes := o.d.owes, wrs := outs.flatMap (·.1), flags := orFlags (outs.map (·.2))
        bad := firstBad s tch, readBytes := (tch.map (·.2)).foldl (· + ·) 0 })

/-! ## Quantisation (R214 to R216) -/

/-- qmax. -/
def qMax (ty : Nat) (asym : Bool) : Nat := if ty = 6 then (if asym then 255 else 127) else if asym then 15 else 7

/-- a / b rounded to binary64, for finite a and positive finite or infinite b. -/
def divRound (a b : FVal) : FVal :=
  match a, b with
  | .fin s m e, .fin _ n g => (fp64.fit s m n (e - g)).v
  | .fin s _ _, .inf _ => .fin s 0 0
  | _, _ => .nan false

/-- The largest and smallest of values and zero. -/
def maxWithZero (l : List FVal) : FVal := l.foldl FVal.max (.fin false 0 0)
def minWithZero (l : List FVal) : FVal := (maxWithZero (l.map FVal.neg)).neg

/-- The integer nearest to a value, an infinity standing beyond every code. -/
def rintVal (v : FVal) : Int :=
  match v with
  | .fin s m e => rintDyad s m e
  | .inf s => if s then -(2 ^ 80) else 2 ^ 80
  | .nan _ => 0

def clampInt (lo hi i : Int) : Int := max lo (min hi i)

/-- A block's scale as an FP32 value, and its zero point. -/
def blockScale (ty : Nat) (asym : Bool) (xs : List FVal) : FVal × Nat :=
  let qm : FVal := .fin false (qMax ty asym) 0
  if asym then
    let lo := minWithZero xs
    let span := (fp64.sub (maxWithZero xs) lo).v
    let scale := (fp32.into (match span with
      | .inf s => .inf s
      | v => divRound v qm)).v
    match scale with
    | .fin _ 0 _ => (scale, 0)
    | _ => (scale, (clampInt 0 (qMax ty asym) (rintVal (divRound lo.neg scale))).toNat)
  else ((fp32.into (divRound (maxWithZero (xs.map FVal.abs)) qm)).v, 0)

/-- One code, and its flags, under a scale and zero point. -/
def quantise (ty : Nat) (asym streamed : Bool) (scale : FVal) (zp : Nat) (x : FVal) : Int × Nat :=
  let zero : Int := if asym then zp else 0
  let lo : Int := if asym then 0 else -(qMax ty asym : Int)
  let hi : Int := qMax ty asym
  match x, scale with
  | .nan sg, _ => (zero, flagIf sg flNv)
  | .inf _, .fin _ 0 _ => (zero, flSat)
  | .inf neg, _ => (if neg then lo else hi, flSat)
  | _, .fin _ 0 _ => (zero, 0)
  | v, _ =>
    let q := rintVal (divRound v scale) + zero
    (clampInt lo hi q, flagIf (streamed && (q < lo || hi < q)) flSat)

/-- The header of a block. -/
def headerOf (asym : Bool) (scale : FVal) (zp : Nat) : Word :=
  BitVec.ofNat 64 (fp32.encode scale + zp % 256 * 2 ^ 32 + if asym then 2 ^ 40 else 0)

/-- The packed codes of a block; an odd INT4 tail keeps the high nibble that its last byte has. -/
def packCodes (ty : Nat) (old : Byte) : List Int → List Byte
  | [] => []
  | [c] => if ty = 6 then [BitVec.ofInt 8 c] else [BitVec.ofNat 8 ((c % 16).toNat + old.toNat / 16 * 16)]
  | c :: d :: r =>
    if ty = 6 then BitVec.ofInt 8 c :: packCodes ty old (d :: r)
    else BitVec.ofNat 8 ((c % 16).toNat + 16 * (d % 16).toNat) :: packCodes ty old r

/-- One block: its header, its codes and its flags. -/
def quantBlock (ty : Nat) (asym : Bool) (stream : Option Word) (xs : List FVal) : Word × List Int × Nat :=
  let finite := xs.filter fun x => match x with
    | .fin _ _ _ => true
    | _ => false
  match stream with
  | some h =>
    if headerBad ty h || bit h 40 != asym then (h, xs.map fun _ => 0, flNv)
    else
      let scale := fp32.decode (field h 0 32).toNat
      let codes := xs.map (quantise ty asym true scale (headerZp h))
      (h, codes.map (·.1), orFlags (codes.map (·.2)))
  | none =>
    let sz := blockScale ty asym finite
    let codes := xs.map (quantise ty asym false sz.1 sz.2)
    let of := match sz.1 with
      | .inf _ => flOf
      | _ => 0
    (headerOf asym sz.1 sz.2, codes.map (·.1), of ||| orFlags (codes.map (·.2)))

/-- SQNT. -/
def sqntPlan (p : Pa) (t : Thr) (w : IWord) (s : State) : Option VPlan :=
  let f := vFields w
  let o := vOps f
  let streamed := f.mode.testBit 1
  match Operand.of f.d with
  | some (.vec rd) =>
    if !vShape w [1] [1, 3] (if streamed then [1] else [0]) [0] || !stuFields f || f.mi ≠ 0 || f.msk ≠ 0 || 4 ≤ f.mode
        || f.type < 6 || !immWithin f 0x70000 || 6 ≤ format2 f then none
    else some
      (let y := s.thr p t
       let n := countOf f y
       let asym := f.mode.testBit 0
       let src := stuRange y o.s1 (format2 f) n
       let blocks := ceilDiv n 64
       let hdrs := match o.s2.base? with
         | some r => if n = 0 then [] else [((y.ra r.val).toNat, blocks * 8)]
         | none => []
       let base := (y.ra rd.val).toNat
       let outs := (upFrom 0 blocks).map fun b =>
         let xs := (upFrom (b * 64) (min 64 (n - b * 64))).map fun e => (stuElem s p t o.s1 (format2 f) e).1
         let h := match o.s2.base? with
           | some r => some (s.word ((y.ra r.val).toNat + b * 8))
           | none => none
         let q := quantBlock f.type asym h xs
         let at_ := base + b * blockBytes f.type
         let last := sget noByte s.mem.bytes (at_ + 8 + (xs.length - 1) / 2)
         (Wr.mem at_ (leBytes 8 q.1.toNat ++ packCodes f.type last q.2.1), q.2.2)
       VPlan.mk (vRegs f (vOps f))
        (countCause n :: (stuCauses p y o.d f.type n ++ stuCauses p y o.s1 (format2 f) n
          ++ (match o.s2.base? with
            | some r => spmCauses p y r 8 hdrs
            | none => [])))
        { unit := .stu, cycles := stuCycles y o n, reads := [src, hdrs], dst := stuRange y o.d f.type n, owes := []
          wrs := outs.map (·.1), flags := orFlags (outs.map (·.2)), bad := firstBad s (src ++ hdrs)
          readBytes := ((src ++ hdrs).map (·.2)).foldl (· + ·) 0 })
  | _ => none

/-! ## Statistics (R217 to R219) -/

/-- A statistics record (Table 7.7): its fields as they are stored. -/
structure Stats where
  count : Nat
  sse : Nat
  min : Nat
  max : Nat
  absmax : Nat
  nans : Nat
  deriving DecidableEq, Repr

def statsAt (s : State) (a : Nat) : Stats where
  count := s.num a 8
  sse := s.num (a + 8) 8
  min := s.num (a + 16) 4
  max := s.num (a + 20) 4
  absmax := s.num (a + 24) 4
  nans := s.num (a + 28) 4

def Stats.bytes (r : Stats) : List Byte :=
  leBytes 8 r.count ++ leBytes 8 r.sse ++ leBytes 4 r.min ++ leBytes 4 r.max ++ leBytes 4 r.absmax ++ leBytes 4 r.nans

/-- The smaller of two values. -/
def FVal.min (a b : FVal) : FVal := (a.neg.max b.neg).neg

/-- A field of the record and a value: a NaN that the record holds stays as it is. -/
def statField (f : FVal → FVal → FVal) (r : Nat) (b : FVal) : Nat :=
  let v := fp32.decode r
  if v.isNan then r else fp32.encode (f v b)

/-- The new sum of squared errors, and its flags. -/
def statSse (sse x y : FVal) : FVal × Nat :=
  let d : FVal := match x, y with
    | .inf s, .inf u => if s = u then .fin false 0 0 else .inf s
    | _, _ => (fp64.sub x y).v
  let r := fp64.add sse (fp64.mul d d).v
  let first := match sse, r.v with
    | .inf _, _ => false
    | _, .inf false => true
    | _, _ => false
  (r.v, flagIf first flOf ||| flagIf y.signalling flNv)

/-- One element; `y` is the reconstruction where S2 is present. -/
def statStep (r : Stats) (x : FVal) (y : Option FVal) : Stats × Nat :=
  match x with
  | .nan sg => ({ r with nans := min (r.nans + 1) 0xFFFFFFFF }, flagIf sg flNv)
  | _ =>
    let x32 := (fp32.into x).v
    let r1 := { r with count := (r.count + 1) % 2 ^ 64, min := statField FVal.min r.min x32
                       max := statField FVal.max r.max x32, absmax := statField FVal.max r.absmax x32.abs }
    match y with
    | none => (r1, 0)
    | some v => let e := statSse (fp64.decode r.sse) x v; ({ r1 with sse := fp64.encode e.1 }, e.2)

/-- SSTAT. -/
def sstatPlan (p : Pa) (t : Thr) (w : IWord) (s : State) : Option VPlan :=
  let f := vFields w
  let o := vOps f
  match Operand.of f.d with
  | some (.vec rd) =>
    if !vShape w [1] [1, 3] [0, 1, 3] [0] || !stuFields f || f.mi ≠ 0 || f.mode ≠ 0 || !immWithin f 0x70000
        || (o.s2 = .none && f.imm ≠ 0) then none
    else some
      (let y := s.thr p t
       let n := countOf f y
       let base := (y.ra rd.val).toNat
       let rec_ := [(base, 32)]
       let src1 := stuRange y o.s1 f.type n
       let src2 := stuRange y o.s2 (format2 f) n
       let act := (activeElements y f 1 n).map (·.2)
       let out := act.foldl (fun (a : Stats × Nat) e =>
         let x := stuElem s p t o.s1 f.type e
         let v := stuElem s p t o.s2 (format2 f) e
         let r := statStep a.1 x.1 (if o.s2 = .none then none else some v.1)
         (r.1, a.2 ||| r.2 ||| flagIf (x.2 || v.2) flNv)) (statsAt s base, 0)
       let tch := act.flatMap (fun e => stuTouch y o.s1 f.type e ++ stuTouch y o.s2 (format2 f) e)
         ++ (if act = [] then [] else rec_)
       VPlan.mk (vRegs f (vOps f))
        (countCause n :: causeIf ((src1 ++ src2).any fun g => overlap g.1 g.2 base 32) .overlap
          :: (spmCauses p y rd 8 rec_ ++ stuCauses p y o.s1 f.type n ++ stuCauses p y o.s2 (format2 f) n))
        { unit := .stu, cycles := stuCycles y o n, reads := [src1, src2], dst := rec_, owes := []
          wrs := if act = [] then [] else [.mem base out.1.bytes]
          flags := if act = [] then flEmpty else out.2, bad := firstBad s tch
          readBytes := (tch.map (·.2)).foldl (· + ·) 0, record := some (base - spmAddr p 0) })
  | _ => none

/-! ## The rows -/

/-- SFFT. -/
def execSfft (p : Pa) (t : Thr) (w : IWord) (s : State) : Host.Outcome State Fault Refusal :=
  .next (attemptOf 10 0x00 p t w (vRun p t w (sfftPlan false p t w)) s)

/-- SIFFT. -/
def execSifft (p : Pa) (t : Thr) (w : IWord) (s : State) : Host.Outcome State Fault Refusal :=
  .next (attemptOf 10 0x01 p t w (vRun p t w (sfftPlan true p t w)) s)

/-- SLOTIN (SCVT mode 0). -/
def execSlotin (p : Pa) (t : Thr) (w : IWord) (s : State) : Host.Outcome State Fault Refusal :=
  .next (if (vFields w).mode = 0 then attemptOf 10 0x08 p t w (vRun p t w (slotinPlan p t w)) s else s)

/-- COEFOUT (SCVT mode 1). -/
def execCoefout (p : Pa) (t : Thr) (w : IWord) (s : State) : Host.Outcome State Fault Refusal :=
  .next (if (vFields w).mode = 1 then attemptOf 10 0x08 p t w (vRun p t w (coefoutPlan p t w)) s else s)

/-- COEFIN (SCVT mode 2). -/
def execCoefin (p : Pa) (t : Thr) (w : IWord) (s : State) : Host.Outcome State Fault Refusal :=
  .next (if (vFields w).mode = 2 then attemptOf 10 0x08 p t w (vRun p t w (coefinPlan p t w)) s else s)

/-- SLOTOUT (SCVT mode 3). -/
def execSlotout (p : Pa) (t : Thr) (w : IWord) (s : State) : Host.Outcome State Fault Refusal :=
  .next (if (vFields w).mode = 3 then attemptOf 10 0x08 p t w (vRun p t w (slotoutPlan p t w)) s else s)

/-- CONVERT (SCVT mode 4). -/
def execConvert (p : Pa) (t : Thr) (w : IWord) (s : State) : Host.Outcome State Fault Refusal :=
  .next (if (vFields w).mode = 4 then attemptOf 10 0x08 p t w (vRun p t w (convertPlan p t w)) s else s)

/-- SQNT. -/
def execSqnt (p : Pa) (t : Thr) (w : IWord) (s : State) : Host.Outcome State Fault Refusal :=
  .next (attemptOf 10 0x09 p t w (vRun p t w (sqntPlan p t w)) s)

/-- SSTAT. -/
def execSstat (p : Pa) (t : Thr) (w : IWord) (s : State) : Host.Outcome State Fault Refusal :=
  .next (attemptOf 10 0x0A p t w (vRun p t w (sstatPlan p t w)) s)

end Sys2Proof.Machine
end

