-- ==== Sys2Proof/Machine/Dispatch.lean ====
section
/-! DEFINITION. One arm for each command: the direct call of its meaning, or its rejection by name. -/

namespace Sys2Proof.Machine

def exec (i : Instr) (s : State) : Host.Outcome State Fault Refusal :=
  match i with
  | .nop p t w => Sys2Proof.Machine.execNop p t w s
  | .branch p t w => Sys2Proof.Machine.execBranch p t w s
  | .jal p t w => Sys2Proof.Machine.execJal p t w s
  | .jr p t w => Sys2Proof.Machine.execJr p t w s
  | .loop p t w => Sys2Proof.Machine.execLoop p t w s
  | .tend p t w => Sys2Proof.Machine.execTend p t w s
  | .threadEnd p t => Sys2Proof.Machine.execThreadEnd p t s
  | .tstart p t w => Sys2Proof.Machine.execTstart p t w s
  | .yield p t w => Sys2Proof.Machine.execYield p t w s
  | .eret p t w => Sys2Proof.Machine.execEret p t w s
  | .eretn p t w => Sys2Proof.Machine.execEretn p t w s
  | .srd p t w => Sys2Proof.Machine.execSrd p t w s
  | .add p t w => Sys2Proof.Machine.execAdd p t w s
  | .sub p t w => Sys2Proof.Machine.execSub p t w s
  | .andS p t w => Sys2Proof.Machine.execAndS p t w s
  | .orS p t w => Sys2Proof.Machine.execOrS p t w s
  | .xorS p t w => Sys2Proof.Machine.execXorS p t w s
  | .shl p t w => Sys2Proof.Machine.execShl p t w s
  | .shr p t w => Sys2Proof.Machine.execShr p t w s
  | .sra p t w => Sys2Proof.Machine.execSra p t w s
  | .slt p t w => Sys2Proof.Machine.execSlt p t w s
  | .sltu p t w => Sys2Proof.Machine.execSltu p t w s
  | .minS p t w => Sys2Proof.Machine.execMinS p t w s
  | .maxS p t w => Sys2Proof.Machine.execMaxS p t w s
  | .minu p t w => Sys2Proof.Machine.execMinu p t w s
  | .maxu p t w => Sys2Proof.Machine.execMaxu p t w s
  | .mul p t w => Sys2Proof.Machine.execMul p t w s
  | .mulhu p t w => Sys2Proof.Machine.execMulhu p t w s
  | .mulh p t w => Sys2Proof.Machine.execMulh p t w s
  | .divu p t w => Sys2Proof.Machine.execDivu p t w s
  | .remu p t w => Sys2Proof.Machine.execRemu p t w s
  | .divS p t w => Sys2Proof.Machine.execDivS p t w s
  | .rem p t w => Sys2Proof.Machine.execRem p t w s
  | .aadd p t w => Sys2Proof.Machine.execAadd p t w s
  | .amov p t w => Sys2Proof.Machine.execAmov p t w s
  | .aget p t w => Sys2Proof.Machine.execAget p t w s
  | .ld p t w => Sys2Proof.Machine.execLd p t w s
  | .st p t w => Sys2Proof.Machine.execSt p t w s
  | .cld p t w => Sys2Proof.Machine.execCld p t w s
  | .cst p t w => Sys2Proof.Machine.execCst p t w s
  | .amoadd p t w => Sys2Proof.Machine.execAmoadd p t w s
  | .amoswap p t w => Sys2Proof.Machine.execAmoswap p t w s
  | .amocas p t w => Sys2Proof.Machine.execAmocas p t w s
  | .amomaxu p t w => Sys2Proof.Machine.execAmomaxu p t w s
  | .cmov p t w => Sys2Proof.Machine.execCmov p t w s
  | .cget p t w => Sys2Proof.Machine.execCget p t w s
  | .cbase p t w => Sys2Proof.Machine.execCbase p t w s
  | .kld p t w => Sys2Proof.Machine.execKld p t w s
  | .kmov p t w => Sys2Proof.Machine.execKmov p t w s
  | .qsel p t w => Sys2Proof.Machine.execQsel p t w s
  | .qmov p t w => Sys2Proof.Machine.execQmov p t w s
  | .mset p t w => Sys2Proof.Machine.execMset p t w s
  | .mget p t w => Sys2Proof.Machine.execMget p t w s
  | .fence p t w => Sys2Proof.Machine.execFence p t w s
  | .barpa p t w => Sys2Proof.Machine.execBarpa p t w s
  | .barpkg p t w => Sys2Proof.Machine.execBarpkg p t w s
  | .barpkgRelease b => Sys2Proof.Machine.execBarpkgRelease b s
  | .issueQuantumExpiry p => Sys2Proof.Machine.execIssueQuantumExpiry p s
  | .deferredException p n why addr => Sys2Proof.Machine.execDeferredException p n why addr s
  | .cadd p t w => Sys2Proof.Machine.execCadd p t w s
  | .csub p t w => Sys2Proof.Machine.execCsub p t w s
  | .cneg p t w => Sys2Proof.Machine.execCneg p t w s
  | .cmulp p t w => Sys2Proof.Machine.execCmulp p t w s
  | .cmacp p t w => Sys2Proof.Machine.execCmacp p t w s
  | .crsc p t w => Sys2Proof.Machine.execCrsc p t w s
  | .cmul p t w => Sys2Proof.Machine.execCmul p t w s
  | .chord p t w => Sys2Proof.Machine.execChord p t w s
  | .crot p t w => Sys2Proof.Machine.execCrot p t w s
  | .cconj p t w => Sys2Proof.Machine.execCconj p t w s
  | .chordIssueTimeout g => Sys2Proof.Machine.execChordIssueTimeout g s
  | .lmad p t w => Sys2Proof.Machine.execLmad p t w s
  | .lmul p t w => Sys2Proof.Machine.execLmul p t w s
  | .ladd p t w => Sys2Proof.Machine.execLadd p t w s
  | .lsub p t w => Sys2Proof.Machine.execLsub p t w s
  | .lneg p t w => Sys2Proof.Machine.execLneg p t w s
  | .cntt p t w => Sys2Proof.Machine.execCntt p t w s
  | .cintt p t w => Sys2Proof.Machine.execCintt p t w s
  | .caut p t w => Sys2Proof.Machine.execCaut p t w s
  | .lntt p t w => Sys2Proof.Machine.execLntt p t w s
  | .lintt p t w => Sys2Proof.Machine.execLintt p t w s
  | .laut p t w => Sys2Proof.Machine.execLaut p t w s
  | .bacc p t w => Sys2Proof.Machine.execBacc p t w s
  | .baccz p t w => Sys2Proof.Machine.execBaccz p t w s
  | .aclr p t w => Sys2Proof.Machine.execAclr p t w s
  | .vmov p t w => Sys2Proof.Machine.execVmov p t w s
  | .vadd p t w => Sys2Proof.Machine.execVadd p t w s
  | .vsub p t w => Sys2Proof.Machine.execVsub p t w s
  | .vmul p t w => Sys2Proof.Machine.execVmul p t w s
  | .vmulh p t w => Sys2Proof.Machine.execVmulh p t w s
  | .vmin p t w => Sys2Proof.Machine.execVmin p t w s
  | .vmax p t w => Sys2Proof.Machine.execVmax p t w s
  | .vand p t w => Sys2Proof.Machine.execVand p t w s
  | .vor p t w => Sys2Proof.Machine.execVor p t w s
  | .vxor p t w => Sys2Proof.Machine.execVxor p t w s
  | .vandn p t w => Sys2Proof.Machine.execVandn p t w s
  | .vshl p t w => Sys2Proof.Machine.execVshl p t w s
  | .vshr p t w => Sys2Proof.Machine.execVshr p t w s
  | .vsra p t w => Sys2Proof.Machine.execVsra p t w s
  | .vcmpeq p t w => Sys2Proof.Machine.execVcmpeq p t w s
  | .vcmplt p t w => Sys2Proof.Machine.execVcmplt p t w s
  | .vsel p t w => Sys2Proof.Machine.execVsel p t w s
  | .vmskr p t w => Sys2Proof.Machine.execVmskr p t w s
  | .vtrn p t w => Sys2Proof.Machine.execVtrn p t w s
  | .vred p t w => Sys2Proof.Machine.execVred p t w s
  | .fdot p t w => Sys2Proof.Machine.execFdot p t w s
  | .aredq p t w => Sys2Proof.Machine.execAredq p t w s
  | .aovf p t w => Sys2Proof.Machine.execAovf p t w s
  | .sfft p t w => Sys2Proof.Machine.execSfft p t w s
  | .sifft p t w => Sys2Proof.Machine.execSifft p t w s
  | .slotin p t w => Sys2Proof.Machine.execSlotin p t w s
  | .coefout p t w => Sys2Proof.Machine.execCoefout p t w s
  | .coefin p t w => Sys2Proof.Machine.execCoefin p t w s
  | .slotout p t w => Sys2Proof.Machine.execSlotout p t w s
  | .convert p t w => Sys2Proof.Machine.execConvert p t w s
  | .sqnt p t w => Sys2Proof.Machine.execSqnt p t w s
  | .sstat p t w => Sys2Proof.Machine.execSstat p t w s
  | .csplit p t w => Sys2Proof.Machine.execCsplit p t w s
  | .cmerge p t w => Sys2Proof.Machine.execCmerge p t w s
  | .cext p t w => Sys2Proof.Machine.execCext p t w s
  | .lks p t w => Sys2Proof.Machine.execLks p t w s
  | .cbr p t w => Sys2Proof.Machine.execCbr p t w s
  | .cxp p t w => Sys2Proof.Machine.execCxp p t w s
  | .cpack p t w => Sys2Proof.Machine.execCpack p t w s
  | .cxpt p t w => Sys2Proof.Machine.execCxpt p t w s
  | .exportTimeout chan => Sys2Proof.Machine.execExportTimeout chan s
  | .bldw p t w => Sys2Proof.Machine.execBldw p t w s
  | .bstw p t w => Sys2Proof.Machine.execBstw p t w s
  | .bldp p t w => Sys2Proof.Machine.execBldp p t w s
  | .bstp p t w => Sys2Proof.Machine.execBstp p t w s
  | .bkey p t w => Sys2Proof.Machine.execBkey p t w s
  | .bcpy p t w => Sys2Proof.Machine.execBcpy p t w s
  | .bmovt p t w => Sys2Proof.Machine.execBmovt p t w s
  | .bgath p t w => Sys2Proof.Machine.execBgath p t w s
  | .bscat p t w => Sys2Proof.Machine.execBscat p t w s
  | .bcan p t w => Sys2Proof.Machine.execBcan p t w s
  | .bowUnitRequest p fixed => Sys2Proof.Machine.execBowUnitRequest p fixed s
  | .bowFetchLanding p n bad => Sys2Proof.Machine.execBowFetchLanding p n bad s
  | .bowEgressAck p n bad => Sys2Proof.Machine.execBowEgressAck p n bad s
  | .send p t w => Sys2Proof.Machine.execSend p t w s
  | .recv p t w => Sys2Proof.Machine.execRecv p t w s
  | .tryrecv p t w => Sys2Proof.Machine.execTryrecv p t w s
  | .rfree p t w => Sys2Proof.Machine.execRfree p t w s
  | .cqadd p t w => Sys2Proof.Machine.execCqadd p t w s
  | .cqwait p t w => Sys2Proof.Machine.execCqwait p t w s
  | .channelMessageDelivery c p flits => Sys2Proof.Machine.execChannelMessageDelivery c p flits s
  | .creditReturn c p => Sys2Proof.Machine.execCreditReturn c p s
  | .cqContributionArrival j n flits => Sys2Proof.Machine.execCqContributionArrival j n flits s
  | .multicastDrop c p => Sys2Proof.Machine.execMulticastDrop c p s
  | .mutualBlockDetect p t p2 t2 => Sys2Proof.Machine.execMutualBlockDetect p t p2 t2 s
  | .arbiterWindowStart hub => Sys2Proof.Machine.execArbiterWindowStart hub s
  | .arbiterFreeze arb on => Sys2Proof.Machine.execArbiterFreeze arb on s
  | .freezeReached arb => Sys2Proof.Machine.execFreezeReached arb s
  | .debugFlitAccess r o => Sys2Proof.Machine.execDebugFlitAccess r o s
  | .headerDiscard r ix lost => Sys2Proof.Machine.execHeaderDiscard r ix lost s
  | .responseTimeout p n => Sys2Proof.Machine.execResponseTimeout p n s
  | .remoteSpmAccess rq owner off acc fixed flits => Sys2Proof.Machine.execRemoteSpmAccess rq owner off acc fixed flits s
  | .sliceRequest rq cls addr acc found => Sys2Proof.Machine.execSliceRequest rq cls addr acc found s
  | .cacheFill h n => Sys2Proof.Machine.execCacheFill h n s
  | .prefetchIssue h k => Sys2Proof.Machine.execPrefetchIssue h k s
  | .trackerIdleEnd h k => Sys2Proof.Machine.execTrackerIdleEnd h k s
  | .cacheBankDrain h b on => Sys2Proof.Machine.execCacheBankDrain h b on s
  | .cacheBankForceDown h b => Sys2Proof.Machine.execCacheBankForceDown h b s
  | .cacheBankOff h b => Sys2Proof.Machine.execCacheBankOff h b s
  | .hbmReadReturn n addr res => Sys2Proof.Machine.execHbmReadReturn n addr res s
  | .hbmRefresh n pc bank rowHits => Sys2Proof.Machine.execHbmRefresh n pc bank rowHits s
  | .hbmTempReport n temp => Sys2Proof.Machine.execHbmTempReport n temp s
  | .hbmRetire n ix => Sys2Proof.Machine.execHbmRetire n ix s
  | .cxlReady ix cap x16 gt64 => Sys2Proof.Machine.execCxlReady ix cap x16 gt64 s
  | .cxlLinkDown ix => Sys2Proof.Machine.execCxlLinkDown ix s
  | .cxlPortEnable ix on => Sys2Proof.Machine.execCxlPortEnable ix on s
  | .mergeIdleTimeout p n => Sys2Proof.Machine.execMergeIdleTimeout p n s
  | .mergeDrain p fixed => Sys2Proof.Machine.execMergeDrain p fixed s
  | .guardPromote p n => Sys2Proof.Machine.execGuardPromote p n s
  | .correctionWriteBack p n => Sys2Proof.Machine.execCorrectionWriteBack p n s
  | .quiesce p on => Sys2Proof.Machine.execQuiesce p on s
  | .quiesceReached p => Sys2Proof.Machine.execQuiesceReached p s
  | .registerWrite addr v ties => Sys2Proof.Machine.execRegisterWrite addr v ties s
  | .rwpWriteComplete addr => Sys2Proof.Machine.execRwpWriteComplete addr s
  | .pllLossOfLock k => Sys2Proof.Machine.execPllLossOfLock k s
  | .pllRelock k => Sys2Proof.Machine.execPllRelock k s
  | .arpRequest f => Sys2Proof.Machine.execArpRequest f s
  | .neighbourSolicitation f => Sys2Proof.Machine.execNeighbourSolicitation f s
  | .icmpEcho f payload => Sys2Proof.Machine.execIcmpEcho f payload s
  | .frameDiscard f => Sys2Proof.Machine.execFrameDiscard f s
  | .hello d role rsvd nonce x25519 kem => Sys2Proof.Machine.execHello d role rsvd nonce x25519 kem s
  | .finish d sid authOk edPk dsaPk sigsOk => Sys2Proof.Machine.execFinish d sid authOk edPk dsaPk sigsOk s
  | .handshakeTimeout sid => Sys2Proof.Machine.execHandshakeTimeout sid s
  | .sessionIdleTimeout slot => Sys2Proof.Machine.execSessionIdleTimeout slot s
  | .regRead h addrs => Sys2Proof.Machine.execRegRead h addrs s
  | .regWrite h writes => Sys2Proof.Machine.execRegWrite h writes s
  | .memRead h addr len cls => Sys2Proof.Machine.execMemRead h addr len cls s
  | .memWrite h addr cls data => Sys2Proof.Machine.execMemWrite h addr cls data s
  | .keyWrite h base off data => Sys2Proof.Machine.execKeyWrite h base off data s
  | .doorbell h addr addend => Sys2Proof.Machine.execDoorbell h addr addend s
  | .watch h addr wid => Sys2Proof.Machine.execWatch h addr wid s
  | .unwatch h wid => Sys2Proof.Machine.execUnwatch h wid s
  | .watchEvent slot wid => Sys2Proof.Machine.execWatchEvent slot wid s
  | .progLoad h addr timeoutS => Sys2Proof.Machine.execProgLoad h addr timeoutS s
  | .progLoadComplete => Sys2Proof.Machine.execProgLoadComplete s
  | .progUnload h => Sys2Proof.Machine.execProgUnload h s
  | .progCancel h => Sys2Proof.Machine.execProgCancel h s
  | .cancelComplete => Sys2Proof.Machine.execCancelComplete s
  | .programTimeout => Sys2Proof.Machine.execProgramTimeout s
  | .attest h nonce => Sys2Proof.Machine.execAttest h nonce s
  | .macsecKey h suite an sci sak ssci salt => Sys2Proof.Machine.execMacsecKey h suite an sci sak ssci salt s
  | .exportResend h chan off len => Sys2Proof.Machine.execExportResend h chan off len s
  | .answerBegin h chan desc => Sys2Proof.Machine.execAnswerBegin h chan desc s
  | .answerData h chan off data => Sys2Proof.Machine.execAnswerData h chan off data s
  | .answerEnd h chan => Sys2Proof.Machine.execAnswerEnd h chan s
  | .decline h chan => Sys2Proof.Machine.execDecline h chan s
  | .eventAck h eseq => Sys2Proof.Machine.execEventAck h eseq s
  | .eventRetransmit slot eseq => Sys2Proof.Machine.execEventRetransmit slot eseq s
  | .ping h => Sys2Proof.Machine.execPing h s
  | .close h byDevice => Sys2Proof.Machine.execClose h byDevice s
  | .ethLinkUp port optical => Sys2Proof.Machine.execEthLinkUp port optical s
  | .ethLinkDown port => Sys2Proof.Machine.execEthLinkDown port s
  | .pegAcquire who ix tie => Sys2Proof.Machine.execPegAcquire who ix tie s
  | .pegRelease who ix tie => Sys2Proof.Machine.execPegRelease who ix tie s
  | .pegBreak port ix tie => Sys2Proof.Machine.execPegBreak port ix tie s
  | .capoTolWrite slot p us => Sys2Proof.Machine.execCapoTolWrite slot p us s
  | .brgSignalDetect n => Sys2Proof.Machine.execBrgSignalDetect n s
  | .brgTrainingEnd n lanes => Sys2Proof.Machine.execBrgTrainingEnd n lanes s
  | .bridgeIdent n serial peerPort addr valid => Sys2Proof.Machine.execBridgeIdent n serial peerPort addr valid s
  | .bridgeFlitReceive n flit fec => Sys2Proof.Machine.execBridgeFlitReceive n flit fec s
  | .brgLaneLoss n => Sys2Proof.Machine.execBrgLaneLoss n s
  | .brgRetrainEnd n ok => Sys2Proof.Machine.execBrgRetrainEnd n ok s
  | .brgPortEnable n on => Sys2Proof.Machine.execBrgPortEnable n on s
  | .rd n pkt => Sys2Proof.Machine.execRd n pkt s
  | .wr n pkt => Sys2Proof.Machine.execWr n pkt s
  | .rdr n pkt => Sys2Proof.Machine.execRdr n pkt s
  | .wack n pkt => Sys2Proof.Machine.execWack n pkt s
  | .windowResponseTimeout p n => Sys2Proof.Machine.execWindowResponseTimeout p n s
  | .assign n pkt => Sys2Proof.Machine.execAssign n pkt s
  | .endTok n pkt => Sys2Proof.Machine.execEndTok n pkt s
  | .commit n pkt => Sys2Proof.Machine.execCommit n pkt s
  | .cend n pkt => Sys2Proof.Machine.execCend n pkt s
  | .enumerationStart => Sys2Proof.Machine.execEnumerationStart s
  | .autoEnumStart => Sys2Proof.Machine.execAutoEnumStart s
  | .enumerationTimeout => Sys2Proof.Machine.execEnumerationTimeout s
  | .mstrSelChange level => Sys2Proof.Machine.execMstrSelChange level s
  | .windowOpen ix => Sys2Proof.Machine.execWindowOpen ix s
  | .windowClose ix => Sys2Proof.Machine.execWindowClose ix s
  | .announce n pkt => Sys2Proof.Machine.execAnnounce n pkt s
  | .withdraw n pkt => Sys2Proof.Machine.execWithdraw n pkt s
  | .winack n pkt => Sys2Proof.Machine.execWinack n pkt s
  | .roundArm j v upset => Sys2Proof.Machine.execRoundArm j v upset s
  | .rhdr n hdr upset => Sys2Proof.Machine.execRhdr n hdr upset s
  | .reductionBlock n blk upset => Sys2Proof.Machine.execReductionBlock n blk upset s
  | .abortRound n j code => Sys2Proof.Machine.execAbortRound n j code s
  | .restart n j attempt => Sys2Proof.Machine.execRestart n j attempt s
  | .roundTimeout j => Sys2Proof.Machine.execRoundTimeout j s
  | .roundDone j upset => Sys2Proof.Machine.execRoundDone j upset s
  | .contextDisable j => Sys2Proof.Machine.execContextDisable j s
  | .heartbeat => Sys2Proof.Machine.execHeartbeat s
  | .standbyTakeover => Sys2Proof.Machine.execStandbyTakeover s
  | .sensorSample temps => Sys2Proof.Machine.execSensorSample temps s
  | .thermAlert low => Sys2Proof.Machine.execThermAlert low s
  | .sensorMaxReset ix => Sys2Proof.Machine.execSensorMaxReset ix s
  | .logSummary src => Sys2Proof.Machine.execLogSummary src s
  | .logLatch p seq => Sys2Proof.Machine.execLogLatch p seq s
  | .verify p sigs => Sys2Proof.Machine.execVerify p sigs s
  | .mailboxCommandEnd p => Sys2Proof.Machine.execMailboxCommandEnd p s
  | .slotWrite p sigs readBackOk => Sys2Proof.Machine.execSlotWrite p sigs readBackOk s
  | .spRestart p boot => Sys2Proof.Machine.execSpRestart p boot s
  | .mcApply p sigs fails => Sys2Proof.Machine.execMcApply p sigs fails s
  | .paCycle p fails => Sys2Proof.Machine.execPaCycle p fails s
  | .phyCal p results => Sys2Proof.Machine.execPhyCal p results s
  | .linkSet p => Sys2Proof.Machine.execLinkSet p s
  | .deviceReset p => Sys2Proof.Machine.execDeviceReset p s
  | .x25519Gen j job => Sys2Proof.Machine.execX25519Gen j job s
  | .x25519 j job => Sys2Proof.Machine.execX25519 j job s
  | .edGen j job => Sys2Proof.Machine.execEdGen j job s
  | .edSign j job => Sys2Proof.Machine.execEdSign j job s
  | .edVerify j job => Sys2Proof.Machine.execEdVerify j job s
  | .kemGen j job => Sys2Proof.Machine.execKemGen j job s
  | .kemEncaps j job => Sys2Proof.Machine.execKemEncaps j job s
  | .kemDecaps j job => Sys2Proof.Machine.execKemDecaps j job s
  | .dsaGen j job => Sys2Proof.Machine.execDsaGen j job s
  | .dsaSign j job => Sys2Proof.Machine.execDsaSign j job s
  | .dsaVerify j job => Sys2Proof.Machine.execDsaVerify j job s
  | .sha3384 j job => Sys2Proof.Machine.execSha3384 j job s
  | .shake256 j job => Sys2Proof.Machine.execShake256 j job s
  | .rand j job => Sys2Proof.Machine.execRand j job s
  | .clear j job => Sys2Proof.Machine.execClear j job s
  | .droneYield => Sys2Proof.Machine.execDroneYield s
  | .droneJobEnd j => Sys2Proof.Machine.execDroneJobEnd j s
  | .rngReseed => Sys2Proof.Machine.execRngReseed s
  | .rngHealthFail => Sys2Proof.Machine.execRngHealthFail s
  | .capoStepDeeper => Sys2Proof.Machine.execCapoStepDeeper s
  | .capoEntryStepDone => Sys2Proof.Machine.execCapoEntryStepDone s
  | .capoWakeEvent why => Sys2Proof.Machine.execCapoWakeEvent why s
  | .capoWakeWrite tie => Sys2Proof.Machine.execCapoWakeWrite tie s
  | .wakeComplete failed => Sys2Proof.Machine.execWakeComplete failed s
  | .wakeLockTimeout k => Sys2Proof.Machine.execWakeLockTimeout k s
  | .powerSample watts mv => Sys2Proof.Machine.execPowerSample watts mv s
  | .plimAdjust raise => Sys2Proof.Machine.execPlimAdjust raise s
  | .hbmCriticalTimeout n => Sys2Proof.Machine.execHbmCriticalTimeout n s
  | .thermalShutdown => Sys2Proof.Machine.execThermalShutdown s
  | .capoComparator d => Sys2Proof.Machine.execCapoComparator d s
  | .inputUndervoltage mv => Sys2Proof.Machine.execInputUndervoltage mv s
  | .undervoltageRecovery => Sys2Proof.Machine.execUndervoltageRecovery s
  | .powerStageFault r stage => Sys2Proof.Machine.execPowerStageFault r stage s
  | .capoPeakClear => Sys2Proof.Machine.execCapoPeakClear s
  | .snapshotTake p tie => Sys2Proof.Machine.execSnapshotTake p tie s
  | .snapAll => Sys2Proof.Machine.execSnapAll s
  | .snapAllPaTake p tie => Sys2Proof.Machine.execSnapAllPaTake p tie s
  | .bandwidthWindowEnd => Sys2Proof.Machine.execBandwidthWindowEnd s
  | .windowLengthWrite v => Sys2Proof.Machine.execWindowLengthWrite v s
  | .ovtPeakClear => Sys2Proof.Machine.execOvtPeakClear s
  | .inputPowerUp strap => Sys2Proof.Machine.execInputPowerUp strap s
  | .resetNAssert => Sys2Proof.Machine.execResetNAssert s
  | .resetRelease boot => Sys2Proof.Machine.execResetRelease boot s
  | .brownOut => Sys2Proof.Machine.execBrownOut s
  | .ident => Sys2Proof.Machine.execIdent s
  | .status => Sys2Proof.Machine.execStatus s
  | .temp => Sys2Proof.Machine.execTemp s
  | .power => Sys2Proof.Machine.execPower s
  | .evt clear ties pecOk => Sys2Proof.Machine.execEvt clear ties pecOk s
  | .rcvSlot v pecOk => Sys2Proof.Machine.execRcvSlot v pecOk s
  | .rcvAddr v pecOk => Sys2Proof.Machine.execRcvAddr v pecOk s
  | .rcvData data pecOk => Sys2Proof.Machine.execRcvData data pecOk s
  | .rcvGo v sigs boot pecOk => Sys2Proof.Machine.execRcvGo v sigs boot pecOk s
  | .rcvStat => Sys2Proof.Machine.execRcvStat s
  | .instructionCompletion p n fixed => Sys2Proof.Machine.execInstructionCompletion p n fixed s
  | .illegalInstruction p t w => Sys2Proof.Machine.execIllegalInstruction p t w s
  | .unlistedMessageType h ty => Sys2Proof.Machine.execUnlistedMessageType h ty s
  | .farTierAccess rq addr acc poison => Sys2Proof.Machine.execFarTierAccess rq addr acc poison s
  | .rngHealthPass => Sys2Proof.Machine.execRngHealthPass s
  | .alertResponseAddress => Sys2Proof.Machine.execAlertResponseAddress s
  | .sidebandUnlistedCommand code => Sys2Proof.Machine.execSidebandUnlistedCommand code s

end Sys2Proof.Machine
end

