-- ==== Sys2Proof/WellFormed.lean ====
section
/-! DEFINITION. Which commands are well formed: what a sender of commands must give for the command to be the row of
the opcode table that its constructor names. A meaning does not ask for it: a row whose word spells another instruction
leaves the state alone. -/

namespace Sys2Proof

/-- The group and the op of the instruction that a Wonis row names (Tables 4.8 to 10.9), with the word it carries. The
rows that are events, messages, packets or pins carry no word. -/
def Instr.wonis : Instr → Option (Nat × Nat × IWord)
  | .nop _ _ w => some (0, 0x00, w)
  | .branch _ _ w => some (0, 0x02, w)
  | .jal _ _ w => some (0, 0x03, w)
  | .jr _ _ w => some (0, 0x04, w)
  | .loop _ _ w => some (0, 0x08, w)
  | .tend _ _ w => some (0, 0x10, w)
  | .tstart _ _ w => some (0, 0x11, w)
  | .yield _ _ w => some (0, 0x12, w)
  | .eret _ _ w => some (0, 0x18, w)
  | .eretn _ _ w => some (0, 0x19, w)
  | .srd _ _ w => some (0, 0x20, w)
  | .add _ _ w => some (1, 0x00, w)
  | .sub _ _ w => some (1, 0x01, w)
  | .andS _ _ w => some (1, 0x02, w)
  | .orS _ _ w => some (1, 0x03, w)
  | .xorS _ _ w => some (1, 0x04, w)
  | .shl _ _ w => some (1, 0x05, w)
  | .shr _ _ w => some (1, 0x06, w)
  | .sra _ _ w => some (1, 0x07, w)
  | .slt _ _ w => some (1, 0x08, w)
  | .sltu _ _ w => some (1, 0x09, w)
  | .minS _ _ w => some (1, 0x0A, w)
  | .maxS _ _ w => some (1, 0x0B, w)
  | .minu _ _ w => some (1, 0x0C, w)
  | .maxu _ _ w => some (1, 0x0D, w)
  | .mul _ _ w => some (1, 0x10, w)
  | .mulhu _ _ w => some (1, 0x11, w)
  | .mulh _ _ w => some (1, 0x12, w)
  | .divu _ _ w => some (1, 0x14, w)
  | .remu _ _ w => some (1, 0x15, w)
  | .divS _ _ w => some (1, 0x16, w)
  | .rem _ _ w => some (1, 0x17, w)
  | .aadd _ _ w => some (2, 0x00, w)
  | .amov _ _ w => some (2, 0x01, w)
  | .aget _ _ w => some (2, 0x02, w)
  | .ld _ _ w => some (3, 0x00, w)
  | .st _ _ w => some (3, 0x01, w)
  | .cld _ _ w => some (3, 0x02, w)
  | .cst _ _ w => some (3, 0x03, w)
  | .amoadd _ _ w => some (3, 0x08, w)
  | .amoswap _ _ w => some (3, 0x09, w)
  | .amocas _ _ w => some (3, 0x0A, w)
  | .amomaxu _ _ w => some (3, 0x0B, w)
  | .cmov _ _ w => some (4, 0x00, w)
  | .cget _ _ w => some (4, 0x01, w)
  | .cbase _ _ w => some (4, 0x02, w)
  | .kld _ _ w => some (4, 0x08, w)
  | .kmov _ _ w => some (4, 0x09, w)
  | .qsel _ _ w => some (4, 0x10, w)
  | .qmov _ _ w => some (4, 0x11, w)
  | .mset _ _ w => some (4, 0x18, w)
  | .mget _ _ w => some (4, 0x19, w)
  | .fence _ _ w => some (5, 0x00, w)
  | .barpa _ _ w => some (5, 0x01, w)
  | .barpkg _ _ w => some (5, 0x02, w)
  | .cadd _ _ w => some (6, 0x00, w)
  | .csub _ _ w => some (6, 0x01, w)
  | .cneg _ _ w => some (6, 0x02, w)
  | .cmulp _ _ w => some (6, 0x03, w)
  | .cmacp _ _ w => some (6, 0x04, w)
  | .crsc _ _ w => some (6, 0x05, w)
  | .cmul _ _ w => some (6, 0x20, w)
  | .chord _ _ w => some (6, 0x21, w)
  | .crot _ _ w => some (6, 0x22, w)
  | .cconj _ _ w => some (6, 0x23, w)
  | .lmad _ _ w => some (6, 0x10, w)
  | .lmul _ _ w => some (6, 0x11, w)
  | .ladd _ _ w => some (6, 0x12, w)
  | .lsub _ _ w => some (6, 0x13, w)
  | .lneg _ _ w => some (6, 0x14, w)
  | .cntt _ _ w => some (7, 0x00, w)
  | .cintt _ _ w => some (7, 0x01, w)
  | .caut _ _ w => some (7, 0x02, w)
  | .lntt _ _ w => some (7, 0x10, w)
  | .lintt _ _ w => some (7, 0x11, w)
  | .laut _ _ w => some (7, 0x12, w)
  | .bacc _ _ w => some (8, 0x00, w)
  | .baccz _ _ w => some (8, 0x01, w)
  | .aclr _ _ w => some (8, 0x02, w)
  | .vmov _ _ w => some (9, 0x00, w)
  | .vadd _ _ w => some (9, 0x01, w)
  | .vsub _ _ w => some (9, 0x02, w)
  | .vmul _ _ w => some (9, 0x03, w)
  | .vmulh _ _ w => some (9, 0x04, w)
  | .vmin _ _ w => some (9, 0x05, w)
  | .vmax _ _ w => some (9, 0x06, w)
  | .vand _ _ w => some (9, 0x08, w)
  | .vor _ _ w => some (9, 0x09, w)
  | .vxor _ _ w => some (9, 0x0A, w)
  | .vandn _ _ w => some (9, 0x0B, w)
  | .vshl _ _ w => some (9, 0x10, w)
  | .vshr _ _ w => some (9, 0x11, w)
  | .vsra _ _ w => some (9, 0x12, w)
  | .vcmpeq _ _ w => some (9, 0x18, w)
  | .vcmplt _ _ w => some (9, 0x19, w)
  | .vsel _ _ w => some (9, 0x1A, w)
  | .vmskr _ _ w => some (9, 0x1B, w)
  | .vtrn _ _ w => some (9, 0x20, w)
  | .vred _ _ w => some (9, 0x28, w)
  | .fdot _ _ w => some (9, 0x30, w)
  | .aredq _ _ w => some (9, 0x3A, w)
  | .aovf _ _ w => some (9, 0x3B, w)
  | .sfft _ _ w => some (10, 0x00, w)
  | .sifft _ _ w => some (10, 0x01, w)
  | .slotin _ _ w => some (10, 0x08, w)
  | .coefout _ _ w => some (10, 0x08, w)
  | .coefin _ _ w => some (10, 0x08, w)
  | .slotout _ _ w => some (10, 0x08, w)
  | .convert _ _ w => some (10, 0x08, w)
  | .sqnt _ _ w => some (10, 0x09, w)
  | .sstat _ _ w => some (10, 0x0A, w)
  | .csplit _ _ w => some (6, 0x28, w)
  | .cmerge _ _ w => some (6, 0x29, w)
  | .cext _ _ w => some (6, 0x2A, w)
  | .lks _ _ w => some (6, 0x2B, w)
  | .cbr _ _ w => some (6, 0x2C, w)
  | .cxp _ _ w => some (6, 0x2D, w)
  | .cpack _ _ w => some (6, 0x2E, w)
  | .cxpt _ _ w => some (6, 0x30, w)
  | .bldw _ _ w => some (11, 0x00, w)
  | .bstw _ _ w => some (11, 0x01, w)
  | .bldp _ _ w => some (11, 0x02, w)
  | .bstp _ _ w => some (11, 0x03, w)
  | .bkey _ _ w => some (11, 0x08, w)
  | .bcpy _ _ w => some (11, 0x10, w)
  | .bmovt _ _ w => some (11, 0x11, w)
  | .bgath _ _ w => some (11, 0x12, w)
  | .bscat _ _ w => some (11, 0x13, w)
  | .bcan _ _ w => some (11, 0x18, w)
  | .send _ _ w => some (12, 0x00, w)
  | .recv _ _ w => some (12, 0x01, w)
  | .tryrecv _ _ w => some (12, 0x02, w)
  | .rfree _ _ w => some (12, 0x03, w)
  | .cqadd _ _ w => some (12, 0x08, w)
  | .cqwait _ _ w => some (12, 0x09, w)
  | _ => none

/-- R114: the op, the group and the clear ext bit of a word. -/
def wordSpells (w : IWord) (grp op : Nat) : Bool :=
  (field w 8 4).toNat = grp && (field w 0 8).toNat = op && !bit w 15

/-- R114: the mode field of a vector word, which tells the rows of SCVT apart (R221). -/
def wordMode (w : IWord) : Nat := (field w 18 4).toNat

/-- The mode that a row of SCVT names. -/
def Instr.scvtMode : Instr → Option Nat
  | .slotin _ _ _ => some 0
  | .coefout _ _ _ => some 1
  | .coefin _ _ _ => some 2
  | .slotout _ _ _ => some 3
  | .convert _ _ _ => some 4
  | _ => none

/-- R310: a session ends before its seq reaches 2⁴⁰. -/
def GHdr.wf (h : GHdr) : Bool := h.seq < 2 ^ 40

/-- R311: an inner message holds at most 8,192 bytes of data. -/
def dataFits (d : List Byte) : Bool := d.length ≤ 8192

/-- Bytes that a home access carries: at most the 8,192 of an inner message. -/
def Access.wf : Access → Bool
  | .read n => 1 ≤ n && n ≤ 8192
  | .write d => 1 ≤ d.length && d.length ≤ 8192
  | .atomic _ _ => true

/-- Table 12.5: the data of a packet. -/
def Packet.wf (p : Packet) : Bool := p.data.length ≤ 4096

/-- R354: a block is 4 KiB. -/
def RoundBlock.wf (b : RoundBlock) : Bool := b.words.length = 512

/-- The device address names a control register's place (R35, R36). -/
def controlAddr (a : BitVec 48) : Bool := 0x3F0000000000 ≤ a.toNat && a.toNat < 0x3F0002000000 && a.toNat % 8 = 0

/-- The instruction word of a Wonis row spells the row; the fields of the other rows have the lengths that the spec's
tables give them. -/
def Instr.wf (c : Instr) : Bool :=
  match c.wonis with
  | some (grp, op, w) => wordSpells w grp op && (match c.scvtMode with | some m => wordMode w = m | none => true)
  | none =>
    match c with
    | .hello _ _ _ nonce x kem => nonce.length = 32 && x.length = 32 && kem.length = 1184
    | .finish _ _ _ edPk dsaPk _ => edPk.length = 32 && dsaPk.length = 1952
    | .regRead h l => h.wf && 1 ≤ l.length && l.length ≤ 64
    | .regWrite h l => h.wf && 1 ≤ l.length && l.length ≤ 64
    | .memRead h _ _ _ => h.wf
    | .memWrite h _ _ d => h.wf && dataFits d
    | .keyWrite h _ _ d => h.wf && dataFits d
    | .answerData h _ _ d => h.wf && dataFits d
    | .attest h n => h.wf && n.length = 32
    | .macsecKey h _ _ _ sak _ salt => h.wf && sak.length = 32 && salt.length = 12
    | .doorbell h _ _ => h.wf
    | .watch h _ _ => h.wf
    | .unwatch h _ => h.wf
    | .progLoad h _ _ => h.wf
    | .progUnload h => h.wf
    | .progCancel h => h.wf
    | .exportResend h _ _ _ => h.wf
    | .answerBegin h _ _ => h.wf
    | .answerEnd h _ => h.wf
    | .decline h _ => h.wf
    | .eventAck h _ => h.wf
    | .ping h => h.wf
    | .close h _ => h.wf
    | .unlistedMessageType h _ => h.wf
    | .rd _ p => p.wf
    | .wr _ p => p.wf
    | .rdr _ p => p.wf
    | .wack _ p => p.wf
    | .announce _ p => p.wf
    | .withdraw _ p => p.wf
    | .winack _ p => p.wf
    | .reductionBlock _ b _ => b.wf
    | .remoteSpmAccess _ _ _ a _ _ => a.wf
    | .sliceRequest _ _ _ a _ => a.wf
    | .farTierAccess _ _ a _ => a.wf
    | .registerWrite a _ _ => controlAddr a
    | .rwpWriteComplete a => controlAddr a
    | _ => true

end Sys2Proof
end

