-- ==== Sys2Proof/Safety.lean ====
section
/-! DEFINITION. What counts as a sound state and a proper command, in the terms that statements use: canonical memory,
legal issue, and a fetched instruction word. -/

namespace Sys2Proof.Machine

/-- The memory's canonical form: addresses strictly rising, and no byte listed that reads as an unlisted one. -/
def Memory.wf (m : SMap Byte) : Bool := swf noByte m

/-- Everything that lies behind device addresses is in canonical form. -/
def Mem.wf (m : Mem) : Bool := Memory.wf m.bytes && nwf m.unc && nwf m.uncBurst

/-- The word that a thread's pc names (R108, R114). The commands of a Wonis program are those whose word is fetched:
`exec` takes the word that the command gives and does not compare it (log entry 4). -/
def fetched (s : State) (p : Pa) (t : Thr) : IWord := sget (fun _ => 0) (s.pa p).imem (s.thr p t).pc

/-- A command that a program of the device gives: a Wonis row carries the word that its thread fetches. -/
def ofProgram (s : State) (c : Instr) (p : Pa) (t : Thr) : Bool :=
  match c.wonis with
  | some (_, _, w) => w = fetched s p t
  | none => true

/-- Thread `t` of PA `p` issues the next instruction: nothing latched is to be delivered first (R134), no hold is on it
(R136, R228), and its pc is a word of IMEM (R115). -/
def issues (s : State) (p : Pa) (t : Thr) : Bool :=
  mayAttempt s p t && !(s.thr p t).undelivered && !(s.thr p t).cancelled && (s.thr p t).holdTo ≤ (s.pa p).cycle
    && (s.thr p t).pc < 16384

/-- Thread `t` of PA `p` waits for none of these (R98, R133). -/
def meets (s : State) (p : Pa) (t : Thr) (l : List Need) : Bool := l.all fun n => (n.now s p t).isNone

/-- Thread `t` of PA `p` issues the word `w` of group `g` and op `o`, which the resident program's version does not reserve,
and the registers `rs` that it names are produced (R98, R129, R142). -/
def ready (g o : Nat) (p : Pa) (t : Thr) (w : IWord) (rs : List Res) (s : State) : Bool :=
  spells w g o && issues s p t && !reservedWord s w && meets s p t [.regs rs]

/-- The planned work of a format 7 word runs: nothing refuses it, its bytes and its unit are free, and no record that it
touches is held (R129, R219, R233). -/
def planRuns (p : Pa) (t : Thr) (f : VFields) (v : VPlan) (s : State) : Bool :=
  (pickCause (v.causes ++ [v.work.overlaps f])).isNone && meets s p t (v.work.needs p)

/-- A descriptor operation runs: nothing refuses it, and its bytes and the cell grid are free. -/
def descRuns (p : Pa) (t : Thr) (f : PFields) (o : DescOp) (s : State) : Bool :=
  (pickCause (descCauses s p t f o)).isNone
    && meets s p t (cellNeeds p (descReads (s.thr p t) f o) [(dstWindow (s.thr p t) f o.result).range])

/-- A scheme-switching operation runs: nothing refuses it, and its bytes and the cell grid are free. -/
def swRuns (p : Pa) (t : Thr) (f : PFields) (o : SwOp) (s : State) : Bool :=
  (pickCause (swCauses s p t f o)).isNone && meets s p t (cellNeeds p (o.srcs.map Staged.range) [o.dst.range])

/-- Thread `t` of PA `p` may issue a keyed instruction in group `g` under key entry `e` with header `h`: PA `p` is a
member, its handle names the key, fewer than two of the member's keyed instructions are held (R193), and its bytes, its key
blocks and the cell grid are free. -/
def keyedRuns (op : KeyedOp) (p : Pa) (t : Thr) (w : IWord) (g : Fin 4) (e : Nat) (h : KeyHdr) (s : State) : Bool :=
  let f := pFields w
  groupOf s p = some g && ((s.thr p t).k.toArray.getD f.kh.val none).map (·.val) = some e && s.rp.keys[e]? = some h
    && meets s p t (keyedNeeds op s p t g f e h)

/-- A command of the Bow is queued: nothing refuses it, the bytes that it reads are free, and the queue has room. -/
def bowRuns (p : Pa) (t : Thr) (b : BowPlan) (s : State) : Bool :=
  clear b.causes && meets s p t (if b.reads = [] then [] else spmNeeds (spmOffsets p b.reads) [] false) && clear b.later
    && meets s p t [.bow b.units]

/-! ## What a cycle of a PA does by itself -/

/-- The offsets of the Overtone counters in a PA's counter block at `b` (Table 16.7): OVT_CYCLE, the event counters, the
issue slots and the thread counters. -/
def counterAt (b o : Nat) : Bool :=
  o = b + 0x18 || (b + 0x100 ≤ o && o < b + 0x200 && (o - b) % 0x20 = 0x18)
    || (b + 0x200 ≤ o && o < b + 0x268) || (b + 0x400 ≤ o && o < b + 0x800)

/-- The offsets of the counters that a cycle of PA `p` may count. -/
def counterOf (p : Pa) (o : Nat) : Bool := counterAt (0x403000 + p.val * 0x10000) o

/-- `u` is `v` but for counts that PA `p`'s Overtone counters have taken. -/
def counted (p : Pa) (v u : State) : Prop :=
  u = { v with ctl := u.ctl } ∧ ∀ o, counterOf p o = false → sget regReset u.ctl o = sget regReset v.ctl o

/-- A PA after the cycle in which thread `t` issued: its cycle count and issue have moved on (R97). -/
def issuePa (t : Thr) (x : PaState) : PaState :=
  cyclePa true { x with cur := t, seeking := false, runLen := if x.cur = t then x.runLen + 1 else 1 }

/-- A PA after a cycle in which thread `t` held issue and nothing issued: the thread waits for `l`, and issue moves on if it is
stalled (R97). -/
def holdPa (t : Thr) (l : List Need) (stalls : Bool) (x : PaState) : PaState :=
  cyclePa false ({ x with cur := t, seeking := stalls }.modThr t fun y => { y with needs := l })

/-- `u` is `v` after the cycle in which thread `t` of PA `p` issued: the PA's cycle count and issue have moved on, its
Overtone counters have counted, and nothing else has changed (R97, R434 to R438). -/
def issuedAs (p : Pa) (t : Thr) (v u : State) : Prop := counted p (v.modPa p (issuePa t)) u

/-- `u` is `v` after a cycle in which thread `t` of PA `p` held issue, nothing issued, and the thread waits for `l`. -/
def heldAs (p : Pa) (t : Thr) (l : List Need) (v u : State) : Prop := ∃ b, counted p (v.modPa p (holdPa t l b)) u

/-- An instruction of thread `t` with effect `v` has issued, and its thread goes on in sequence. -/
def ranAs (p : Pa) (t : Thr) (v u : State) : Prop := issuedAs p t (v.modThr p t Thread.advance) u

/-- Every byte outside the `n` bytes from `a` reads in `u` as in `s`; with `n = 0`, every byte of memory. -/
def bytesKept (s u : State) (a n : Nat) : Prop :=
  ∀ b, b < a ∨ a + n ≤ b → sget noByte u.mem.bytes b = sget noByte s.mem.bytes b

/-- An instruction in flight, but for how far its element groups have come (R89, R91). -/
def Op.still (o : Op) : Op := { o with got0 := 0, got1 := 0, put := 0 }

/-- The instructions of PA `p` in flight in `u` are those in `s`, and then `l`. -/
def inFlight (p : Pa) (l : List Op) (s u : State) : Prop := (u.pa p).ops.map Op.still = ((s.pa p).ops ++ l).map Op.still

/-- Instruction `o` has been sent on its way, behind those in flight in `s`. -/
def sent (p : Pa) (o : Op) (s u : State) : Prop := inFlight p [{ o with id := (s.pa p).nextOp }] s u

/-- Everything of the other PAs, of the other threads of PA `p`, and of the control range but PA `p`'s Overtone counters
is in `u` as in `s`. -/
def othersKept (p : Pa) (t : Thr) (s u : State) : Prop :=
  (∀ q, q ≠ p → u.pa q = s.pa q) ∧ (∀ v, v ≠ t → u.thr p v = s.thr p v)
    ∧ ∀ o, counterOf p o = false → sget regReset u.ctl o = sget regReset s.ctl o

/-- `u` is `s` after thread `t` of PA `p` has taken EXC_ILLEGAL as a precise exception (R134, R136, R138): the exception
registers latch the code and the pc, the thread is in handler state at its handler's pc if it was in run state with the
handler enabled and in faulted state otherwise, and its scalar registers and all of memory are as before; then barriers
and the program have settled. -/
def tookIllegal (p : Pa) (t : Thr) (s u : State) : Prop :=
  ∃ v, u = noIssue (settlePa v p t) p t id
    ∧ (v.thr p t).exc.code = 0x01 ∧ (v.thr p t).exc.deferred = false
    ∧ (v.thr p t).exc.epc = BitVec.ofNat 14 (s.thr p t).pc ∧ (v.thr p t).exc.fpc = BitVec.ofNat 14 (s.thr p t).pc
    ∧ (v.thr p t).exc.double = ((s.thr p t).st = .handler : Bool)
    ∧ ((s.thr p t).st = .run → (s.thr p t).handlerOn = true →
        (v.thr p t).st = .handler ∧ (v.thr p t).pc = (s.thr p t).handlerPc.toNat)
    ∧ ((s.thr p t).st = .handler ∨ (s.thr p t).handlerOn = false → (v.thr p t).st = .faulted)
    ∧ (v.thr p t).s = (s.thr p t).s ∧ v.mem = s.mem

/-! ## Registers -/

/-- A write of the register acts by its access codes alone (R12): no field of it has an effect of its own, and no command
of its own reaches it. -/
def plainReg : Reg → Bool
  | .glb _ => false
  | .peg r => r = .evt
  | .hif _ => true
  | .capo (.tol _) => false
  | .capo .ctl => false
  | .capo .pwr => false
  | .capo _ => true
  | .spt (.temp _) => false
  | .spt (.mbCmd _) => false
  | .spt (.logSel _) => false
  | .spt _ => true
  | .tpc _ => true
  | .drn .cnt => true
  | .drn (.jobSt _) => true
  | .drn _ => false
  | .hbm _ _ => true
  | .slice _ r => r ≠ .bankPd
  | .brg _ _ => true
  | .sys .ctl => false
  | .sys (.winBase _) => false
  | .sys (.winLim _) => false
  | .sys (.winCtl _) => false
  | .sys (.rcCfg _) => false
  | .sys (.rcTab _) => false
  | .sys (.rcRes _) => false
  | .sys (.rcRtab _) => false
  | .sys (.rcArm _) => false
  | .sys _ => true
  | .cxl r => r ≠ .cfg
  | .pa _ .ctrl => false
  | .pa _ (.thExc _) => false
  | .pa _ (.thHandler _) => false
  | .pa _ .ovtSnap => false
  | .pa _ .bowCfg => false
  | .pa _ _ => true
  | .frb (.rw _ _) => false
  | .frb (.hw _) => false
  | .frb (.rctl _ _) => false
  | .frb (.hctl _) => false
  | .frb _ => true
  | .ovt .ctl => false
  | .ovt .winCfg => false
  | .ovt _ => true

/-- `u` is `s` with the bits of register `r` that the write of `v` reaches changed, and nothing else; a W1C bit among `ties`,
which hardware sets in the same cycle, stays as it is (R15). -/
def writtenAs (r : Reg) (v ties : Word) (s u : State) : Prop :=
  u = { s with ctl := u.ctl } ∧ (∀ o, o ≠ r.off → sget regReset u.ctl o = sget regReset s.ctl o)
    ∧ ∀ i, bit (u.reg r) i =
      if bit r.spec.rw i then bit v i else bit (s.reg r) i && !(bit r.spec.w1c i && bit v i && !bit ties i)

/-! ## Host requests -/

/-- The header and body of a host's protected datagram. -/
def hostBody : Instr → Option (GHdr × GhtBody)
  | .regRead h l => some (h, .regRead l)
  | .regWrite h l => some (h, .regWrite l)
  | .memRead h a n c => some (h, .memRead a n c)
  | .memWrite h a c d => some (h, .memWrite a c d)
  | .keyWrite h b o d => some (h, .keyWrite b o d)
  | .doorbell h a v => some (h, .doorbell a v)
  | .watch h a i => some (h, .watch a i)
  | .unwatch h i => some (h, .unwatch i)
  | .progLoad h a n => some (h, .progLoad a n)
  | .progUnload h => some (h, .progUnload)
  | .progCancel h => some (h, .progCancel)
  | .attest h n => some (h, .attest n)
  | .macsecKey h u a i k j l => some (h, .macsecKey u a i k j l)
  | .exportResend h c o n => some (h, .exportResend c o n)
  | .answerBegin h c d => some (h, .answerBegin c d)
  | .answerData h c o d => some (h, .answerData c o d)
  | .answerEnd h c => some (h, .answerEnd c)
  | .decline h c => some (h, .decline c)
  | .eventAck h n => some (h, .eventAck n)
  | .ping h => some (h, .ping)
  | .close h false => some (h, .close)
  | .unlistedMessageType h t => some (h, .unlisted t)
  | _ => none

/-- No open session is near the end of its seqs (R310). -/
def seqsLeft (s : State) : Bool :=
  s.host.sessions.toList.all fun o => o.all fun y => y.tx + 2 ^ 32 ≤ 2 ^ 40 && y.top + 2 ^ 32 ≤ 2 ^ 40

/-- A datagram with header `h` is accepted by session `x` of slot `k` (R307 to R310, R317): its port takes it, it is authentic and
its seq is new, its req_id is new, nothing else of a host is in progress, and no session is near the end of its seqs. -/
def arrives (s : State) (h : GHdr) (k : Fin 16) (x : Session) : Bool :=
  datagramTaken s h.toDatagram && findSid s h.sid = some k && s.sess k = some x && slotPort k = h.port && h.outerOk && h.authOk
    && !seqRefused x h.seq && h.seq + 2 ^ 32 ≤ 2 ^ 40 && x.record.all (·.1 ≠ h.reqId) && !staleId x h.reqId
    && !h.tie && s.host.ended.isEmpty && seqsLeft s && s.host.sessions.toList.all fun o => o.all (·.busy.isEmpty)

/-- The request that the datagram carries runs (R317, R404, R425): its body has the form of its message, the session's role
may send it, the device is awake for it, and a Soundpost serves it. -/
def hosted (s : State) (h : GHdr) (b : GhtBody) (k : Fin 16) (x : Session) : Bool :=
  arrives s h k x && b.fits && h.bodyOk && (x.control || b.observer) && !(asleep s && needsWake b) && soundpostServes s b

/-- The state in which such a request runs: its datagram is counted, its seq accepted, and it is in progress. -/
def received (s : State) (h : GHdr) (b : GhtBody) (k : Fin 16) (x : Session) : State :=
  let q : Req := {
    id := h.reqId, fence := h.fence || b.fenced, started := true, body := b, peer := sourceOf h.toFrame, ties := h.ties }
  (ethIn s h.port (48 + b.size)).setSess k (some { acceptSeq x h.seq with busy := [q] })

/-- The request of header `h` has completed in the session of slot `k`: its response is the last message that left, and the
completion record names it. -/
def answered (u : State) (h : GHdr) (k : Fin 16) (st : Status) (detail : Nat) (data : List Byte) : Prop :=
  (∃ d seq, d.peer = sourceOf h.toFrame ∧ u.outbox.getLast? = some (.response d h.sid seq h.reqId st (BitVec.ofNat 16 detail) data))
    ∧ ∃ y, u.sess k = some y ∧ y.busy = [] ∧ y.record.head? = some (h.reqId, st, BitVec.ofNat 16 detail)

/-- The session that asks. -/
def askerOf (h : GHdr) (x : Session) : Asker := { port := h.port, sid := h.sid, control := x.control }

/-- Register `r` is the one that a session addresses with `a`, and its read has no effect and is not denied (R318, R393,
R395). -/
def hostReads (w : Asker) (a : Word) (r : Reg) : Bool :=
  a.toNat % 8 = 0 && ctlBase ≤ a.toNat && a.toNat < ctlBase + 0x2000000 && Reg.at? (a.toNat - ctlBase) = some r
    && match r with
      | .peg (.lock _) => false
      | .drn q => q = .stat || q = .cnt
      | .spt q => !otherPorts w q
      | _ => true

/-- Register `r` is the one that a session addresses with `a`, and its write acts by its access codes alone and is not
denied. -/
def hostWrites (w : Asker) (a : Word) (r : Reg) : Bool :=
  hostReads w a r && plainReg r && (match r with | .drn q => q = .cnt | .tpc (.phycal _ _) => false | _ => true)

/-- The home of a requester's access of class `c` is reached and takes it: an SPM has room for its write (R95, R96), and the
slices of its units take it (R256, R263). -/
def homeTakes (s : State) (rq : Requester) (c : StreamClass) (a : Nat) (acc : Access) : Bool :=
  let room := match acc with
    | .read _ => true
    | _ => mergeFits s a (accLen acc)
  !homeDown s a && room && (hbmEnd ≤ a || (passSlices rq s a acc c).1.isSome)

/-- A host's access is performed (R318): nothing refuses it, and its home takes it. -/
def hostTakes (s : State) (e : EPort) (c : StreamClass) (a : Nat) (acc : Access) : Bool :=
  let wr := match acc with
    | .read _ => false
    | _ => true
  memRefusal s a (accLen acc) wr = none && homeTakes s (.host e) c a acc

end Sys2Proof.Machine
end

