-- ==== Sys2Proof/Certificates/Slice0/Obligations.lean ====
section
/-! DEFINITION. The statements for the provers, by family of commands. -/

open Sys2Proof Sys2Proof.Machine

/-! ## The queue, time and reset -/

/-- O1. A step runs the command at the front of the queue on the state with the queue's rest. -/
def Obligations.StepRunsFront : Prop :=
  ∀ (c : Instr) (q : List Instr) (s : State), step { s with pending := c :: q } = exec c { s with pending := q }

/-- O2. A step on an empty queue is a tick: it passes one PA cycle (log entry 1, the model's choice), in which every PA
whose clock runs counts OVT_CYCLE (R434) and nothing but the time, the PAs' cycles and Overtone's counters changes; then the
Fretboard moves its packets by one cycle, requests of hosts and of Bridge peers that their homes held are tried again (log entry
80), and withdrawals of windows whose accesses are over are answered. -/
def Obligations.EmptyQueueTicks : Prop :=
  ∀ s : State, s.pending = [] → ∃ v, v.now = s.now + 4
    ∧ v = { s with now := v.now, ctl := v.ctl, pas := v.pas }
    ∧ (∀ p, (v.pa p).cycle = (s.pa p).cycle + if paClocked s p then 1 else 0)
    ∧ (∀ p, paClocked s p = true → v.reg (.pa p .ovtCycle) = addCycle (s.reg (.pa p .ovtCycle)) 1)
    ∧ (∀ p t, v.thr p t = s.thr p t)
    ∧ (∀ o, (∀ p, counterOf p o = false) → sget regReset v.ctl o = sget regReset s.ctl o)
    ∧ (let w := if anyHeld s then settleSessions (netCycle v) else netCycle v
      let x := if w.brg.owed.isEmpty then w else settleOwed w
      step s = .next (if x.brg.withdrawing.isEmpty then x else settleWithdraw x))

/-- O3. Every command is answered with a next state: no command stops the machine. -/
def Obligations.EveryCommandAnswered : Prop :=
  ∀ (c : Instr) (s : State), ∃ u, exec c s = .next u

/-- O4. What reset leaves (R334, R434, R332, R432, R362, Table 10.10): every Peg cell free with gen 0, no session, no
program, every thread idle, and each of these registers at the reset value that its table gives. -/
def Obligations.ResetValues : Prop :=
  (∀ i : Fin 64, State.reset.host.peg[i] = 0)
    ∧ (∀ i : Fin 16, State.reset.host.sessions[i] = none)
    ∧ State.reset.rp.prog = none
    ∧ (∀ p t, (State.reset.thr p t).st = .idle)
    ∧ (∀ r : Reg, State.reset.reg r = regReset r.off)
    ∧ regReset (Reg.glb .id).off = 0x000000B0824011B0
    ∧ regReset (Reg.glb .version).off = 0x0102
    ∧ regReset (Reg.glb .topo).off = 0x88A498908
    ∧ (∀ e : EPort, regReset (Reg.capo (.tol e)).off = 0xFFFFFFFF)
    ∧ (∀ e : EPort, regReset (Reg.hif (.portCfg e)).off = 1)
    ∧ (∀ p : Pa, regReset (Reg.pa p .ovtCtl).off = 1)
    ∧ ∀ s : Fin 32, regReset (Reg.frb (.hw s)).off = 0x2020202020202020

/-- O5. At reset the memory is in canonical form. -/
def Obligations.ResetMemoryCanonical : Prop := Memory.wf State.reset.mem.bytes = true

/-- O6. Every step keeps the memory in canonical form: addresses strictly rising, and no listed byte that reads as an
unlisted one. -/
def Obligations.StepKeepsMemoryCanonical : Prop :=
  ∀ s u : State, Memory.wf s.mem.bytes = true → step s = .next u → Memory.wf u.mem.bytes = true

/-! ## Scalar and address instructions (R116, R117, Tables 4.10 and 4.11) -/

/-- O7. The operations of group 1 in Table 4.10 (R117): the destination takes the result, which wraps, from rs2 or the
immediate as fmt says, and the thread goes on in sequence with no exception; a divide needs the PA's divider to be free and
keeps it busy for 18 cycles, and division by zero gives the results of Table 4.11. A destination of s0 takes nothing. -/
def Obligations.ScalarResults : Prop :=
  (∀ e ∈ ([(Instr.add, 0x00, fun x y => x + y), (Instr.sub, 0x01, fun x y => x - y),
      (Instr.andS, 0x02, fun x y => x &&& y), (Instr.orS, 0x03, fun x y => x ||| y),
      (Instr.xorS, 0x04, fun x y => x ^^^ y), (Instr.shl, 0x05, fun x y => x <<< (y.toNat % 64)),
      (Instr.shr, 0x06, fun x y => x >>> (y.toNat % 64)), (Instr.sra, 0x07, fun x y => x.sshiftRight (y.toNat % 64)),
      (Instr.slt, 0x08, fun x y => if x.toInt < y.toInt then 1 else 0),
      (Instr.sltu, 0x09, fun x y => if x.toNat < y.toNat then 1 else 0),
      (Instr.minS, 0x0A, fun x y => if x.toInt ≤ y.toInt then x else y),
      (Instr.maxS, 0x0B, fun x y => if x.toInt ≤ y.toInt then y else x),
      (Instr.minu, 0x0C, fun x y => if x.toNat ≤ y.toNat then x else y),
      (Instr.maxu, 0x0D, fun x y => if x.toNat ≤ y.toNat then y else x),
      (Instr.mul, 0x10, fun x y => BitVec.ofNat 64 (x.toNat * y.toNat)),
      (Instr.mulhu, 0x11, fun x y => BitVec.ofNat 64 (x.toNat * y.toNat / 2 ^ 64)),
      (Instr.mulh, 0x12, fun x y => BitVec.ofInt 64 (x.toInt * y.toInt / 2 ^ 64))]
        : List ((Pa → Thr → IWord → Instr) × Nat × (Word → Word → Word))),
    ∀ (p : Pa) (t : Thr) (w : IWord) (s : State),
      ready 1 e.2.1 p t w (aluRegs w) s = true → formOk [0, 1] w = true →
      ∃ u, exec (e.1 p t w) s = .next u ∧ (u.thr p t).exc = (s.thr p t).exc ∧ (u.thr p t).st = (s.thr p t).st ∧
        ranAs p t (s.ws p t (wRd w) (e.2.2 ((s.thr p t).rs (wRs1 w))
          (if wFmt w = 0 then (s.thr p t).rs (wRs2 w) else wImm64 w))) u)
  ∧ ∀ e ∈ ([(Instr.divu, 0x14, fun x y => if y = 0 then BitVec.allOnes 64 else BitVec.ofNat 64 (x.toNat / y.toNat)),
      (Instr.remu, 0x15, fun x y => if y = 0 then x else BitVec.ofNat 64 (x.toNat % y.toNat)),
      (Instr.divS, 0x16, fun x y => if y = 0 then BitVec.allOnes 64 else BitVec.ofInt 64 (x.toInt.tdiv y.toInt)),
      (Instr.rem, 0x17, fun x y => if y = 0 then x else BitVec.ofInt 64 (x.toInt.tmod y.toInt))]
        : List ((Pa → Thr → IWord → Instr) × Nat × (Word → Word → Word))),
    ∀ (p : Pa) (t : Thr) (w : IWord) (s : State),
      ready 1 e.2.1 p t w (aluRegs w) s = true → formOk [0, 1] w = true → (s.pa p).divTo ≤ (s.pa p).cycle →
      ∃ u, exec (e.1 p t w) s = .next u ∧ (u.thr p t).exc = (s.thr p t).exc ∧ (u.thr p t).st = (s.thr p t).st ∧
        ranAs p t ((s.modPa p fun x => { x with divTo := x.cycle + 18 }).ws p t (wRd w)
          (e.2.2 ((s.thr p t).rs (wRs1 w)) (if wFmt w = 0 then (s.thr p t).rs (wRs2 w) else wImm64 w))) u

/-- O8. Forms that Table 4.10 does not give (R115, R116): an operation of group 1 or AADD with a fmt other than 0 and 1, or
a reserved bit set, and AMOV or AGET with a fmt other than 0, a reserved bit set or rs2 not zero, takes EXC_ILLEGAL,
which changes no scalar register of the thread and no byte of memory. -/
def Obligations.ScalarFormRefusals : Prop :=
  (∀ e ∈ ([(Instr.add, 1, 0x00), (Instr.sub, 1, 0x01), (Instr.andS, 1, 0x02), (Instr.orS, 1, 0x03), (Instr.xorS, 1, 0x04),
      (Instr.shl, 1, 0x05), (Instr.shr, 1, 0x06), (Instr.sra, 1, 0x07), (Instr.slt, 1, 0x08), (Instr.sltu, 1, 0x09),
      (Instr.minS, 1, 0x0A), (Instr.maxS, 1, 0x0B), (Instr.minu, 1, 0x0C), (Instr.maxu, 1, 0x0D), (Instr.mul, 1, 0x10),
      (Instr.mulhu, 1, 0x11), (Instr.mulh, 1, 0x12), (Instr.divu, 1, 0x14), (Instr.remu, 1, 0x15), (Instr.divS, 1, 0x16),
      (Instr.rem, 1, 0x17), (Instr.aadd, 2, 0x00)] : List ((Pa → Thr → IWord → Instr) × Nat × Nat)),
    ∀ (p : Pa) (t : Thr) (w : IWord) (s : State), ready e.2.1 e.2.2 p t w [] s = true → formOk [0, 1] w = false →
      ∃ u, exec (e.1 p t w) s = .next u ∧ tookIllegal p t s u)
  ∧ ∀ e ∈ ([(Instr.amov, 0x01), (Instr.aget, 0x02)] : List ((Pa → Thr → IWord → Instr) × Nat)),
    ∀ (p : Pa) (t : Thr) (w : IWord) (s : State), ready 2 e.2 p t w [] s = true →
      formOk [0] w = false ∨ wRs2 w ≠ 0 → ∃ u, exec (e.1 p t w) s = .next u ∧ tookIllegal p t s u

/-- O9. AADD adds and wraps, AMOV and AGET move between the scalar and the address registers. -/
def Obligations.AddressRegisterResults : Prop :=
  (∀ (p : Pa) (t : Thr) (w : IWord) (s : State),
      ready 2 0x00 p t w ([.a (fa (wRd w)), .a (fa (wRs1 w))] ++ if wFmt w = 0 then [.s (fs (wRs2 w))] else []) s = true →
      formOk [0, 1] w = true → wRd w < 16 → wRs1 w < 16 →
      ∃ u, exec (.aadd p t w) s = .next u ∧ ranAs p t (s.modThr p t fun y => y.wa (wRd w)
        (y.ra (wRs1 w) + if wFmt w = 0 then y.rs (wRs2 w) else wImm64 w)) u)
  ∧ (∀ (p : Pa) (t : Thr) (w : IWord) (s : State),
      ready 2 0x01 p t w [.a (fa (wRd w)), .s (fs (wRs1 w))] s = true →
      formOk [0] w = true → wRs2 w = 0 → wRd w < 16 →
      ∃ u, exec (.amov p t w) s = .next u ∧ ranAs p t (s.modThr p t fun y => y.wa (wRd w) (y.rs (wRs1 w))) u)
  ∧ ∀ (p : Pa) (t : Thr) (w : IWord) (s : State),
      ready 2 0x02 p t w [.s (fs (wRd w)), .a (fa (wRs1 w))] s = true →
      formOk [0] w = true → wRs2 w = 0 → wRs1 w < 16 →
      ∃ u, exec (.aget p t w) s = .next u ∧ ranAs p t (s.ws p t (wRd w) ((s.thr p t).ra (wRs1 w))) u

/-- O10. The frame of the scalar operations of group 1: every scalar register but rd, every other register file and the
exceptions of the thread, the instructions in flight, every byte of memory, every other thread and PA and every control register but the PA's Overtone
counters is as before. -/
def Obligations.ScalarFrame : Prop :=
  ∀ e ∈ ([(Instr.add, 0x00), (Instr.sub, 0x01), (Instr.andS, 0x02), (Instr.orS, 0x03), (Instr.xorS, 0x04),
      (Instr.shl, 0x05), (Instr.shr, 0x06), (Instr.sra, 0x07), (Instr.slt, 0x08), (Instr.sltu, 0x09), (Instr.minS, 0x0A),
      (Instr.maxS, 0x0B), (Instr.minu, 0x0C), (Instr.maxu, 0x0D), (Instr.mul, 0x10), (Instr.mulhu, 0x11),
      (Instr.mulh, 0x12), (Instr.divu, 0x14), (Instr.remu, 0x15), (Instr.divS, 0x16), (Instr.rem, 0x17)]
        : List ((Pa → Thr → IWord → Instr) × Nat)),
    ∀ (p : Pa) (t : Thr) (w : IWord) (s u : State),
      ready 1 e.2 p t w (aluRegs w) s = true → formOk [0, 1] w = true → exec (e.1 p t w) s = .next u →
      (∀ r, r ≠ wRd w → (u.thr p t).rs r = (s.thr p t).rs r)
        ∧ (u.thr p t).rs 0 = 0
        ∧ (u.thr p t).a = (s.thr p t).a ∧ (u.thr p t).c = (s.thr p t).c ∧ (u.thr p t).k = (s.thr p t).k
        ∧ (u.thr p t).q = (s.thr p t).q ∧ (u.thr p t).m = (s.thr p t).m ∧ (u.thr p t).exc = (s.thr p t).exc
        ∧ (u.thr p t).st = (s.thr p t).st
        ∧ bytesKept s u 0 0 ∧ othersKept p t s u
        ∧ (u.pa p).tiles = (s.pa p).tiles ∧ (u.pa p).accs = (s.pa p).accs ∧ inFlight p [] s u
        ∧ u.outbox = s.outbox

/-! ## Control flow and threads (R112, R124 to R128, R137) -/

/-- O11. B, JAL and JR (Table 4.15): a taken branch or jump sets pc to its target, pops the loops whose body does not
contain it (R128), and JAL and JR write pc + 1 to rd. A target of JR beyond IMEM raises EXC_ILLEGAL (not stated here). -/
def Obligations.BranchesAndJumps : Prop :=
  (∀ (p : Pa) (t : Thr) (w : IWord) (s : State),
      ready 0 0x02 p t w [.s (fs (wRs1 w)), .s (fs (wRs2 w))] s = true → formOk [2] w = true → wCond w ≤ 5 →
      let x := (s.thr p t).rs (wRs1 w)
      let y := (s.thr p t).rs (wRs2 w)
      let taken := (wCond w = 0 ∧ x = y) ∨ (wCond w = 1 ∧ x ≠ y) ∨ (wCond w = 2 ∧ x.toInt < y.toInt)
        ∨ (wCond w = 3 ∧ y.toInt ≤ x.toInt) ∨ (wCond w = 4 ∧ x.toNat < y.toNat) ∨ (wCond w = 5 ∧ y.toNat ≤ x.toNat)
      ∃ u, exec (.branch p t w) s = .next u
        ∧ (taken → issuedAs p t (s.modThr p t fun y => y.jump (wTarget w)) u ∧ (u.thr p t).pc = wTarget w)
        ∧ (¬ taken → ranAs p t s u))
  ∧ (∀ (p : Pa) (t : Thr) (w : IWord) (s : State),
      ready 0 0x03 p t w [.s (fs (wRd w))] s = true → formOk [1] w = true → (wImm64 w).toNat < 16384 →
      ∃ u, exec (.jal p t w) s = .next u ∧ (u.thr p t).pc = (wImm64 w).toNat
        ∧ (u.thr p t).rs (wRd w) = (if wRd w = 0 then 0 else BitVec.ofNat 64 ((s.thr p t).pc + 1))
        ∧ issuedAs p t (s.modThr p t fun y =>
            (y.ws (wRd w) (BitVec.ofNat 64 (y.pc + 1))).jump (wImm64 w).toNat) u)
  ∧ ∀ (p : Pa) (t : Thr) (w : IWord) (s : State),
      ready 0 0x04 p t w [.s (fs (wRd w)), .s (fs (wRs1 w))] s = true → formOk [0] w = true →
      ((s.thr p t).rs (wRs1 w)).toNat < 16384 →
      ∃ u, exec (.jr p t w) s = .next u ∧ (u.thr p t).pc = ((s.thr p t).rs (wRs1 w)).toNat
        ∧ (u.thr p t).rs (wRd w) = (if wRd w = 0 then 0 else BitVec.ofNat 64 ((s.thr p t).pc + 1))
        ∧ issuedAs p t (s.modThr p t fun y =>
            (y.ws (wRd w) (BitVec.ofNat 64 (y.pc + 1))).jump ((s.thr p t).rs (wRs1 w)).toNat) u

/-- O12. LOOP (R126): a count above zero pushes a loop whose body starts at the next word, with that count and index 0; a
count of zero opens none, and the thread goes on as if the word at end had issued and were no taken branch. A register
count above 0xFFFF_FFFF, an end that is not above pc, a fifth loop, and an end beyond the innermost loop's take
EXC_ILLEGAL. -/
def Obligations.LoopEntry : Prop :=
  ∀ (p : Pa) (t : Thr) (w : IWord) (s : State),
    ready 0 0x08 p t w (if wLoopSrc w then [] else [.s (fs (wRd w))]) s = true → formOk [3] w = true →
    let y := s.thr p t
    let n := if wLoopSrc w then wLoopImm w else (y.rs (wRd w)).toNat
    (n ≤ 0xFFFFFFFF → y.st = .run → y.pc < wTarget w → y.loops.length < 4 →
      (∀ l, y.loops.head? = some l → wTarget w ≤ l.last) →
      ∃ u, exec (.loop p t w) s = .next u
        ∧ (0 < n → ranAs p t (s.modThr p t fun y =>
            { y with loops := { start := y.pc + 1, last := wTarget w, remaining := n, index := 0 } :: y.loops }) u)
        ∧ (n = 0 → issuedAs p t (s.modThr p t fun y => y.skipLoop (wTarget w)) u
          ∧ ((u.thr p t).pc, (u.thr p t).loops) = nextPc { y with pc := wTarget w }))
    ∧ (0xFFFFFFFF < n ∨ wTarget w ≤ y.pc ∨ 4 ≤ y.loops.length ∨ (∃ l, y.loops.head? = some l ∧ l.last < wTarget w) →
      ∃ u, exec (.loop p t w) s = .next u ∧ tookIllegal p t s u)

/-- O13. The step of the innermost loop (R127), in run state: at its end word, remaining above 1 falls by 1, the index
rises by 1 and pc becomes the start; else the loop is popped, and pc becomes end + 1 or, where the next loop out ends at the
same word, what that loop's step gives. Outside the end word no loop steps, nor in handler state (R136). What a register
holds plays no part, and an instruction that issues and is no branch, such as NOP, goes on so. -/
def Obligations.LoopStep : Prop :=
  (∀ (y : Thread) (l : Loop) (r : List Loop), y.loops = l :: r →
    (y.st = .run → l.last = y.pc → 1 < l.remaining →
      nextPc y = (l.start, { l with remaining := l.remaining - 1, index := l.index + 1 } :: r))
    ∧ (y.st = .run → l.last = y.pc → l.remaining ≤ 1 →
      nextPc y = nextPc { y with loops := r } ∧ ((∀ m, r.head? = some m → m.last ≠ y.pc) → nextPc y = (y.pc + 1, r)))
    ∧ (y.st = .run → l.last ≠ y.pc → nextPc y = (y.pc + 1, l :: r))
    ∧ (y.st = .handler → nextPc y = (y.pc + 1, l :: r))
    ∧ ∀ (i : Nat) (v : Word), nextPc (y.ws i v) = nextPc y)
  ∧ ∀ (p : Pa) (t : Thr) (w : IWord) (s : State), ready 0 0x00 p t w [] s = true → formOk [0] w = true →
      ∃ u, exec (.nop p t w) s = .next u ∧ ((u.thr p t).pc, (u.thr p t).loops) = nextPc (s.thr p t)

/-- O14. NOP has no effect; YIELD moves issue to the next ready thread; TSTART starts an idle or ended thread with its
registers as they stand; TEND cancels the thread's run-ahead: its commands leave the
queue but for those that have had all their units requested and those that feed an instruction in flight (R112, R124, R250). -/
def Obligations.ThreadCommands : Prop :=
  (∀ (p : Pa) (t : Thr) (w : IWord) (s : State), ready 0 0x00 p t w [] s = true → formOk [0] w = true →
      ∃ u, exec (.nop p t w) s = .next u ∧ ranAs p t s u)
  ∧ (∀ (p : Pa) (t : Thr) (w : IWord) (s : State), ready 0 0x12 p t w [] s = true → formOk [0] w = true →
      ∃ v, exec (.yield p t w) s = .next (v.modPa p seek) ∧ ranAs p t s v)
  ∧ (∀ (p : Pa) (t : Thr) (w : IWord) (s : State), ready 0 0x11 p t w [.s (fs (wRs1 w))] s = true →
      formOk [1] w = true →
      ∀ v : Thr, ((s.thr p t).rs (wRs1 w)).toNat = v.val → v ≠ t →
        (s.thr p v).st = .idle ∨ (s.thr p v).st = .ended →
        ∃ u, exec (.tstart p t w) s = .next u ∧ (u.thr p v).st = .run
          ∧ (u.thr p v).pc = (wImm64 w).toNat % 16384 ∧ (u.thr p v).s = (s.thr p v).s ∧ (u.thr p v).c = (s.thr p v).c
          ∧ ranAs p t (s.modThr p v fun z => z.start ((wImm64 w).toNat % 16384)) u)
  ∧ ∀ (p : Pa) (t : Thr) (w : IWord) (s : State), ready 0 0x10 p t w [] s = true → formOk [0] w = true →
      ∃ u, exec (.tend p t w) s = .next u
        ∧ ranAs p t (s.modPa p fun x => cancelBow t (x.modThr t fun y => { y with ending := true })) u
        ∧ (∀ c ∈ (u.pa p).bow.queue, c.thr = t → c.left = [] ∨ feeds (s.pa p) c.id = true)

/-- O15. THREAD_END (R112): a thread that issued TEND with nothing in flight enters ended state and gives up the releases
it held; then waiters at barriers and the program settle. ISSUE_QUANTUM_EXPIRY (R97): after 256 cycles of one thread
with another thread ready, issue moves on to the next ready thread; with none ready, nothing changes. -/
def Obligations.ThreadEndAndQuantum : Prop :=
  (∀ (p : Pa) (t : Thr) (s : State), endReady (s.pa p) t = true →
      ∃ v, exec (.threadEnd p t) s = .next (settlePa v p t)
        ∧ (v.thr p t).st = .ended ∧ (v.thr p t).held = [] ∧ (v.thr p t).released = none ∧ (v.thr p t).s = (s.thr p t).s ∧ v.mem = s.mem)
  ∧ ∀ (p : Pa) (s : State), 256 ≤ (s.pa p).runLen →
      (∀ v, nextReady s p = some v → v ≠ (s.pa p).cur →
        exec (.issueQuantumExpiry p) s = .next (s.modPa p fun x => { x with seeking := true })
          ∧ holder (s.modPa p fun x => { x with seeking := true }) p = some v)
      ∧ (otherReady s p = false → exec (.issueQuantumExpiry p) s = .next s)

/-- O16. ERET and ERETN (R137): the thread returns to run state at epc, or at the instruction after epc with a loop step
if epc is a loop end; ERETN gives up the releases held (log entry 40). -/
def Obligations.HandlerReturns : Prop :=
  (∀ (p : Pa) (t : Thr) (w : IWord) (s : State), ready 0 0x18 p t w [] s = true → formOk [0] w = true →
      (s.thr p t).st = .handler →
      ∃ u, exec (.eret p t w) s = .next u ∧ (u.thr p t).st = .run ∧ (u.thr p t).pc = (s.thr p t).exc.epc.toNat
        ∧ (u.thr p t).loops = (s.thr p t).loops
        ∧ issuedAs p t (s.modThr p t fun y => y.back y.exc.epc.toNat y.loops) u)
  ∧ ∀ (p : Pa) (t : Thr) (w : IWord) (s : State), ready 0 0x19 p t w [] s = true → formOk [0] w = true →
      (s.thr p t).st = .handler →
      ∃ u, exec (.eretn p t w) s = .next u ∧ (u.thr p t).st = .run
        ∧ ((u.thr p t).pc, (u.thr p t).loops) = nextPc { s.thr p t with st := .run, pc := (s.thr p t).exc.epc.toNat }
        ∧ issuedAs p t (s.modThr p t fun y =>
            { y.back (stepLoops y.exc.epc.toNat y.loops).1 (stepLoops y.exc.epc.toNat y.loops).2 with
              held := [], released := none }) u

/-- O17. SRD (R125): every selector of Table 4.16 is read into rd, for the next instruction to use; any other takes
EXC_ILLEGAL. -/
def Obligations.SpecialReads : Prop :=
  ∀ (p : Pa) (t : Thr) (w : IWord) (s : State), ready 0 0x20 p t w [.s (fs (wRd w))] s = true → formOk [1] w = true →
    let k := (wImm64 w).toNat
    let y := s.thr p t
    (∀ v : Word,
      ((k = 0 ∧ v = BitVec.ofNat 64 (p.val * 8 + t.val)) ∨ (k = 1 ∧ v = BitVec.ofNat 64 p.val)
        ∨ (k = 2 ∧ v = BitVec.ofNat 64 t.val) ∨ (k = 3 ∧ v = s.reg (.pa p .ovtCycle)) ∨ (k = 4 ∧ v = excWord y.exc)
        ∨ (k = 5 ∧ v = epcWord y.exc) ∨ (k = 6 ∧ v = BitVec.ofNat 64 y.exc.addr.toNat)
        ∨ (∃ n : Fin 4, k = 8 + n ∧ v = wisCapWord n)
        ∨ (∃ n : Fin 4, k = 12 + n ∧ v = ((y.loops[n.val]?).map fun l => BitVec.ofNat 64 l.index).getD 0)
        ∨ (k = 16 ∧ v = BitVec.ofNat 64 y.loops.length) ∨ (k = 17 ∧ v = readGlb s .devaddr)) →
      ∃ u, exec (.srd p t w) s = .next u ∧ ranAs p t (s.ws p t (wRd w) v) u)
    ∧ (k = 7 ∨ 18 ≤ k → ∃ u, exec (.srd p t w) s = .next u ∧ tookIllegal p t s u)

/-! ## Descriptor, key, queue and mask registers (R122, R123, R181, R286) -/

/-- O18. The moves of group 4: CMOV copies a checked descriptor, CGET extracts a field of Table 4.14, CBASE replaces a
base whose footprint passes R42, KLD and QSEL load handles, KMOV and QMOV copy valid ones, MSET and MGET move masks. -/
def Obligations.HandleMoves : Prop :=
  (∀ (p : Pa) (t : Thr) (w : IWord) (s : State),
      ready 4 0x00 p t w [.c (fa (wRd w)), .c (fa (wRs1 w))] s = true → formOk [0] w = true → wRd w < 16 → wRs1 w < 16 →
      malformed s ((s.thr p t).rc (wRs1 w)) = false → dPoisoned ((s.thr p t).rc (wRs1 w)) = false →
      ∃ u, exec (.cmov p t w) s = .next u ∧ ranAs p t (s.modThr p t fun y => y.wc (wRd w) (y.rc (wRs1 w))) u)
  ∧ (∀ (p : Pa) (t : Thr) (w : IWord) (s : State) (v : Nat),
      ready 4 0x01 p t w [.s (fs (wRd w)), .c (fa (wRs1 w))] s = true → formOk [1] w = true → wRs1 w < 16 →
      malformed s ((s.thr p t).rc (wRs1 w)) = false → dPoisoned ((s.thr p t).rc (wRs1 w)) = false →
      cgetField ((s.thr p t).rc (wRs1 w)) (wImm64 w).toNat = some v →
      ∃ u, exec (.cget p t w) s = .next u ∧ ranAs p t (s.ws p t (wRd w) (BitVec.ofNat 64 v)) u)
  ∧ (∀ (p : Pa) (t : Thr) (w : IWord) (s : State),
      ready 4 0x02 p t w [.c (fa (wRd w)), .a (fa (wRs1 w))] s = true → formOk [0] w = true → wRd w < 16 →
      wRs1 w < 16 → let d := (s.thr p t).rc (wRd w)
      let b := ((s.thr p t).ra (wRs1 w)).setWidth 48
      malformed s d = false → dPoisoned d = false → b.toNat % 4096 = 0 → populated s b.toNat (objBytes s d) false = true →
      ∃ u, exec (.cbase p t w) s = .next u ∧ ranAs p t (s.modThr p t fun y => y.wc (wRd w) (withBase d b)) u
        ∧ inFlight p [] s u)
  ∧ (∀ (p : Pa) (t : Thr) (w : IWord) (s : State),
      ready 4 0x08 p t w [.k (Fin.ofNat 8 (wRd w))] s = true → formOk [1] w = true → wRd w < 8 →
      (wImm64 w).toNat < s.rp.keys.length → (wImm64 w).toNat < 4096 →
      ∃ u, exec (.kld p t w) s = .next u ∧ ranAs p t (s.modThr p t fun y =>
        { y with k := y.k.setIfInBounds (wRd w) (some (Fin.ofNat 4096 (wImm64 w).toNat)) }) u)
  ∧ (∀ (p : Pa) (t : Thr) (w : IWord) (s : State),
      ready 4 0x09 p t w [.k (Fin.ofNat 8 (wRd w)), .k (Fin.ofNat 8 (wRs1 w))] s = true → formOk [0] w = true →
      wRd w < 8 → wRs1 w < 8 → ((s.thr p t).k.toArray.getD (wRs1 w) none).isSome = true →
      ∃ u, exec (.kmov p t w) s = .next u ∧ ranAs p t (s.modThr p t fun y =>
        { y with k := y.k.setIfInBounds (wRd w) (y.k.toArray.getD (wRs1 w) none) }) u)
  ∧ (∀ (p : Pa) (t : Thr) (w : IWord) (s : State),
      ready 4 0x10 p t w [.q (Fin.ofNat 8 (wRd w))] s = true → formOk [1] w = true → wRd w < 8 →
      let i := (wImm64 w).toNat
      (i < s.net.chans.length ∧ i < 1024) ∨ (1024 ≤ i ∧ i < 1024 + s.net.cqs.length ∧ i < 1088) →
      ∃ u, exec (.qsel p t w) s = .next u ∧ ranAs p t (s.modThr p t fun y =>
        { y with q := y.q.setIfInBounds (wRd w) (some (Fin.ofNat 1088 i)) }) u)
  ∧ (∀ (p : Pa) (t : Thr) (w : IWord) (s : State),
      ready 4 0x11 p t w [.q (Fin.ofNat 8 (wRd w)), .q (Fin.ofNat 8 (wRs1 w))] s = true → formOk [0] w = true →
      wRd w < 8 → wRs1 w < 8 → ((s.thr p t).q.toArray.getD (wRs1 w) none).isSome = true →
      ∃ u, exec (.qmov p t w) s = .next u ∧ ranAs p t (s.modThr p t fun y =>
        { y with q := y.q.setIfInBounds (wRd w) (y.q.toArray.getD (wRs1 w) none) }) u)
  ∧ (∀ (p : Pa) (t : Thr) (w : IWord) (s : State),
      ready 4 0x18 p t w [.m (Fin.ofNat 4 (wRd w)), .s (fs (wRs1 w))] s = true → formOk [0] w = true → wRd w < 4 →
      ∃ u, exec (.mset p t w) s = .next u ∧ ranAs p t (s.modThr p t fun y => y.wm (wRd w) (y.rs (wRs1 w))) u)
  ∧ ∀ (p : Pa) (t : Thr) (w : IWord) (s : State),
      ready 4 0x19 p t w [.s (fs (wRd w)), .m (Fin.ofNat 4 (wRs1 w))] s = true → formOk [0] w = true → wRs1 w < 4 →
      ∃ u, exec (.mget p t w) s = .next u ∧ ranAs p t (s.ws p t (wRd w) ((s.thr p t).rm (wRs1 w))) u

/-! ## Scalar memory and atomics (R118 to R121) -/

/-- O19. Loads and stores of the own SPM, of 1, 2, 4 and 8 bytes and of descriptors: nothing refuses the access, its
bytes are free of landings and of earlier results, one that writes a register has a footprint slot (R129), and a store finds
room in the merge buffer. A store's bytes are in
memory at issue, the value's low bytes at the address computed from ab and the offset, and every other byte is as before;
a load puts the value read in flight, and every byte of memory is as before. -/
def Obligations.OwnSpmAccess : Prop :=
  ∀ (p : Pa) (t : Thr) (w : IWord) (s : State) (n off : Nat),
    let a := memAddr (s.thr p t) w
    addrOk a = true → region s a.toNat = .spm p off → a.toNat % n = 0 → off + n ≤ spmSize → formOk [4] w = true →
    meets s p t (spmNeeds [(a.toNat - spmAddr p 0, n)] [] false) = true →
    (ready 3 0x00 p t w [.a (wMemAb w), .s (fs (wRd w))] s = true → wMemRc w = 0 → wMemSize w ≤ 3 →
        wRd w = 0 ∨ footprintsFull (s.pa p) t = false → n = 2 ^ wMemSize w → badAt s a.toNat n = none →
        ∃ u, exec (.ld p t w) s = .next u ∧ bytesKept s u 0 0
          ∧ ∃ o, sent p o s u ∧ o.thr = t ∧ o.answeredAll = true ∧ o.bad = none
          ∧ o.writes = [.s (fs (wRd w)) (loaded n (wMemSx w) (s.bytes a.toNat n))])
    ∧ (ready 3 0x01 p t w [.a (wMemAb w), .s (fs (wRd w))] s = true → wMemRc w = 0 → wMemSize w ≤ 3 →
        n = 2 ^ wMemSize w → mergeFits s a.toNat n = true →
        ∃ u, exec (.st p t w) s = .next u ∧ u.num a.toNat n = ((s.thr p t).rs (wRd w)).toNat % 256 ^ n
          ∧ bytesKept s u a.toNat n ∧ (u.thr p t).pc = (nextPc (s.thr p t)).1)
    ∧ (ready 3 0x02 p t w [.a (wMemAb w), .c (fa (wRd w))] s = true → wMemRc w = 0 → wMemSize w = 4 → n = 32 →
        wRd w < 16 → footprintsFull (s.pa p) t = false → badAt s a.toNat 32 = none →
        ∃ u, exec (.cld p t w) s = .next u ∧ bytesKept s u 0 0
          ∧ ∃ o, sent p o s u ∧ o.thr = t ∧ o.answeredAll = true ∧ o.bad = none
          ∧ o.writes = [.c (fa (wRd w)) (BitVec.ofNat 256 (s.num a.toNat 32))])
    ∧ (ready 3 0x03 p t w [.a (wMemAb w), .c (fa (wRd w))] s = true → wMemRc w = 0 → wMemSize w = 4 → n = 32 →
        wRd w < 16 → malformed s ((s.thr p t).rc (wRd w)) = false → dPoisoned ((s.thr p t).rc (wRd w)) = false →
        mergeFits s a.toNat 32 = true →
        ∃ u, exec (.cst p t w) s = .next u ∧ u.num a.toNat 32 = ((s.thr p t).rc (wRd w)).toNat
          ∧ bytesKept s u a.toNat 32)

/-- O20. An access outside the own SPM travels to its home: nothing refuses it (R118, R34, R36, R109, R120), a slot is free,
and the Fretboard and the bank of its home take it (R30, R263), so its instruction is in flight with the address, the size and the value or the operation it carries; no byte of
memory and no register has changed. -/
def Obligations.AccessTravels : Prop :=
  ∀ (p : Pa) (t : Thr) (w : IWord) (s : State) (n : Nat),
    let y := s.thr p t
    let a := memAddr y w
    formOk [4] w = true → ownSpm p a.toNat n = false →
    let travels := fun (i : Instr) (k : MemKind) =>
      let m : MemAcc := { addr := a.toNat, size := n, kind := k }
      meets s p t (awayNeeds s p m) = true → ∃ u, exec i s = .next u ∧ sent p (accOp t y k.defs m) s u
      ∧ bytesKept s u 0 0 ∧ u.thr p t = y.advance
    (ready 3 0x00 p t w [.a (wMemAb w), .s (fs (wRd w))] s = true → wMemRc w = 0 → wMemSize w ≤ 3 → n = 2 ^ wMemSize w →
        pickCause (accessCauses s p w a n false) = none → travels (.ld p t w) (.load (fs (wRd w)) (wMemSx w)))
    ∧ (ready 3 0x01 p t w [.a (wMemAb w), .s (fs (wRd w))] s = true → wMemRc w = 0 → wMemSize w ≤ 3 → n = 2 ^ wMemSize w →
        pickCause (accessCauses s p w a n true) = none → travels (.st p t w) (.store (y.rs (wRd w))))
    ∧ (ready 3 0x02 p t w [.a (wMemAb w), .c (fa (wRd w))] s = true → wMemRc w = 0 → wMemSize w = 4 → n = 32 →
        wRd w < 16 → pickCause (accessCauses s p w a 32 false) = none → travels (.cld p t w) (.loadDesc (fa (wRd w))))
    ∧ (ready 3 0x03 p t w [.a (wMemAb w), .c (fa (wRd w))] s = true → wMemRc w = 0 → wMemSize w = 4 → n = 32 →
        wRd w < 16 → malformed s (y.rc (wRd w)) = false → dPoisoned (y.rc (wRd w)) = false →
        pickCause (accessCauses s p w a 32 true) = none → travels (.cst p t w) (.storeDesc (y.rc (wRd w))))
    ∧ ∀ e ∈ ([(Instr.amoadd, 0x08, fun _ => .add), (Instr.amoswap, 0x09, fun _ => .swap), (Instr.amocas, 0x0A, .cas),
          (Instr.amomaxu, 0x0B, fun _ => .maxu)] : List ((Pa → Thr → IWord → Instr) × Nat × (Word → AtomicOp))),
        ready 3 e.2.1 p t w [.a (wMemAb w), .s (fs (wRd w)), .s (fs (wMemRc w))] s = true → wMemSize w = 3 → n = 8 →
        atomicIllegal a = false → pickCause (accessCauses s p w a 8 true) = none →
        travels (e.1 p t w) (.amo (e.2.2 (y.rs (wRd w))) (y.rs (wMemRc w)) (fs (wRd w)))

/-- O21. The atomics of Table 4.12 on a word of the own SPM: the word takes the sum, the operand, the operand where the
comparison holds, or the unsigned maximum; the old value goes to the destination; every other byte is as before. -/
def Obligations.AtomicResults : Prop :=
  ∀ e ∈ ([(Instr.amoadd, 0x08, fun _ old v => old + v), (Instr.amoswap, 0x09, fun _ _ v => v),
      (Instr.amocas, 0x0A, fun x old v => if old = x then v else old),
      (Instr.amomaxu, 0x0B, fun _ old v => if old.toNat ≤ v.toNat then v else old)]
        : List ((Pa → Thr → IWord → Instr) × Nat × (Word → Word → Word → Word))),
    ∀ (p : Pa) (t : Thr) (w : IWord) (s : State) (off : Nat),
      let y := s.thr p t
      let a := memAddr y w
      ready 3 e.2.1 p t w [.a (wMemAb w), .s (fs (wRd w)), .s (fs (wMemRc w))] s = true → formOk [4] w = true →
      wMemSize w = 3 → addrOk a = true → region s a.toNat = .spm p off → a.toNat % 8 = 0 → off + 8 ≤ spmSize →
      meets s p t (spmNeeds [(a.toNat - spmAddr p 0, 8)] [] false) = true →
      wRd w = 0 ∨ footprintsFull (s.pa p) t = false → badAt s a.toNat 8 = none → mergeFits s a.toNat 8 = true →
      ∃ u, exec (e.1 p t w) s = .next u
        ∧ u.word a.toNat = e.2.2 (y.rs (wRd w)) (s.word a.toNat) (y.rs (wMemRc w))
        ∧ bytesKept s u a.toNat 8
        ∧ ∃ o, sent p o s u ∧ o.thr = t ∧ o.writes = [.s (fs (wRd w)) (s.word a.toNat)]

/-! ## Fences and barriers (R130 to R132) -/

/-- O22. FENCE goes on when the conditions that arg names hold; BARPA's last arrival releases every waiter on its mask and
goes on, and any other arrival waits; BARPKG goes on where it holds a release, and arrives otherwise; a waiter that has been
released goes on as it issues. -/
def Obligations.FencesAndBarriers : Prop :=
  (∀ (p : Pa) (t : Thr) (w : IWord) (s : State), ready 5 0x00 p t w [] s = true → formOk [5] w = true → wArg w ≤ 15 →
      fenceHolds (s.pa p) t (wArg w) = true →
      ∃ u, exec (.fence p t w) s = .next u
        ∧ ranAs p t (if (wArg w).testBit 2 then s.modPa p clearReuse else s) u)
  ∧ (∀ (p : Pa) (t : Thr) (w : IWord) (s : State), ready 5 0x00 p t w [] s = true → formOk [5] w = true → wArg w = 0 →
      ∃ u, exec (.fence p t w) s = .next u ∧ ranAs p t s u)
  ∧ (∀ (p : Pa) (t : Thr) (w : IWord) (s : State), ready 5 0x01 p t w [] s = true → formOk [5] w = true →
      let m := BitVec.ofNat 8 (wArg w)
      bit m t.val = true →
      (isReleased (s.thr p t) = true → ∃ u, exec (.barpa p t w) s = .next u ∧ ranAs p t s u)
      ∧ (isReleased (s.thr p t) = false → fenceSpm (s.pa p) t = true →
      (∀ v ∈ maskThreads m, (s.thr p v).st ≠ .ended ∧ (s.thr p v).st ≠ .faulted) →
      (arrivedAt (s.pa p) m ||| bitAt 8 t.val true = m →
        ∃ u, exec (.barpa p t w) s = .next u
          ∧ (∀ v ∈ maskThreads m, v ≠ t → (u.thr p v).wait = .none) ∧ (u.pa p).barriers.any (·.1 = m) = false
          ∧ ranAs p t ((maskThreads m).foldl (fun s v => if v = t then s else releaseThread p s v)
              (s.modPa p fun x => { x with barriers := x.barriers.filter (·.1 ≠ m) })) u)
      ∧ (arrivedAt (s.pa p) m ||| bitAt 8 t.val true ≠ m →
        (s.pa p).barriers.any (·.1 = m) = true ∨ (s.pa p).barriers.length < 4 →
        ∃ u, exec (.barpa p t w) s = .next u ∧ (u.thr p t).wait = .barpa m ∧ (u.thr p t).pc = (s.thr p t).pc
          ∧ arrivedAt (u.pa p) m = arrivedAt (s.pa p) m ||| bitAt 8 t.val true)))
  ∧ ∀ (p : Pa) (t : Thr) (w : IWord) (s : State) (b : Fin 32), ready 5 0x02 p t w [] s = true → formOk [5] w = true →
      wArg w = b.val → s.rp.barrCount[b] ≠ 0 →
      (isReleased (s.thr p t) = true → ∃ u, exec (.barpkg p t w) s = .next u ∧ ranAs p t s u)
      ∧ (isReleased (s.thr p t) = false → nmem (s.thr p t).held b.val = true →
        ∃ u, exec (.barpkg p t w) s = .next u ∧ ranAs p t (s.modThr p t fun y => { y with held := ndel y.held b.val }) u)
      ∧ (isReleased (s.thr p t) = false → nmem (s.thr p t).held b.val = false →
        (s.thr p t).arrivals.any (·.1 = b.val) = false → fenceMem (s.pa p) t = true →
        ∃ u, exec (.barpkg p t w) s = .next u ∧ (u.thr p t).wait = .barpkg b ∧ (u.thr p t).pc = (s.thr p t).pc
          ∧ u.rp.barrArrived[b] = s.rp.barrArrived[b] ++ [(p, t)])

/-- O23. BARPKG_RELEASE (R132): once the arrivals that the barrier counts have come, every waiter at the barrier waits no
longer and its BARPKG issues, and the barrier resets; before, nothing is released. -/
def Obligations.PackageBarrierRelease : Prop :=
  (∀ (b : Fin 32) (s : State), s.rp.barrCount[b] ≠ 0 → s.rp.barrCount[b] ≤ (s.rp.barrArrived[b]).length →
    (∀ e ∈ s.rp.barrArrived[b], arrivalCome s b e = true) →
    ∃ u, exec (.barpkgRelease b) s = .next u ∧ u.rp.barrArrived[b] = [] ∧ u.mem = s.mem
      ∧ ∀ e ∈ s.rp.barrArrived[b], (u.thr e.1 e.2).wait ≠ .barpkg b
        ∧ ((s.thr e.1 e.2).wait = .barpkg b → (u.thr e.1 e.2).wait = .none ∧ isReleased (u.thr e.1 e.2) = true))
  ∧ ∀ (b : Fin 32) (s : State), s.rp.barrCount[b] = 0 ∨ (s.rp.barrArrived[b]).length < s.rp.barrCount[b] →
    exec (.barpkgRelease b) s = .next s

/-! ## Instructions in flight and exceptions (R115, R134 to R138, R175, R67) -/

/-- O24. INSTRUCTION_COMPLETION (R175): an instruction in flight, that is no part of a keyed one and waits for no key blocks and
whose access, if it made one, has been answered, leaves its unit and its results are written in order; words that its reads
have corrected are counted (R94, R176). Part of an SPM line reaches memory once the merge buffer has room for it (R95). -/
def Obligations.Completion : Prop :=
  ∀ (p : Pa) (n : Nat) (fixed : List (Option (Fin 1572864))) (s : State) (o : Op), (s.pa p).ops.find? (·.id = n) = some o →
    o.answeredAll = true → o.bad = none → o.keyed = none → o.keyCmd = none →
    (∀ m, o.acc = some m → responseArrives s p (.answer p o.id) m.addr = true) →
    let l := fixed.map fixedWord
    let v := noteCells p l (noteFixed p (o.readRanges p) l
      (match o.acc with | some m => takeResponse p (.answer p o.id) m.addr s | none => s))
    ((∀ x ∈ o.writes, x.line? p = none) → ∃ u, exec (.instructionCompletion p n fixed) s = .next u
      ∧ u = o.writes.foldl (applyWr p o.thr) (v.modPa p fun x => { x with ops := x.ops.filter (·.id ≠ o.id) })
      ∧ (∀ i x, o.writes = [.s i x] → (u.thr p o.thr).rs i.val = if i = 0 then 0 else x)
      ∧ (∀ i x, o.writes = [.c i x] → (u.thr p o.thr).rc i.val = x))
    ∧ ∀ (a : Nat) (bs : List Byte), o.writes = [.mem a bs] → ownSpm p a bs.length = true → 0 < bs.length →
      a % 4096 + bs.length ≤ 4096 → bs.length = 4096 ∨ mergeRoom (s.pa p) ((a - spmAddr p 0) / 4096) = true →
      ∃ u, exec (.instructionCompletion p n fixed) s = .next u ∧ u.bytes a bs.length = bs ∧ bytesKept s u a bs.length
        ∧ (u.pa p).ops = (s.pa p).ops.filter (·.id ≠ o.id)

/-- O25. DEFERRED_EXCEPTION (R134, R135, R67): the abort of an instruction that is no part of a keyed one. Its destination
descriptor is poisoned. A thread in run state with nothing latched latches the code, deferred = 1, the instruction's pc as
fpc and its own pc as epc, and a stalled one may take the exception at once; a thread that is not in run state, or that
has an exception latched, sets overrun and keeps the fields it has. -/
def Obligations.DeferredExceptions : Prop :=
  ∀ (p : Pa) (n : Nat) (why : Abort) (addr : BitVec 48) (s : State) (o : Op),
    (s.pa p).ops.find? (·.id = n) = some o → o.keyed = none →
    ∃ u, (exec (.deferredException p n why addr) s = .next u
        ∨ exec (.deferredException p n why addr) s = .next (deliver u p o.thr))
      ∧ ((s.thr p o.thr).wait = .none → (s.thr p o.thr).needs = [] → exec (.deferredException p n why addr) s = .next u)
      ∧ (∀ i, o.poison = some i → dPoisoned ((u.thr p o.thr).rc i.val) = true)
      ∧ ((s.thr p o.thr).st = .run → (s.thr p o.thr).undelivered = false →
          (u.thr p o.thr).undelivered = true ∧ (u.thr p o.thr).st = .run
          ∧ (u.thr p o.thr).exc.code = (abortExc why).code ∧ (u.thr p o.thr).exc.deferred = true
          ∧ (u.thr p o.thr).exc.fpc = BitVec.ofNat 14 o.fpc
          ∧ (u.thr p o.thr).exc.epc = BitVec.ofNat 14 (s.thr p o.thr).pc
          ∧ (u.thr p o.thr).exc.addr = (if why = .cells then 0 else addr))
      ∧ ((s.thr p o.thr).st ≠ .run ∨ (s.thr p o.thr).undelivered = true →
          (u.thr p o.thr).exc = { (s.thr p o.thr).exc with overrun := true } ∧ (u.thr p o.thr).st = (s.thr p o.thr).st)

/-- O26. ILLEGAL_INSTRUCTION (R115, R134, R136, R138): a word whose grp is 13 to 15, whose ext is 1 or whose op is not
listed, or issue beyond IMEM word 16,383, takes EXC_ILLEGAL: the exception registers latch the code and the pc, and the
thread goes to its handler if it is in run state with the handler enabled, and to faulted state otherwise. Then barriers
and the program settle. -/
def Obligations.IllegalInstructionTaken : Prop :=
  ∀ (p : Pa) (t : Thr) (w : IWord) (s : State),
    mayAttempt s p t = true → (s.thr p t).undelivered = false → (s.thr p t).cancelled = false →
    (s.thr p t).holdTo ≤ (s.pa p).cycle → unlistedWord w = true ∨ 16384 ≤ (s.thr p t).pc →
    ∃ u, exec (.illegalInstruction p t w) s = .next u ∧ tookIllegal p t s u

/-! ## Compute instructions (R145 to R176) -/

/-- O27. Every format 7 instruction of groups 6 to 10 (R154, R175): where the word has its plan, its registers are
produced and nothing refuses it or holds its bytes or its unit, it is in flight with its results, which are the plan's
writes and then the flags word to s[rf]; its thread goes on in sequence; and memory is as before, but for a transform's
workspace (R82). -/
def Obligations.PlannedWorkRuns : Prop :=
  ∀ e ∈ ([(Instr.lmad, 6, 0x10, limbPlan .mad [1, 2, 3, 4, 5] [1, 2, 3, 4, 5]),
      (Instr.lmul, 6, 0x11, limbPlan .mul [1, 2, 3, 4, 5] [0]), (Instr.ladd, 6, 0x12, limbPlan .add [1, 2, 3, 4, 5] [0]),
      (Instr.lsub, 6, 0x13, limbPlan .sub [1, 2, 3, 4, 5] [0]), (Instr.lneg, 6, 0x14, limbPlan .neg [0] [0]),
      (Instr.lntt, 7, 0x10, lnttPlan nttOp), (Instr.lintt, 7, 0x11, lnttPlan inttOp), (Instr.laut, 7, 0x12, lautPlan),
      (Instr.bacc, 8, 0x00, baccPlan false), (Instr.baccz, 8, 0x01, baccPlan true),
      (Instr.aclr, 8, 0x02, fun _ _ => aclrPlan), (Instr.aredq, 9, 0x3A, aredqPlan), (Instr.aovf, 9, 0x3B, aovfPlan),
      (Instr.vmov, 9, 0x00, vmovPlan), (Instr.vadd, 9, 0x01, veuArith (· + ·)), (Instr.vsub, 9, 0x02, veuArith (· - ·)),
      (Instr.vmul, 9, 0x03, veuArith (· * ·)),
      (Instr.vmulh, 9, 0x04, veuPlan [1, 2, 3, 5] [1, 2, 3, 5] [0] (fun f => (f.mode = 0 || f.mode = 4) && f.imm = 0)
        (fun f a b _ => (highProduct f.type a b, 0))),
      (Instr.vmin, 9, 0x05, veuTwo fun ty a b => typeOut ty (min (typeIn ty a) (typeIn ty b))),
      (Instr.vmax, 9, 0x06, veuTwo fun ty a b => typeOut ty (max (typeIn ty a) (typeIn ty b))),
      (Instr.vand, 9, 0x08, veuTwo fun ty a b => typeOut ty ((a &&& b).toNat : Nat)),
      (Instr.vor, 9, 0x09, veuTwo fun ty a b => typeOut ty ((a ||| b).toNat : Nat)),
      (Instr.vxor, 9, 0x0A, veuTwo fun ty a b => typeOut ty ((a ^^^ b).toNat : Nat)),
      (Instr.vandn, 9, 0x0B, veuTwo fun ty a b => typeOut ty ((a &&& ~~~b).toNat : Nat)),
      (Instr.vshl, 9, 0x10, shiftPlan true fun f a k => shiftLeft f.type (satMode f) a k),
      (Instr.vshr, 9, 0x11, shiftPlan false fun f a k => (shiftRight f.type a k, 0)),
      (Instr.vsra, 9, 0x12, shiftPlan false fun f a k => (shiftArith f.type a k, 0)),
      (Instr.vcmpeq, 9, 0x18, veuTwo fun ty a b => boolWord (typeIn ty a = typeIn ty b)),
      (Instr.vcmplt, 9, 0x19, veuTwo fun ty a b => boolWord (typeIn ty a < typeIn ty b)),
      (Instr.vsel, 9, 0x1A, vselPlan), (Instr.vmskr, 9, 0x1B, vmskrPlan), (Instr.vtrn, 9, 0x20, vtrnPlan),
      (Instr.vred, 9, 0x28, vredPlan), (Instr.fdot, 9, 0x30, fdotPlan),
      (Instr.sfft, 10, 0x00, sfftPlan false), (Instr.sifft, 10, 0x01, sfftPlan true), (Instr.slotin, 10, 0x08, slotinPlan),
      (Instr.coefout, 10, 0x08, coefoutPlan), (Instr.coefin, 10, 0x08, coefinPlan), (Instr.slotout, 10, 0x08, slotoutPlan),
      (Instr.convert, 10, 0x08, convertPlan), (Instr.sqnt, 10, 0x09, sqntPlan), (Instr.sstat, 10, 0x0A, sstatPlan)]
        : List ((Pa → Thr → IWord → Instr) × Nat × Nat × (Pa → Thr → IWord → State → Option VPlan))),
    ∀ (p : Pa) (t : Thr) (w : IWord) (s : State) (v : VPlan),
      e.2.2.2 p t w s = some v → ready e.2.1 e.2.2.1 p t w v.regs s = true → planRuns p t (vFields w) v s = true →
      ∃ u, exec (e.1 p t w) s = .next u ∧ ranAs p t (vSend s p t (vFields w) v.work) u
        ∧ (∃ o, sent p o s u ∧ o.thr = t ∧ o.unit = v.work.unit ∧ o.busyTo = (s.pa p).cycle + v.work.cycles
          ∧ o.writes = v.work.wrs ++ [.flags (vFields w).rf (BitVec.ofNat 64 v.work.flags)])
        ∧ (v.work.cloud = false → u.mem = s.mem)

/-- O28. Element by element (R148 to R150, R162, R166 to R168, Tables 5.9, 5.13 and 5.14): when an instruction whose
destination is a tile completes, element k of the tile is the operation's result of its operands' elements where k lies
within the count and its mask bit is set, and every other element of every tile, and all of memory, is as before. -/
def Obligations.TileLanes : Prop :=
  let wrapped := fun (f : VFields) (i : Int) =>
    typeOut f.type (if f.mode.testBit 2 then max (typeMin f.type) (min (typeMax f.type) i) else i)
  let pattern := fun (f : VFields) (x : Word) => x.toNat % 2 ^ typeW f.type
  let amount := fun (f : VFields) (y : Word) => if f.mode.testBit 0 then f.imm else y.toNat % 256
  let cell := fun (op : CellOp) (s : State) (f : VFields) (k : Nat) (a b c : Word) =>
    BitVec.ofNat 64 (cellOp op (modQ s (f.mi + k)) f.lazy a.toNat b.toNat c.toNat)
  ∀ e ∈ ([(limbPlan .mad [1, 2, 3, 4, 5] [1, 2, 3, 4, 5], fun s f l a b c => cell .mad s f l a b c),
      (limbPlan .mul [1, 2, 3, 4, 5] [0], fun s f l a b _ => cell .mul s f l a b b),
      (limbPlan .add [1, 2, 3, 4, 5] [0], fun s f l a b _ => cell .add s f l a b b),
      (limbPlan .sub [1, 2, 3, 4, 5] [0], fun s f l a b _ => cell .sub s f l a b b),
      (limbPlan .neg [0] [0], fun s f l a b _ => cell .neg s f l a b b),
      (vmovPlan, fun _ _ _ a _ _ => a),
      (veuArith (· + ·), fun _ f _ a b _ => wrapped f (typeIn f.type a + typeIn f.type b)),
      (veuArith (· - ·), fun _ f _ a b _ => wrapped f (typeIn f.type a - typeIn f.type b)),
      (veuArith (· * ·), fun _ f _ a b _ => wrapped f (typeIn f.type a * typeIn f.type b)),
      (shiftPlan true (fun f a k => shiftLeft f.type (satMode f) a k),
        fun _ f _ a b _ => wrapped f (typeIn f.type a * (2 ^ amount f b : Nat))),
      (shiftPlan false (fun f a k => (shiftRight f.type a k, 0)),
        fun _ f _ a b _ => typeOut f.type (pattern f a / 2 ^ amount f b : Nat)),
      (shiftPlan false (fun f a k => (shiftArith f.type a k, 0)), fun _ f _ a b _ => typeOut f.type
        (signedOf (typeW f.type) (pattern f a) / (2 ^ amount f b : Nat))),
      (vselPlan, fun _ _ _ a b c => if c = 0 then b else a)]
        : List ((Pa → Thr → IWord → State → Option VPlan) × (State → VFields → Nat → Word → Word → Word → Word))),
    ∀ (p : Pa) (t : Thr) (w : IWord) (s : State) (v : VPlan) (d : Fin 8),
      e.1 p t w s = some v → pickCause v.causes = none → Operand.of (vFields w).d = some (.tile d) →
      let f := vFields w
      let o := vOps f
      let y := s.thr p t
      let n := countOf f y
      let xa := (y.ra f.xa.val).toNat
      let u := v.work.wrs.foldl (applyWr p t) s
      u.mem = s.mem ∧ ∀ (i : Fin 8) (k : Nat), k < 4096 →
        tileAt (u.pa p) i k =
          if i = d ∧ k < (f.nl + 1) * n ∧ bit (y.rm f.msk.val) (k % 64) = true then
            e.2 s f (k / n) (o.s1.get s p t xa n (k / n) (k % n)).1 (o.s2.get s p t xa n (k / n) (k % n)).1
              (o.s3.get s p t xa n (k / n) (k % n)).1
          else tileAt (s.pa p) i k

/-- O29. Results in w bits (R166, R167): a result lies in the type's range, extended from its w bits; without
saturation it is congruent to the exact result modulo 2^w and WRAP tells that they differ; with saturation it is the
exact result clamped, and SAT tells that it was. -/
def Obligations.IntegerResultsFit : Prop :=
  ∀ (ty : Nat) (sat : Bool) (i : Int), ty < 8 →
    let r := fitInt ty sat i
    let x := typeIn ty r.1
    typeMin ty ≤ x ∧ x ≤ typeMax ty ∧ typeOut ty x = r.1
      ∧ (sat = false → (x - i) % (2 ^ typeW ty : Nat) = 0 ∧ r.2 = if x = i then 0 else flWrap)
      ∧ (sat = true → x = max (typeMin ty) (min (typeMax ty) i) ∧ r.2 = if x = i then 0 else flSat)

/-- O30. A cell's result (R76, R77): for every modulus above 1 and all inputs, the result is congruent to the exact one,
below q when canonical and below 2q when lazy. -/
def Obligations.CellArithmetic : Prop :=
  ∀ (op : CellOp) (q a b c : Nat) (lazy : Bool), 1 < q →
    let r := cellOp op q lazy a b c
    (r < if lazy then 2 * q else q)
      ∧ match op with
        | .mad => r % q = (a * b + c) % q
        | .mul => r % q = a * b % q
        | .add => r % q = (a + c) % q
        | .sub => (r + c) % q = a % q
        | .neg => (r + a) % q = 0

/-- O31. Accumulators (R84, R86, R164, R165): when BACC or BACCZ completes, each column of each row below T has gained, or
is, the sum of K products, wrapped at 128 bits, and the other elements of the accumulators are as before; ACLR leaves
every row zero, its overflow flags clear and its modulus indices as mi says; AREDQ to a tile leaves the element modulo
its row's entry; and AOVF to a scalar leaves the overflow flags. -/
def Obligations.AccumulatorRows : Prop :=
  (∀ (clear : Bool) (p : Pa) (t : Thr) (w : IWord) (s : State) (v : VPlan) (d : Fin 4) (a : Fin 8) (r : Fin 16),
    baccPlan clear p t w s = some v → accDest (vFields w).d = some d → Operand.of (vFields w).s1 = some (.tile a) →
    Operand.of (vFields w).s2 = some (.vec r) →
    let u := v.work.wrs.foldl (applyWr p t) s
    let n := bcuK (vFields w)
    ∀ (i : Fin 4) (row col : Nat), row < 64 → col < 64 →
      accAt (u.pa p) i (row * 64 + col) =
        if i = d ∧ row < bcuT (vFields w) then
          (if clear then 0 else accAt (s.pa p) i (row * 64 + col))
            + BitVec.ofNat 128 (((List.range n).map fun j =>
              (s.word (((s.thr p t).ra r.val).toNat + (row * n + j) * 8)).toNat
                * (tileAt (s.pa p) a (j * 64 + col)).toNat).sum)
        else accAt (s.pa p) i (row * 64 + col))
  ∧ (∀ (p : Pa) (t : Thr) (w : IWord) (s : State) (v : VPlan) (d : Fin 4),
    aclrPlan w s = some v → accDest (vFields w).d = some d →
    let u := v.work.wrs.foldl (applyWr p t) s
    (u.pa p).accOvf[d.val] = 0 ∧ ∀ row col, row < 64 → col < 64 →
      accAt (u.pa p) d (row * 64 + col) = 0 ∧ accRowMi (u.pa p) d row = ((vFields w).mi + row) % 64)
  ∧ (∀ (p : Pa) (t : Thr) (w : IWord) (s : State) (v : VPlan) (d : Fin 8) (a : Fin 4),
    aredqPlan p t w s = some v → pickCause v.causes = none → Operand.of (vFields w).d = some (.tile d) →
    accSource (vFields w).s1 = some a →
    let y := s.thr p t
    let u := v.work.wrs.foldl (applyWr p t) s
    ∀ k, k < countOf (vFields w) y → bit (y.rm (vFields w).msk.val) (k % 64) = true →
      tileAt (u.pa p) d k =
        BitVec.ofNat 64 ((accAt (s.pa p) a k).toNat % modQ s (accRowMi (s.pa p) a (k / 64))))
  ∧ ∀ (p : Pa) (t : Thr) (w : IWord) (s : State) (v : VPlan) (i : Fin 32) (a : Fin 4),
    aovfPlan p t w s = some v → Operand.of (vFields w).d = some (.scalar i) → accSource (vFields w).s1 = some a →
    let u := v.work.wrs.foldl (applyWr p t) s
    (u.thr p t).rs i.val = if i = 0 then 0 else (s.pa p).accOvf[a.val]

/-- O32. Descriptor operations of groups 6 and 7 (R155 to R160, R163, R175, R82): where nothing refuses the operation and
its bytes and the cell grid are free, it is in flight with the words of its window, and its final window also writes c[cd]
with the tracked fields; its thread goes on in sequence. -/
def Obligations.DescriptorOperationsRun : Prop :=
  (∀ e ∈ ([(Instr.cadd, 0x00, addOp .add, true, fun _ => true), (Instr.csub, 0x01, addOp .sub, true, fun _ => true),
      (Instr.cneg, 0x02, negOp, false, fun f => decide (f.cs2 = 0 ∧ f.as2 = 0)),
      (Instr.cmulp, 0x03, mulpOp, true, fun _ => true), (Instr.cmacp, 0x04, macOp, true, fun f => f.ip),
      (Instr.crsc, 0x05, rescaleOp, false, fun f => decide (f.cs2 = 0))]
        : List ((Pa → Thr → IWord → Instr) × Nat × (State → Pa → Thr → PFields → DescOp) × Bool × (PFields → Bool))),
    ∀ (p : Pa) (t : Thr) (w : IWord) (s : State),
      let f := pFields w
      let o := e.2.2.1 s p t f
      wFmt w = 6 → f.rsvd = false → f.comp ≠ 3 → f.kh = 0 → f.imm = 0 → e.2.2.2.2 f = true →
      ready 6 e.2.1 p t w (descRegs f e.2.2.2.1) s = true → descRuns p t f o s = true →
      ∃ u, exec (e.1 p t w) s = .next u
        ∧ ranAs p t (descSend s p t f o (descWrites f o (dstWindow (s.thr p t) f o.result)) false
            (o.ops * descElements f o.result)) u
        ∧ u.mem = s.mem ∧ ∃ x, sent p x s u ∧ x.thr = t ∧ x.writes =
            descWrites f o (dstWindow (s.thr p t) f o.result)
              ++ (if f.lw + f.lc + 1 = o.result.k ∧ (f.comp ≠ 1 ∨ o.result.tag = 0) then
                  [.c f.cd ((budget s p o.unreliable o.result).1.pack (((s.thr p t).ra f.ab.val).toNat % 2 ^ 48))]
                else []))
  ∧ ∀ e ∈ ([(Instr.cntt, 0x00, fun y f => transformOp false y f, fun _ _ => nttOp, true),
      (Instr.cintt, 0x01, fun y f => transformOp true y f, fun _ _ => inttOp, true),
      (Instr.caut, 0x02, autDescOp, fun d f => autOp (dEval d) f.imm, false)]
        : List ((Pa → Thr → IWord → Instr) × Nat × (Thread → PFields → DescOp)
          × (Desc → PFields → LimbOp) × Bool)),
    ∀ (p : Pa) (t : Thr) (w : IWord) (s : State),
      let f := pFields w
      let y := s.thr p t
      let d := y.rc f.cs1.val
      let o := e.2.2.1 y f
      wFmt w = 6 → f.rsvd = false → f.comp ≠ 3 → f.kh = 0 → (e.2.2.2.2 = true → f.imm = 0) → f.lazy = false → f.cs2 = 0 →
      f.as2 = 0 → ready 7 e.2.1 p t w (descRegs f false) s = true → descRuns p t f o s = true →
      ∃ u, exec (e.1 p t w) s = .next u
        ∧ ranAs p t (descSend s p t f o (limbWrites s y f o.result (e.2.2.2.1 d f)) e.2.2.2.2
            (if e.2.2.2.2 then windowComps f.comp (dPlain d) * (f.lc + 1) * butterflies (12 + dLgn d) else 0)) u

/-- O33. Tracking (R57, R59, R60, Tables 2.6 and 2.7): an addition keeps limbs, level and scale and bounds the sum of the
noises; a multiply by a plaintext and a multiply add the scales of CKKS operands and keep those of other schemes, with the
noise of Table 2.7; a rescale drops its limbs, one level and their log2 q. lse is symmetric, and lies above the larger
operand by at most one bit. -/
def Obligations.TrackingResults : Prop :=
  (∀ a b : Desc, let r := (trackAdd a b).1
    r.k = dLimbs a ∧ r.level = dLevel a ∧ r.scale = dScale a ∧ r.eval = dEval a ∧ r.noise = lse (dNoise a) (dNoise b)
      ∧ r.tag = if dTag a = 0 then dTag b else dTag a)
  ∧ (∀ (s : State) (p : Pa) (a b : Desc), let r := (trackMulp s p a b).1
    pickCause (trackMulp s p a b).2 = none →
    r.k = dLimbs a ∧ r.level = dLevel a ∧ r.tag = dTag a
      ∧ r.scale = (if dScheme a = 0 then dScale a + dScale b else dScale a)
      ∧ r.noise = if dScheme a = 0 then min 0xFFFF (lse (min 0xFFFF (dNoise a + 16 * dScale b))
          (min 0xFFFF (dNoise b + 16 * dScale a)) + (noiseConst s p (dScheme a)).kpt)
        else min 0xFFFF (dNoise a + (noiseConst s p (dScheme a)).kpt))
  ∧ (∀ (s : State) (p : Pa) (kks : Nat) (a b : Desc), let r := (trackMul s p kks a b).1
    pickCause (trackMul s p kks a b).2 = none →
    r.k = dLimbs a ∧ r.level = dLevel a ∧ r.tag = dTag a
      ∧ r.scale = (if dScheme a = 0 then dScale a + dScale b else dScale a)
      ∧ (dScheme a = 2 → r.noise = lse (min 0xFFFF (dNoise a + dNoise b + (noiseConst s p 2).kmul)) kks))
  ∧ (∀ (s : State) (p : Pa) (a : Desc), let r := (trackRescale s p a).1
    pickCause (trackRescale s p a).2 = none → (if dScheme a = 1 then 1 else modLpl s) < dLimbs a →
    r.k = dLimbs a - (if dScheme a = 1 then 1 else modLpl s)
      ∧ (dScheme a ≠ 1 → r.level + 1 = dLevel a)
      ∧ (dScheme a ≠ 0 → r.scale = dScale a)
      ∧ (dScheme a = 0 → r.scale + droppedLog s r.k (dLimbs a) = dScale a))
  ∧ ∀ a b : Nat, a ≤ 0xFFFF → b ≤ 0xFFFF → lse a b = lse b a ∧ max a b ≤ lse a b ∧ lse a b ≤ max a b + 256
      ∧ (max a b < 0xFFFF → max a b < lse a b)

/-! ## Chord, scheme switching and exports (R184 to R203) -/

/-- O34. CMUL, CHORD, CROT and CCONJ (R184, R185, R192): an issue that does not make its group complete waits in the group,
its thread standing at the instruction; the issue that completes the group, when nothing refuses any of them, starts the
instruction: no issue of it waits any longer, the group's sequence number counts it, the issuing thread goes on in sequence, and
every other member's does so as it is attempted again. -/
def Obligations.KeyedInstructionsStart : Prop :=
  ∀ e ∈ ([(Instr.cmul, KeyedOp.cmul), (Instr.chord, .chord), (Instr.crot, .crot), (Instr.cconj, .cconj)]
      : List ((Pa → Thr → IWord → Instr) × KeyedOp)),
    ∀ (p : Pa) (t : Thr) (w : IWord) (s : State) (g : Fin 4) (k : Nat) (h : KeyHdr),
      let f := pFields w
      let i := keyedIssue e.2 s p t w k h
      let s1 := chordWaiting s g i
      wFmt w = 6 → keyedForm e.2 f = true → ready 6 e.2.code p t w (.k f.kh :: descRegs f (e.2 = .cmul)) s = true →
      keyedRuns e.2 p t w g k h s = true →
      (isReleased (s.thr p t) = true → ∃ u, exec (e.1 p t w) s = .next u ∧ ranAs p t s u)
      ∧ (isReleased (s.thr p t) = false → chordComplete s1 g i = false →
        ∃ u, exec (e.1 p t w) s = .next u ∧ (u.thr p t).wait = .chord ∧ (u.thr p t).pc = (s.thr p t).pc
          ∧ i ∈ u.rp.chords[g] ∧ u.mem = s.mem)
      ∧ (isReleased (s.thr p t) = false → chordComplete s1 g i = true →
        (∀ j ∈ firstIssues s1 g, issueCause s1 g (firstIssues s1 g) j = none) →
        ∃ u, exec (e.1 p t w) s = .next u ∧ ranAs p t (chordStarted s1 g p t (firstIssues s1 g)) u
          ∧ u.rp.chordSeq[g] = s.rp.chordSeq[g] + 1 ∧ (u.thr p t).wait = .none
          ∧ (∀ j ∈ firstIssues s1 g, j ∉ u.rp.chords[g] ∧ (u.thr j.pa j.thr).wait = .none
            ∧ ((j.pa, j.thr) ≠ (p, t) → isReleased (u.thr j.pa j.thr) = true)))

/-- O35. A started keyed instruction is in flight at every member (R186, R188, R192, Table 6.4): each member's instruction
carries the group and sequence number. Once the members have their key blocks the results are there: an owner of a part of a
chain limb writes that part of both components of the result and its descriptor, and a member that owns none writes nothing. -/
def Obligations.KeyedMembersInFlight : Prop :=
  (∀ (s : State) (g : Fin 4) (is : List ChordIssue) (i0 : ChordIssue) (h : KeyHdr) (m : Nat) (i : ChordIssue),
    is.head? = some i0 → s.rp.keys[i0.entry]? = some h → is[m]? = some i →
    ∃ o ∈ ((startChord s g is).pa i.pa).ops, o.keyed = some (g, s.rp.chordSeq[g]) ∧ o.thr = i.thr ∧ o.fpc = i.fpc
      ∧ o.unit = .cells ∧ o.poison = some i.cd)
  ∧ ∀ (s : State) (r : ChordRun) (i0 : ChordIssue) (h : KeyHdr) (m : Nat) (i : ChordIssue) (o : Op),
    r.issues.head? = some i0 → s.rp.keys[r.entry]? = some h → r.issues[m]? = some i → (r.issues.map (·.pa)).Nodup →
    memberOp s (r.group, r.seq) i.pa = some o → ((s.pa i.pa).ops.map (·.id)).Nodup →
    let k := dLimbs i0.d1
    let t := teamSize r.issues.length (k + modK s)
    ∃ x ∈ ((fillRun s r).pa i.pa).ops, x.id = o.id ∧ x.keyed = some (r.group, r.seq)
      ∧ (k * t ≤ m → 0 < t → x.writes = [])
      ∧ (m < k * t → ∃ b0 b1, x.writes = [.mem i.ad b0, .mem (i.ad + partBytes (dN i0.d1) t) b1, .c i.cd i.result])

/-- O36. CHORD_ISSUE_TIMEOUT (R185, R193): where some member has not issued, every member that has receives EXC_DEADLOCK
as a precise exception with its registers as they were, and the issues no longer wait; with no issue waiting, or with every
member's, nothing changes. -/
def Obligations.ChordTimeout : Prop :=
  ∀ (g : Fin 4) (s : State),
    let is := firstIssues s g
    ((is = [] ∨ is.length = (members s g).length) → exec (.chordIssueTimeout g) s = .next s)
    ∧ (is ≠ [] → is.length ≠ (members s g).length →
        exec (.chordIssueTimeout g) s = .next (settlePas (is.map fun i => (i.pa, i.thr))
            (is.foldl (fun s i => endIssue s i { exc := .deadlock }) (dropIssues s g is)))
        ∧ (∀ i ∈ is, i ∉ (dropIssues s g is).rp.chords[g])
        ∧ ∀ (v : State) (i : ChordIssue), (v.thr i.pa i.thr).st = .run →
            let x := endIssue v i { exc := .deadlock }
            (x.thr i.pa i.thr).exc.code = Exc.deadlock.code ∧ (x.thr i.pa i.thr).exc.deferred = false
              ∧ (x.thr i.pa i.thr).exc.fpc = BitVec.ofNat 14 (v.thr i.pa i.thr).pc ∧ (x.thr i.pa i.thr).wait = .none
              ∧ (x.thr i.pa i.thr).c = (v.thr i.pa i.thr).c ∧ (x.thr i.pa i.thr).s = (v.thr i.pa i.thr).s)

/-- O37. CSPLIT, CMERGE, CEXT, LKS, CBR, CXP and CPACK (R199, R175): where nothing refuses the operation and its bytes and
the cell grid are free, it is in flight with the words it writes, and its final window also writes c[cd] with the tracked
fields; the key stream of LKS, CBR and CPACK is queued on the Bow, and the instruction awaits it; its thread goes on in
sequence. The words of LKS, CBR, CXP and CPACK results are free values (log entry 14). -/
def Obligations.SchemeSwitchingRuns : Prop :=
  ∀ e ∈ ([(Instr.csplit, 0x28, 7, false, false, csplitOp), (Instr.cmerge, 0x29, 7, false, false, cmergeOp),
      (Instr.cext, 0x2A, 0x1FFFF, false, false, cextOp), (Instr.lks, 0x2B, 0, false, true, lksOp),
      (Instr.cbr, 0x2C, 0, true, true, cbrOp), (Instr.cxp, 0x2D, 0, true, false, cxpOp),
      (Instr.cpack, 0x2E, 15, false, true, cpackOp)]
        : List ((Pa → Thr → IWord → Instr) × Nat × Nat × Bool × Bool × (State → Pa → Thread → PFields → Option SwOp))),
    ∀ (p : Pa) (t : Thr) (w : IWord) (s : State) (o : SwOp),
      let f := pFields w
      e.2.2.2.2.2 s p (s.thr p t) f = some o → wFmt w = 6 → swForm f e.2.2.1 e.2.2.2.1 e.2.2.2.2.1 = true →
      ready 6 e.2.1 p t w (.k f.kh :: descRegs f e.2.2.2.1) s = true → swRuns p t f o s = true →
      ∃ u, exec (e.1 p t w) s = .next u ∧ ranAs p t (swSend s p t f o) u ∧ u.mem = s.mem
        ∧ ∃ x, sent p x s u ∧ x.thr = t ∧ x.keyCmd = (if o.stream = [] then none else some (s.pa p).bow.nextId)
          ∧ (o.stream ≠ [] → ∃ c ∈ (u.pa p).bow.queue, c.id = (s.pa p).bow.nextId ∧ c.left = streamUnits o.stream)
          ∧ x.writes = o.data ++ (if o.last = true then
              [.c f.cd ((budget s p o.unreliable o.result).1.pack (((s.thr p t).ra f.ab.val).toNat % 2 ^ 48))] else [])

/-- O38. What the split, the merge and the extraction write (R199, Table 6.8): part i of a CSPLIT takes every 2^e-th word
from word i on; merging the parts of a limb gives the limb back; and the extraction of coefficient i takes a_t from c1
at i - t, negated where it wraps. -/
def Obligations.SplitMergeExtract : Prop :=
  (∀ (e n i j : Nat) (l : List Nat), l.length = n * 2 ^ e → i < 2 ^ e → j < n →
      (takeEvery e i l).getD j 0 = l.getD (j * 2 ^ e + i) 0)
  ∧ (∀ (e n : Nat) (l : List Nat), l.length = n * 2 ^ e →
      interleave e (n * 2 ^ e) ((List.range (2 ^ e)).map fun i => takeEvery e i l) = l)
  ∧ ∀ (q n i t : Nat) (c : List Nat), i < n → t < n → 0 < q → c.length = n → (∀ x ∈ c, x < q) →
      (t ≤ i → extractAt q n i t c = c.getD (i - t) 0)
      ∧ (i < t → (extractAt q n i t c + c.getD (n + i - t) 0) % q = 0 ∧ extractAt q n i t c < q)

/-- O39. CXPT (R201): where nothing refuses it, an export with the channel, the descriptor and the timeout of the word
opens, and its thread waits at the instruction; when the export has ended, the instruction goes on. EXPORT_TIMEOUT (R203)
ends an export that has a timeout: it is gone, and its destination descriptor is poisoned. -/
def Obligations.ExportsOpenAndEnd : Prop :=
  (∀ (p : Pa) (t : Thr) (w : IWord) (s : State),
      let f := pFields w
      wFmt w = 6 → cxptForm f = true → ready 6 0x30 p t w (cxptRegs f) s = true →
      findExport s (BitVec.ofNat 8 f.imm) = none →
      (isReleased (s.thr p t) = true → ∃ u, exec (.cxpt p t w) s = .next u ∧ ranAs p t s u)
      ∧ (isReleased (s.thr p t) = false → pickCause (cxptCauses s (s.thr p t) f) = none →
        ∃ u, exec (.cxpt p t w) s = .next u ∧ (u.thr p t).wait = .exporting (BitVec.ofNat 8 f.imm)
          ∧ (u.thr p t).pc = (s.thr p t).pc
          ∧ ∃ x ∈ u.rp.exports, x.chan = BitVec.ofNat 8 f.imm ∧ x.desc = (s.thr p t).rc f.cs1.val ∧ x.cd = f.cd
            ∧ x.timeoutMs = f.imm / 256 ∧ x.pa = p ∧ x.thr = t))
  ∧ ∀ (c : BitVec 8) (s : State) (x : Export), findExport s c = some x → x.timeoutMs ≠ 0 →
      ∃ u, exec (.exportTimeout c) s = .next u ∧ findExport u c = none
        ∧ dPoisoned ((u.thr x.pa x.thr).rc x.cd.val) = true ∧ (u.thr x.pa x.thr).wait ≠ .exporting c

/-! ## The Bow (R227 to R251) -/

/-- O40. The commands of the Bow (R227, R228, R236 to R245): where nothing refuses a command and it has room, it is queued
with its units and its thread goes on, BMOVT after 8 cycles; a command without units ends at once. No byte has moved.
BCAN drops the thread's units that are not requested, but for those that feed an instruction in flight, and goes on once none is
in flight (R250). -/
def Obligations.BowCommandsQueue : Prop :=
  (∀ e ∈ ([(Instr.bldw, 0x00, windowPlan false), (Instr.bstw, 0x01, windowPlan true), (Instr.bldp, 0x02, partPlan false),
      (Instr.bstp, 0x03, partPlan true), (Instr.bkey, 0x08, bkeyPlan), (Instr.bcpy, 0x10, bcpyPlan),
      (Instr.bmovt, 0x11, bmovtPlan), (Instr.bgath, 0x12, bgathPlan), (Instr.bscat, 0x13, bscatPlan)]
        : List ((Pa → Thr → IWord → Instr) × Nat × (Pa → Thr → IWord → State → Option BowPlan))),
    ∀ (p : Pa) (t : Thr) (w : IWord) (s : State) (b : BowPlan),
      e.2.2 p t w s = some b → ready 11 e.2.1 p t w b.regs s = true → bowRuns p t b s = true →
      ∃ u, exec (e.1 p t w) s = .next u
        ∧ (b.slow = false → ranAs p t (bowSend s p t b) u)
        ∧ (b.slow = true → issuedAs p t (slowIssue (bowSend s p t b) p t) u
          ∧ (u.thr p t).holdTo = (s.pa p).cycle + 8 ∧ (u.thr p t).pc = (nextPc (s.thr p t)).1)
        ∧ (b.units = [] → (u.pa p).bow.queue = (s.pa p).bow.queue)
        ∧ (b.units ≠ [] → ∃ c, (u.pa p).bow.queue = (s.pa p).bow.queue ++ [c] ∧ c.thr = t ∧ c.left = b.units
            ∧ c.out = 0 ∧ c.fresh = b.fresh ∧ c.id = (s.pa p).bow.nextId
            ∧ c.key = b.key.map (fun kb => { kb with cmd := c.id }) ∧ c.fpc = (s.thr p t).pc)
        ∧ u.mem = s.mem ∧ (u.pa p).bow.tags = (s.pa p).bow.tags)
  ∧ ∀ (p : Pa) (t : Thr) (w : IWord) (s : State), ready 11 0x18 p t w [] s = true → wFmt w = 7 → field w 16 112 = 0 →
      (isReleased (s.thr p t) = true → ∃ u, exec (.bcan p t w) s = .next u ∧ ranAs p t s u)
      ∧ (isReleased (s.thr p t) = false → ∃ u, exec (.bcan p t w) s = .next u
        ∧ (∀ c ∈ (u.pa p).bow.queue, c.thr = t → c.left = [] ∨ feeds (s.pa p) c.id = true)
        ∧ ((s.pa p).bow.tags.any (·.thr = t) = false → ranAs p t (s.modPa p (cancelBow t)) u)
        ∧ ((s.pa p).bow.tags.any (·.thr = t) = true → (u.thr p t).wait = .cancel
          ∧ (u.thr p t).pc = (s.thr p t).pc))

/-- O41. What a copy moves (R229): its pieces cover each byte of the destination once, from the source byte at the same
offset, each piece within one 4 KiB line of the destination; and the units of a command hold all its pieces, those of one
destination line together. -/
def Obligations.CopyPieces : Prop :=
  (∀ src dst n : Nat,
      ((copyPieces src dst n).map (·.len)).sum = n
        ∧ (∀ i, i < n → ((copyPieces src dst n).filter fun k => k.dst ≤ dst + i && dst + i < k.dst + k.len).length = 1)
        ∧ ∀ k ∈ copyPieces src dst n, 0 < k.len ∧ dst ≤ k.dst ∧ k.dst + k.len ≤ dst + n
          ∧ k.src = .mem (src + (k.dst - dst)) ∧ k.dst / 4096 = (k.dst + k.len - 1) / 4096 ∧ k.op = .write)
  ∧ ∀ (s : State) (p : Pa) (c : StreamClass) (l : List Piece),
      (∀ k ∈ l, ∃ u ∈ bowUnitsOf s p c l, k ∈ u.pieces)
        ∧ ∀ u ∈ bowUnitsOf s p c l, u.cls = c ∧ u.pieces ≠ [] ∧ (∀ k ∈ u.pieces, k ∈ l)
          ∧ ∀ k ∈ u.pieces, ∀ j ∈ u.pieces, k.dst / 4096 = j.dst / 4096

/-- O42. BOW_UNIT_REQUEST (R230, R231, R248, R91): the next unit in the round of the threads takes a tag, with what it reads of
the own SPM read now, or waits for a read port; a unit that the source reuse table holds ends without one; with no unit to
request nothing changes. BOW_FETCH_LANDING and BOW_EGRESS_ACK (R229, R250): a unit whose packets have come and whose
accesses have passed their homes writes its pieces once the SPM takes its line, and frees its tag; a cancelled one frees its
tag and writes nothing. -/
def Obligations.BowUnits : Prop :=
  (∀ (p : Pa) (fixed : List (Fin 1572864)) (s : State),
      (nextUnit s p = none → exec (.bowUnitRequest p fixed) s = .next s)
      ∧ ∀ c v, nextUnit s p = some (c, v) →
        (reuseHit s p c v = none → (∀ l, sourceLine p v = some l → (askRead (.egress c.id) l (s.pa p)).1.isSome = true) →
          ∃ u, exec (.bowUnitRequest p fixed) s = .next u ∧ u.mem = s.mem
          ∧ ∃ g, (u.pa p).bow.tags = (s.pa p).bow.tags ++ [g] ∧ g.id = (s.pa p).bow.nextId ∧ g.cmd = c.id ∧ g.thr = c.thr
            ∧ g.cancelled = false ∧ g.passed = [] ∧ (c.key = none → v.bad = [] → g.unit = v.read s p))
        ∧ (∀ l, reuseHit s p c v = none → sourceLine p v = some l → (askRead (.egress c.id) l (s.pa p)).1 = none →
          ∃ u, exec (.bowUnitRequest p fixed) s = .next u ∧ u.mem = s.mem ∧ (u.pa p).bow = (s.pa p).bow
            ∧ (u.pa p).asks.any (·.ask = .egress c.id) = true)
        ∧ (∀ e, reuseHit s p c v = some e → ∃ u, exec (.bowUnitRequest p fixed) s = .next u ∧ u.mem = s.mem
          ∧ (u.pa p).bow.tags = (s.pa p).bow.tags ∧ (u.pa p).bow.turn = c.thr + 1))
  ∧ (∀ (p : Pa) (n : Nat) (s : State) (g : Tag), (s.pa p).bow.tags.find? (·.id = n) = some g → g.unit.fetch = true →
      (∀ s1 s2 : State, g.cancelled = false → g.lost = false → g.unit.cls ≠ .key → g.unit.bad = [] →
        unitAnswered s p g = true → unitArrives s p g = true →
        passAll p n g.unit.cls (readAsks p g.unit) s = (some s1, s2) → (takeWrite s1 g.unit).1.isSome = true →
        (∀ k ∈ g.unit.pieces, k.down s1 = none) → g.unit.pieces.flatMap (pieceBad s1 (failingWords s1 none)) = [] →
        ∃ u, exec (.bowFetchLanding p n none) s = .next u ∧ u.mem = (g.unit.pieces.foldl landPiece s1).mem
          ∧ (∀ h ∈ (u.pa p).bow.tags, h.id ≠ n)
          ∧ ∀ k bs, g.unit.pieces = [k] → k.src = .lit bs → k.op = .write → ownSpm p k.dst bs.length = true →
            u.bytes k.dst bs.length = bs ∧ bytesKept s1 u k.dst bs.length)
      ∧ (g.cancelled = true → ∃ u, exec (.bowFetchLanding p n none) s = .next u ∧ u.mem = s.mem
        ∧ ∀ h ∈ (u.pa p).bow.tags, h.id ≠ n))
  ∧ ∀ (p : Pa) (n : Nat) (s s1 s2 : State) (g : Tag), (s.pa p).bow.tags.find? (·.id = n) = some g → g.unit.fetch = false →
      g.lost = false → unitAnswered s p g = true → unitArrives s p g = true →
      passAll p n g.unit.cls (writeAsks s g.unit) s = (some s1, s2) → (takeWrite s1 g.unit).1.isSome = true →
      ∃ u, exec (.bowEgressAck p n none) s = .next u ∧ (∀ h ∈ (u.pa p).bow.tags, h.id ≠ n)
        ∧ ∀ k bs q off, g.unit.pieces = [k] → g.unit.bad = [] → k.src = .lit bs → k.op = .write →
          region s k.dst = .spm q off → ownSpm q k.dst bs.length = true → homeDown s k.dst = false →
          u.bytes k.dst bs.length = bs ∧ bytesKept s u k.dst bs.length

/-! ## Channels, combining queues and the Fretboard (R286 to R304) -/

/-- O43. SEND, RECV, TRYRECV and RFREE (R288 to R291): a SEND whose message finds room is placed in every live receiver's
ring and its thread goes on; one that does not find room blocks its thread with nothing written. A receive takes the
first message, with its address, length and status 0; TRYRECV answers status 1 when there is none, and both answer 2 when
the receiver has been dropped and nothing is on its way. RFREE frees the oldest taken message, and
the pad markers behind it. -/
def Obligations.ChannelInstructions : Prop :=
  (∀ (p : Pa) (t : Thr) (w : IWord) (s : State) (i : Nat) (c : Chan),
      let f := qFields w
      let y := s.thr p t
      let n := sendLen y f
      let a := (y.ra f.as.val).toNat
      sendForm w = true → ready 12 0x00 p t w (sendRegs f) s = true → handleChan s (qOf y f.q) = some (i, c) →
      pickCause (sendCauses p t y f c) = none →
      meets s p t (spmNeeds [(a - spmAddr p 0, n)] [] false ++ if f.rel then [.fence 2] else []) = true →
      (∀ k pad, chanPlace c (8 + n) = some (k, pad) →
        ∃ u, exec (.send p t w) s = .next u ∧ ranAs p t (sendMessage p t s i c a n k pad) u
          ∧ u.chan? i = some (placeMessage c k pad (s.words a (n / 8)) (badPayload s a (n / 8))))
      ∧ (chanPlace c (8 + n) = none →
        ∃ u, exec (.send p t w) s = .next u ∧ (u.thr p t).needs = [.ring i (8 + n)]
          ∧ (u.thr p t).pc = y.pc ∧ u.chan? i = some { c with want := 8 + n } ∧ u.mem = s.mem))
  ∧ (∀ e ∈ ([(Instr.recv, 0x01), (Instr.tryrecv, 0x02)] : List ((Pa → Thr → IWord → Instr) × Nat)),
      ∀ (p : Pa) (t : Thr) (w : IWord) (s : State) (i : Nat) (c : Chan) (r : ChRecv),
        let f := qFields w
        recvForm w = true → ready 12 e.2 p t w [.q f.q, .a f.as, .s f.rs, .s f.rd] s = true →
        handleChan s (qOf (s.thr p t) f.q) = some (i, c) → receiverOf c p t = some r → c.broken = false →
        r.held < 16 →
        (∀ m l, (skipPads r).arrived = m :: l →
          ∃ u, exec (e.1 p t w) s = .next u ∧ (u.thr p t).ra f.as.val = BitVec.ofNat 64 (ringAddr c p (m.off + 8))
            ∧ (f.rs ≠ 0 → f.rs ≠ f.rd → (u.thr p t).rs f.rs.val = BitVec.ofNat 64 (m.bytes - 8))
            ∧ (u.thr p t).rs f.rd.val = 0 ∧ (u.thr p t).pc = (nextPc (s.thr p t)).1
            ∧ u.chan? i = some (c.modRecv p fun _ => takeMessage (skipPads r)))
        ∧ ((skipPads r).arrived = [] → r.live = false → r.flying = [] →
          ∃ u, exec (e.1 p t w) s = .next u ∧ (u.thr p t).rs f.rd.val = (if f.rd = 0 then 0 else 2)
            ∧ (u.thr p t).pc = (nextPc (s.thr p t)).1)
        ∧ ((skipPads r).arrived = [] → r.live = true →
          ∃ u, exec (e.1 p t w) s = .next u
            ∧ (e.2 = 0x02 → (u.thr p t).rs f.rd.val = (if f.rd = 0 then 0 else 1)
              ∧ (u.thr p t).pc = (nextPc (s.thr p t)).1)
            ∧ (e.2 = 0x01 → (u.thr p t).pc = (s.thr p t).pc ∧ (u.thr p t).needs = [.message i])))
  ∧ ∀ (p : Pa) (t : Thr) (w : IWord) (s : State) (i : Nat) (c : Chan) (r : ChRecv) (m : ChMsg) (l : List ChMsg),
      let f := qFields w
      rfreeForm w = true → ready 12 0x03 p t w [.q f.q] s = true → handleChan s (qOf (s.thr p t) f.q) = some (i, c) →
      receiverOf c p t = some r → r.taken = m :: l → m.pad = false →
      ∃ u, exec (.rfree p t w) s = .next u ∧ ranAs p t (putRecv i c r (freeOldest r) s) u
        ∧ ∃ d q, u.chan? i = some d ∧ d.recv? p = some q ∧ q.taken = l.dropWhile (·.pad)
          ∧ q.credits = r.credits ++ m.bytes :: (l.takeWhile (·.pad)).map (·.bytes)

/-- O44. CQADD and CQWAIT (R295, R296): a contribution leaves for its home with the words of the source, unless its round
is two beyond the oldest open one, in which case its thread waits; CQWAIT on a written round gives the address of its
slot and counts the wait, and stalls otherwise. -/
def Obligations.CombiningInstructions : Prop :=
  (∀ (p : Pa) (t : Thr) (w : IWord) (s : State) (j : Nat) (c : Cq),
      let f := qFields w
      let y := s.thr p t
      let a := (y.ra f.as.val).toNat
      cqaddForm w = true → ready 12 0x08 p t w [.q f.q, .a f.as] s = true → handleCq s (qOf y f.q) = some (j, c) →
      pickCause (cqaddCauses p y f c) = none →
      meets s p t (spmNeeds [(a - spmAddr p 0, 8 * c.words)] [] false ++ if f.rel then [.fence 2] else []) = true →
      (cqHeld c p t = false → badPayload s a c.words = [] →
        ∃ u, exec (.cqadd p t w) s = .next u ∧ ranAs p t (contribute p t s j c a) u
          ∧ ∃ d, u.net.cqs[j]? = some d ∧ cqRound d p t = cqRound c p t + 1
            ∧ d.flying = c.flying ++ [{ id := c.nextPart, round := cqRound c p t, words := s.words a c.words, count := 1 }])
      ∧ (cqHeld c p t = true →
        ∃ u, exec (.cqadd p t w) s = .next u ∧ (u.thr p t).needs = [.round j]
          ∧ (u.thr p t).pc = y.pc ∧ u.net = s.net ∧ u.mem = s.mem))
  ∧ ∀ (p : Pa) (t : Thr) (w : IWord) (s : State) (j : Nat) (c : Cq),
      let f := qFields w
      cqwaitForm w = true → ready 12 0x09 p t w [.q f.q, .a f.as] s = true →
      handleCq s (qOf (s.thr p t) f.q) = some (j, c) → c.hpa = p → c.hthr = t → c.lost = false →
      (roundWritten c c.waits = true →
        ∃ u, exec (.cqwait p t w) s = .next u ∧ (u.thr p t).ra f.as.val = BitVec.ofNat 64 (cqSlot c c.waits)
          ∧ (u.thr p t).pc = (nextPc (s.thr p t)).1 ∧ ∃ d, u.net.cqs[j]? = some d ∧ d.waits = c.waits + 1)
      ∧ (roundWritten c c.waits = false →
        ∃ u, exec (.cqwait p t w) s = .next u ∧ (u.thr p t).pc = (s.thr p t).pc ∧ (u.thr p t).needs = [.result j])

/-- O45. The events of channels and queues (R289 to R298): a delivery commits its items to the ring and puts them before
the receiver; a credit return advances the sender's view of the ring; a contribution combines into its round,
and one with a word that failed on its way leaves its queue without it (R304); a receiver
that alone holds up a drop-mode multicast is dropped, with FRB_EVT bit 0; and two threads blocked on each other receive
EXC_DEADLOCK, with FRB_EVT bit 1. -/
def Obligations.ChannelEvents : Prop :=
  (∀ (i : Fin 1024) (p : Pa) (s : State) (c : Chan) (r : ChRecv), s.chan? i.val = some c → c.recv? p = some r →
      (∀ f : FlitEcc, (nextDelivery r.flying).1 ≠ [] →
        mayArrive s (messageFlow i.val (nextDelivery r.flying).1) (messageDest s c p) = true →
        itemsFit s c p (nextDelivery r.flying).1 = true →
        ∃ u, exec (.channelMessageDelivery i p f) s = .next u
          ∧ u.chan? i.val = some (arriveAt p (nextDelivery r.flying).1 (nextDelivery r.flying).2 c)
          ∧ u.mem = ((nextDelivery r.flying).1.foldl (commitItem c p f) s).mem
          ∧ ∀ m, (nextDelivery r.flying).1 = [m] → m.bad = [] → f.bad = [] →
            u.bytes (ringAddr c p m.off) (8 * (1 + m.words.length)) = wordBytes (headerWord c m :: m.words))
      ∧ ∀ n l, r.credits = n :: l →
          mayArrive s (.credit i.val p (r.creditNo - r.credits.length)) (destOf (routed s (paPath p c.spa false))) = true →
          ∃ u, exec (.creditReturn i p) s = .next u
          ∧ ∃ d q, u.chan? i.val = some d ∧ d.recv? p = some q ∧ q.credits = l ∧ q.rpSeen = (r.rpSeen + n) % 2 ^ c.rlog
            ∧ q.usedSeen = r.usedSeen - n)
  ∧ (∀ (j : Fin 64) (n : Nat) (f : FlitEcc) (s : State) (c : Cq) (k : CqPart), s.net.cqs[j.val]? = some c →
      c.flying[n]? = some k → c.flying.find? (·.id = k.id) = some k → mayArrive s (.part j.val k.id) (cqDest c) = true →
      (f.bad = [] → ∃ v, exec (.cqContributionArrival j n f) s = .next (settleCq v j.val) ∧ v.mem = s.mem ∧ v.pas = s.pas
        ∧ v.net.cqs[j.val]? = some { openRound s c k with flying := c.flying.filter (·.id ≠ k.id) })
      ∧ (f.bad ≠ [] → ∃ v d, exec (.cqContributionArrival j n f) s = .next v ∧ v.mem = s.mem
        ∧ v.net.cqs[j.val]? = some d ∧ d.lost = true ∧ d.flying = c.flying.filter (·.id ≠ k.id)))
  ∧ (∀ (i : Fin 1024) (p : Pa) (s : State) (c : Chan), s.chan? i.val = some c → mayDrop s i.val c p = true →
      ∃ u, exec (.multicastDrop i p) s = .next u ∧ u.regBit (.frb .evt) 0 = true
        ∧ ∃ d q, u.chan? i.val = some d ∧ d.dropped = true ∧ d.recv? p = some q ∧ q.live = false)
  ∧ ∀ (p q : Pa) (t r : Thr) (s : State), (p, t) ≠ (q, r) → blockedBy s p t q r = true → blockedBy s q r p t = true →
      ∃ v, v.regBit (.frb .evt) 1 = true ∧ v.pas = s.pas
        ∧ exec (.mutualBlockDetect p t q r) s = .next (settlePas [(p, t), (q, r)]
            (takeException (takeException v p t { exc := .deadlock }) q r { exc := .deadlock }))

/-- O46. The Fretboard's events (R300 to R304): a window start gives every listed arbiter of its domain the credits of its
weights; a freeze sets or clears its control bit and a cleared one arbitrates again; a reached freeze holds the arbiter
where its bit is set and nothing holds its resource; a debug flit counts on its link; a discarded header sets FRB_EVT bit 2, and ends the access,
the delivery or the contribution that it carried; and an access without a response ends with EXC_ECC. -/
def Obligations.FretboardEvents : Prop :=
  (∀ (hub : Bool) (s : State), ∃ u, exec (.arbiterWindowStart hub) s = .next u ∧ u = { s with net := u.net }
      ∧ ∀ (a : Arb) (x : Arbiter), (arbKey a, some x) ∈ s.net.arbs → (hub = match a with | .router _ _ => false | .stop _ => true) →
        (arbKey a, some { x with credit := arbWeights s a }) ∈ u.net.arbs)
  ∧ (∀ (a : Arb) (on : Bool) (s : State), ∃ u, exec (.arbiterFreeze a on) s = .next u
      ∧ u.regBit (freezeReg a) 0 = on ∧ (on = false → arbFrozen u a = false) ∧ u.pas = s.pas ∧ u.mem = s.mem)
  ∧ (∀ (a : Arb) (s : State), s.regBit (freezeReg a) 0 = true → resourceHeld s a = false →
      ∃ u, exec (.freezeReached a) s = .next u ∧ arbFrozen u a = true ∧ u.pas = s.pas)
  ∧ (∀ (r : Fin 128) (o : Fin 4) (s : State),
      sget (fun _ => 0) s.net.debug (arbKey (.router r (Fin.ofNat 5 (o.val + 1)))) ≤ s.now → ∃ u, exec (.debugFlitAccess r (Fin.ofNat 5 (o.val + 1))) s = .next u
      ∧ u.reg (.ovt (.link r o)) = addCtr (s.reg (.ovt (.link r o))) 1 ∧ u = { s with ctl := u.ctl, net := u.net }
      ∧ u.net.arbs = s.net.arbs ∧ u.net.pkts = s.net.pkts)
  ∧ (∀ (r : Fin 128) (i : Fin 5) (l : LostPacket) (s : State),
      ∃ v, exec (.headerDiscard r i l) s = .next (losePacket v l) ∧ v.regBit (.frb .evt) 2 = true
        ∧ v.regBit (.frb .errLoc) 10 = true ∧ v.pas = s.pas ∧ v.net = s.net)
  ∧ ∀ (p : Pa) (n : Nat) (s : State) (o : Op) (m : MemAcc), (s.pa p).ops.find? (·.id = n) = some o → o.acc = some m →
      ownSpm p m.addr m.size = false → o.keyed = none →
      exec (.responseTimeout p n) s = .next (abortWith s p o .ecc m.addr false)

/-! ## Homes, the package cache, HBM and the far tier (R254 to R277, R92 to R96) -/

/-- O47. Accesses at their homes (R91, R254, R256, R259, R263, R267, R273): REMOTE_SPM_ACCESS and FAR_TIER_ACCESS of a
requester that is no PA read or write the bytes named, answer a read with them, and answer an access outside the populated
SPM or a poisoned read with an error; a read of an SPM waits while no read port takes it; SLICE_REQUEST waits at its stop
until that admits it, answers a hit at once, queues the fill that a miss needs, and commits a write whose unit waits for
nothing; CACHE_FILL takes its fill out and answers the request that waited for it. -/
def Obligations.HomeAccesses : Prop :=
  let outside := fun (rq : Requester) => requesterPa rq = none
  (∀ (rq : Requester) (q : Pa) (o : BitVec 24) (fixed : List (Fin 1572864)) (fl : FlitEcc) (s : State), outside rq →
      fl.bad = [] →
      let a := spmAddr q o.toNat
      (∀ n, 0 < n → o.toNat + n ≤ spmSize → (s.pa q).online = true → homeDown s a = false → badAt s a n = none →
        let ask := SpmAsk.remote rq o.toNat (.read n)
        let port := readPort (s.pa q) (o.toNat / 4096) (raisedAsk (s.pa q) ask) (readersBefore (s.pa q) ask)
        (port.isSome = true → ∃ u, exec (.remoteSpmAccess rq q o (.read n) fixed fl) s = .next u ∧ u.mem = s.mem
          ∧ u.outbox = s.outbox ++ [.homeData rq (s.bytes a n)])
        ∧ (port = none →
          exec (.remoteSpmAccess rq q o (.read n) fixed fl) s = .next (s.setPa q (askPort ask (s.pa q)))))
      ∧ (∀ bs, bs ≠ [] → o.toNat + bs.length ≤ spmSize → (s.pa q).online = true → homeDown s a = false →
        mergeFits s a bs.length = true →
        ∃ u, exec (.remoteSpmAccess rq q o (.write bs) fixed fl) s = .next u ∧ u.bytes a bs.length = bs
          ∧ bytesKept s u a bs.length ∧ u.outbox = s.outbox)
      ∧ ∀ c, spmSize < o.toNat + accLen c ∨ (s.pa q).online = false →
        exec (.remoteSpmAccess rq q o c fixed fl) s = .next (s.emit (.homeError rq a)))
  ∧ (∀ (rq : Requester) (i : Fin 2) (off : Nat) (a : BitVec 48) (s : State), outside rq →
      region s a.toNat = .far i off →
      (∀ n, populated s a.toNat n false = true → homeDown s a.toNat = false → badAt s a.toNat n = none →
        ∃ u, exec (.farTierAccess rq a (.read n) false) s = .next u ∧ u.mem = s.mem
          ∧ u.outbox = s.outbox ++ [.homeData rq (s.bytes a.toNat n)])
      ∧ (∀ bs p, populated s a.toNat bs.length true = true → homeDown s a.toNat = false →
        ∃ u, exec (.farTierAccess rq a (.write bs) p) s = .next u ∧ u.bytes a.toNat bs.length = bs
          ∧ bytesKept s u a.toNat bs.length ∧ u.outbox = s.outbox)
      ∧ ∀ n, populated s a.toNat n false = true → homeDown s a.toNat = false →
        ∃ u, exec (.farTierAccess rq a (.read n) true) s = .next u ∧ u.mem = s.mem
          ∧ u.outbox = s.outbox ++ [.homeError rq a.toNat])
  ∧ (∀ (rq : Requester) (c : StreamClass) (a : BitVec 48) (acc : Access) (w : CacheWords) (s : State), outside rq →
      sliceTakes s rq a.toNat acc = true → homeDown s a.toNat = false →
      let h := hbmHub a.toNat
      let m := offer s rq (requestClass rq c) a.toNat acc
      (m.1 = none → exec (.sliceRequest rq c a acc w) s = .next m.2)
      ∧ (m.1.isSome = true →
        (∀ n, acc = .read n → readHeld s h a.toNat acc = false →
          (∀ k l, lineOf (s.slice h) (sliceUnit a.toNat) = some (k, l) → holds l a.toNat n = true →
            w.bad = none → badAt s a.toNat n = none →
            ∃ u, exec (.sliceRequest rq c a acc w) s = .next u ∧ u.mem = s.mem
              ∧ u.outbox = s.outbox ++ [.homeData rq (s.bytes a.toNat n)])
          ∧ (hitLine s h a.toNat acc = none →
            ∃ u f, exec (.sliceRequest rq c a acc w) s = .next u ∧ u.mem = s.mem ∧ u.outbox = s.outbox
              ∧ (u.slice h).fills = (s.slice h).fills ++ [f] ∧ f.rq = rq ∧ f.addr = a.toNat ∧ f.acc = some acc))
        ∧ ∀ bs, acc = .write bs →
          (writeWaits s a.toNat = false →
            ∃ u, exec (.sliceRequest rq c a acc w) s = .next u ∧ u.bytes a.toNat bs.length = bs
              ∧ bytesKept s u a.toNat bs.length)
          ∧ (writeWaits s a.toNat = true →
            ∃ u k, exec (.sliceRequest rq c a acc w) s = .next u ∧ u.mem = s.mem
              ∧ (u.slice h).waiting = (s.slice h).waiting ++ [k] ∧ k.addr = a.toNat ∧ k.bytes = bs)))
  ∧ ∀ (h : Hub) (n k : Nat) (s : State) (f : Fill), (s.slice h).fills[n]? = some f → f.acc = some (.read k) →
      outside f.rq → 0 < k → f.addr % 4096 + k ≤ 4096 → f.addr < hbmEnd → homeDown s f.addr = false →
      badAt s f.addr k = none → (s.slice h).waiting = [] →
      ∃ u, exec (.cacheFill h n) s = .next u ∧ (u.slice h).fills = dropAt (s.slice h).fills n ∧ u.mem = s.mem
        ∧ u.outbox = s.outbox ++ [.homeData f.rq (s.bytes f.addr k)]

/-- O48. Cache, HBM, CXL and merge buffer (R92, R94 to R96, R100, R260 to R262, R266 to R271, R397, R452): the events of the memories
outside the PAs and of an SPM's merge buffer, each with what it leaves of its own unit. -/
def Obligations.MemoryEvents : Prop :=
  (∀ (h : Hub) (k : Fin 32) (s : State) (x : Tracker), (s.slice h).trackers[k.val] = some x →
      prefetches s h x.rq x.cls = true → x.next ≤ x.lastDemand + prefetchDepth s h →
      unitAddr h x.next + 4096 ≤ hbmEnd → retired s (unitAddr h x.next) 4096 = false →
      (∀ i, i < 32 → (chanQueue s.st.hbms[(hbmStack (unitAddr h x.next)).val] i false).length < 32) →
      allocates (s.slice h) x.next = true → x.issued < 255 →
      (hasUnit (s.slice h) x.next = true
        ∨ (admitAt (stopReq (prefetchStop h x.next) 5 x.rq (unitAddr h x.next) (.read 4096)) s).1.isSome = true) →
      ∃ u, exec (.prefetchIssue h k) s = .next u ∧ u.mem = s.mem
        ∧ (u.slice h).trackers[k.val] = some { x with next := x.next + 1, issued := x.issued + 1 }
        ∧ (hasUnit (s.slice h) x.next = false → ∃ f,
            (u.slice h).fills = (s.slice h).fills ++ [f] ∧ f.addr = unitAddr h x.next ∧ f.acc = none))
  ∧ (∀ (h : Hub) (k : Fin 32) (s : State), ∃ u, exec (.trackerIdleEnd h k) s = .next u
      ∧ (u.slice h).trackers[k.val] = none ∧ (u.slice h).lines = (s.slice h).lines)
  ∧ (∀ (h : Hub) (b : Fin 16) (s : State), (s.slice h).banks[b.val] = .on →
      (∃ u, exec (.cacheBankDrain h b true) s = .next u ∧ (u.slice h).banks[b.val] = .draining
        ∧ u.regBit (.slice h .bankPd) b.val = true ∧ u.mem = s.mem)
      ∧ (bankWrites (s.slice h) b = [] →
        ∃ u, exec (.cacheBankForceDown h b) s = .next u ∧ (u.slice h).banks[b.val] = .forced ∧ u.mem = s.mem
          ∧ (∀ e ∈ bankLines (u.slice h) b, e.2.dirty ≠ 0)))
  ∧ (∀ (h : Hub) (b : Fin 16) (s : State), (s.slice h).banks[b.val] = .off →
      ∃ u, exec (.cacheBankDrain h b false) s = .next u ∧ (u.slice h).banks[b.val] = .on ∧ u.mem = s.mem)
  ∧ (∀ (h : Hub) (b : Fin 16) (s : State), (s.slice h).banks[b.val] = .draining ∨ (s.slice h).banks[b.val] = .forced →
      (∀ w ∈ (s.slice h).waiting, cacheBank (sliceUnit w.addr) ≠ b) →
      ∃ u, exec (.cacheBankOff h b) s = .next u ∧ (u.slice h).banks[b.val] = .off ∧ u.mem = s.mem)
  ∧ (∀ (n : Stack) (a : BitVec 48) (s : State), a.toNat < hbmEnd → hbmStack a.toNat = n →
      (∀ k, exec (.hbmReadReturn n a (.good k)) s = .next (s.countSat (.hbm n .eccCnt) 0 32 k))
      ∧ exec (.hbmReadReturn n a .retryPassed) s = .next (s.countSat (.hbm n .eccCnt) 32 16 1)
      ∧ ((s.slice (hbmHub a.toNat)).fills = [] → ∃ u, exec (.hbmReadReturn n a .stackUncorrectable) s = .next u
        ∧ u.mem.uncBurst = nins s.mem.uncBurst (floorTo a.toNat 32) ∧ u.regBit (.hbm n .errAddr) 48 = true))
  ∧ (∀ (n : Stack) (c : Fin 32) (b : Fin 64) (hits : Bool) (s : State),
      let k := c.val * 64 + b.val
      let d := sget (fun _ => 0) (s.st.hbms[n.val]).postponed k
      ∃ u, exec (.hbmRefresh n c b hits) s = .next u
        ∧ (hits = true → d < 4 → sget (fun _ => 0) (u.st.hbms[n.val]).postponed k = d + 1)
        ∧ (hits = false ∨ 4 ≤ d → sget (fun _ => 0) (u.st.hbms[n.val]).postponed k = 0
          ∧ sget (fun _ => none) (u.st.hbms[n.val]).openRow k = none))
  ∧ (∀ (n : Stack) (temp : BitVec 8) (s : State), ∃ u, exec (.hbmTempReport n temp) s = .next u
      ∧ (u.st.hbms[n.val]).temp = temp ∧ u.mem = s.mem
      ∧ (110 ≤ temp.toNat → (u.st.hbms[n.val]).therm = 3)
      ∧ (temp.toNat < 82 → (u.st.hbms[n.val]).therm = 0))
  ∧ (∀ (n : Stack) (i : Fin 64) (s : State) (x : RwpWrite),
      s.tpc.active.find? (·.off = (Reg.hbm n (.ret i)).off) = some x → s.tpc.waiting = [] →
      ∃ v, exec (.hbmRetire n i) s = .next (settleSessions v) ∧ v.rwp (.hbm n (.ret i)) = x.value
        ∧ v.tpc.active = s.tpc.active.filter (·.off ≠ (Reg.hbm n (.ret i)).off))
  ∧ (∀ (i : Fin 2) (cap : BitVec 14) (wide fast : Bool) (s : State), s.regBit (.cxl .cfg) (1 + i.val) = true →
      ∃ u, exec (.cxlReady i cap wide fast) s = .next u
        ∧ (let x := u.st.cxl[i.val]
          x.linkUp = true ∧ x.ready = true ∧ x.mapped = true ∧ x.wide = wide ∧ x.fast = fast
            ∧ x.cap = if 8192 < cap.toNat then 8192 else cap)
        ∧ ∀ b, b < farBase → sget noByte u.mem.bytes b = sget noByte s.mem.bytes b)
  ∧ (∀ (i : Fin 2) (s : State), ∃ u, exec (.cxlLinkDown i) s = .next u ∧ (u.st.cxl[i.val]).linkUp = false
      ∧ (u.st.cxl[i.val]).mapped = (s.st.cxl[i.val]).mapped ∧ u.mem = s.mem)
  ∧ (∀ (i : Fin 2) (on : Bool) (s : State), s.rp.prog = none →
      ∃ u, exec (.cxlPortEnable i on) s = .next u ∧ u.regBit (.cxl .cfg) (1 + i.val) = on
        ∧ (on = false → (u.st.cxl[i.val]).linkUp = false)
        ∧ (on = true → s.regBit (.cxl .cfg) (1 + i.val) = false → u.reg (.cxl (.err i)) = 0
          ∧ u.st.cxl[i.val] = { aside := u.st.cxl[i.val].aside, asideBad := u.st.cxl[i.val].asideBad }))
  ∧ (∀ (p : Pa) (n : Nat) (s : State) (e : Merge), (s.pa p).merge[n]? = some e →
      (mergeIdleLimit s p ≠ 0 → mergeIdleLimit s p + e.last ≤ (s.pa p).cycle →
        ∃ u, exec (.mergeIdleTimeout p n) s = .next u ∧ (u.pa p).merge[n]? = some { e with due := true } ∧ u.mem = s.mem
          ∧ ∃ r ∈ (u.pa p).asks, r.ask = .drain e.line)
      ∧ (mergeIdleLimit s p = 0 ∨ (s.pa p).cycle < mergeIdleLimit s p + e.last →
        exec (.mergeIdleTimeout p n) s = .next s))
  ∧ (∀ (p : Pa) (n : Nat) (s : State) (r : SpmReq), (s.pa p).asks[n]? = some r →
      ∃ u, exec (.guardPromote p n) s = .next u ∧ u.mem = s.mem
        ∧ (u.pa p).asks[n]? = some (if guardCycles s p + r.since ≤ (s.pa p).cycle then { r with raised := true } else r))
  ∧ (∀ (p : Pa) (fixed : List (Fin 1572864)) (s : State) (e : Merge),
      let x := if s.regBit (.pa p .ctrl) 0 then drainAll (s.pa p) else s.pa p
      drainNext x = some e → (drainPorts e x).isSome = true →
      ∃ u, exec (.mergeDrain p fixed) s = .next u ∧ (u.pa p).merge = x.merge.filter (·.line ≠ e.line)
        ∧ u.mem.bytes = s.mem.bytes)
  ∧ (∀ (p : Pa) (n : Nat) (s : State), (∃ r ∈ (s.pa p).asks, r.ask = .correct n) →
      (portFree (s.pa p) .write (8 * n / 4096) (raisedAsk (s.pa p) (.correct n)) = true →
        ∃ u, exec (.correctionWriteBack p n) s = .next u ∧ u = s.setPa p (u.pa p)
          ∧ (u.pa p).asks = (s.pa p).asks.filter (·.ask ≠ .correct n)
          ∧ (u.pa p).grants = (s.pa p).grants ++ [(.write, 8 * n / 4096)])
      ∧ (portFree (s.pa p) .write (8 * n / 4096) (raisedAsk (s.pa p) (.correct n)) = false →
        exec (.correctionWriteBack p n) s = .next s))
  ∧ ∀ (p : Pa) (s : State),
      (∃ u, exec (.quiesce p true) s = .next u ∧ u.regBit (.pa p .ctrl) 0 = true ∧ (u.pa p).quiesced = false
        ∧ (∀ t, u.thr p t = s.thr p t) ∧ ∀ e ∈ (u.pa p).merge, e.due = true)
      ∧ ((∀ t, (s.thr p t).cancelled = false ∧ (s.thr p t).undelivered = false) →
        ∃ u, exec (.quiesce p false) s = .next u ∧ u.regBit (.pa p .ctrl) 0 = false ∧ (u.pa p).quiesced = false)
      ∧ (s.regBit (.pa p .ctrl) 0 = true → (s.pa p).ops = [] → (s.pa p).merge = [] →
        ∃ u, exec (.quiesceReached p) s = .next u ∧ (u.pa p).quiesced = true ∧ u.mem = s.mem)

/-! ## Registers, clocks and the Tailpiece store (R12 to R16, R32, R38, R397) -/

/-- O49. REGISTER_WRITE (R12 to R16, R35): RW bits take the value, W1C bits clear where the value is 1 and every other bit
stays, as does a W1C bit that hardware sets in the cycle of the write (`ties`), in a register none of whose fields has an
effect of its own; an address outside every register is ignored; the
handler and overrun fields of a thread and the sticky PLL bits act on what they name; RWP bits go to Tailpiece, at once or
behind the writes before them. RWP_WRITE_COMPLETE gives the register its new value and lets a waiting write to it in.
PLL_LOSS_OF_LOCK clears the live bit, sets the sticky bit and stops what the PLL clocks; PLL_RELOCK sets the live bit, and
stacks that were not refreshed have lost their contents. BRG_PORT_ENABLE writes the enable bit of its register. -/
def Obligations.RegisterWrites : Prop :=
  (∀ (a : BitVec 48) (v ties : Word) (s : State) (r : Reg), region s a.toNat = .ctl r.off → Reg.at? r.off = some r →
      plainReg r = true →
      (r.spec.rwp = 0 → ∃ u, exec (.registerWrite a v ties) s = .next u ∧ writtenAs r v ties s u)
      ∧ (r.spec.rwp ≠ 0 → s.tpc.waiting = [] →
        (mayAccept s r.off = true →
          ∃ u, exec (.registerWrite a v ties) s = .next u ∧ writtenAs r v 0 s { u with tpc := s.tpc }
            ∧ u.tpc = { s.tpc with
                active := s.tpc.active ++ [{ off := r.off, value := rwpValue r (s.rwp r) v, asker := none }] })
        ∧ (mayAccept s r.off = false → exec (.registerWrite a v ties) s = .next { s with tpc := { s.tpc with
              waiting := [{ off := r.off, value := v, asker := none }] } })))
  ∧ (∀ (a : BitVec 48) (v ties : Word) (s : State), (∀ o r, region s a.toNat = .ctl o → Reg.at? o ≠ some r) →
      exec (.registerWrite a v ties) s = .next s)
  ∧ (∀ (a : BitVec 48) (v ties : Word) (s : State) (p : Pa) (t : Thr),
      (region s a.toNat = .ctl (Reg.pa p (.thHandler t)).off →
        Reg.at? (Reg.pa p (.thHandler t)).off = some (.pa p (.thHandler t)) →
        ∃ u, exec (.registerWrite a v ties) s = .next u ∧ (u.thr p t).handlerPc = field v 0 14
          ∧ (u.thr p t).handlerOn = bit v 15 ∧ u.mem = s.mem ∧ u.ctl = s.ctl)
      ∧ (region s a.toNat = .ctl (Reg.pa p (.thExc t)).off →
        Reg.at? (Reg.pa p (.thExc t)).off = some (.pa p (.thExc t)) → bit v 10 = true →
        ∃ u, exec (.registerWrite a v ties) s = .next u
          ∧ (u.thr p t).exc.overrun = ((s.thr p t).exc.overrun && bit ties 10) ∧ u.mem = s.mem ∧ u.ctl = s.ctl))
  ∧ (∀ (a : BitVec 48) (v ties : Word) (s : State), region s a.toNat = .ctl (Reg.glb .clkStat).off →
      ∃ u, exec (.registerWrite a v ties) s = .next u ∧ u = { s with clk := u.clk } ∧ u.clk.live = s.clk.live
        ∧ ∀ k, k < 27 → u.clk.sticky.getLsbD k = (s.clk.sticky.getLsbD k && !(bit v (32 + k) && !bit ties (32 + k))))
  ∧ (∀ (a : BitVec 48) (s : State) (r : Reg) (x : RwpWrite), a.toNat = ctlBase + r.off → Reg.at? r.off = some r →
      s.tpc.active.find? (·.off = r.off) = some x → s.tpc.active.length ≤ 8 →
      (s.tpc.waiting = [] →
        ∃ v, exec (.rwpWriteComplete a) s = .next (settleSessions v) ∧ v.rwp r = x.value ∧ v.tpc.waiting = []
          ∧ v.tpc.active = s.tpc.active.filter (·.off ≠ r.off))
      ∧ ∀ w, s.tpc.waiting = [w] → w.off = r.off →
        ∃ v, exec (.rwpWriteComplete a) s = .next (settleSessions v) ∧ v.rwp r = x.value ∧ v.tpc.waiting = []
          ∧ v.tpc.active = s.tpc.active.filter (·.off ≠ r.off) ++ [{ w with value := rwpValue r x.value w.value }])
  ∧ (∀ (k : Fin 27) (s : State), (s.clk.live.getLsbD k.val = false → exec (.pllLossOfLock k) s = .next s)
      ∧ (s.clk.live.getLsbD k.val = true → ∃ u, exec (.pllLossOfLock k) s = .next u
        ∧ u.clk.live = s.clk.live &&& ~~~ bitAt 27 k.val true ∧ u.clk.sticky = s.clk.sticky ||| bitAt 27 k.val true
        ∧ (∀ p : Pa, p.val / 16 = k.val → (u.pa p).online = false)
        ∧ (∀ n : Stack, k.val = 8 + n.val / 6 ∨ k.val = 12 + n.val / 6 → (u.st.hbms[n.val]).ready = false)
        ∧ (∀ e : EPort, k.val = 8 + e.val ∨ k.val = 16 + e.val → (u.host.eth[e.val]).linkUp = false)
        ∧ (∀ n : BPort, k.val = 8 + (brgHub n).val ∨ k.val = 18 + (brgHub n).val → (u.brg.ports[n.val]).st = .down)
        ∧ (∀ i : Fin 2, k.val = 9 + 2 * i.val ∨ k.val = 22 + i.val → (u.st.cxl[i.val]).linkUp = false)
        ∧ (k.val = 25 → u.spt.standbyOk = false) ∧ (k.val = 26 → u.drone.clockFail = true)))
  ∧ (∀ (k : Fin 27) (s : State), s.clk.live.getLsbD k.val = false → s.clk.powered = true → s.clk.inReset = false →
      s.clk.stopped.getLsbD k.val = false →
      ∃ v, exec (.pllRelock k) s = .next (settleSessions v) ∧ v.clk.live = s.clk.live ||| bitAt 27 k.val true
        ∧ (∀ n : Stack, k.val = 12 + n.val / 6 → (v.st.hbms[n.val]).ready = true)
        ∧ (∀ a, a < hbmEnd → k.val = 12 + (hbmHub a).val → sget noByte v.mem.bytes a = noByte a)
        ∧ ∀ a, ¬ (a < hbmEnd ∧ k.val = 12 + (hbmHub a).val) → sget noByte v.mem.bytes a = sget noByte s.mem.bytes a)
  ∧ ∀ (n : BPort) (on : Bool) (s : State), s.tpc.waiting = [] → mayAccept s (Reg.brg n .cfg).off = true →
      Reg.at? (Reg.brg n .cfg).off = some (.brg n .cfg) →
      ∃ u x, exec (.brgPortEnable n on) s = .next u ∧ u.tpc = { s.tpc with active := s.tpc.active ++ [x] }
        ∧ x.off = (Reg.brg n .cfg).off ∧ bit x.value 0 = on ∧ bit x.value 1 = bit (regRead s (.brg n .cfg)) 1

/-! ## Ethernet and the handshake (R307 to R315) -/

/-- O50. Frames, links and handshakes (R307, R308, R312 to R315): a request that the port takes, for its own address, is
answered from the port to the source of the frame, and any other frame changes nothing; a link comes up once its PLLs are
locked, and its fall ends no session; a HELLO that R314 refuses is answered with its status and starts nothing, and one that
it does not refuse starts a handshake, or is answered status 3 where the X25519 result is invalid; a FINISH opens a session, or is
refused with status 4 and HIF_EVT bit 0; and a timeout discards its handshake or ends its session. -/
def Obligations.Handshakes : Prop :=
  (∀ (f : Frame) (l : List Byte) (s : State),
      let answers := frameTaken s f = true ∧ ownAddress s f = true
      (answers → f.v6 = false → exec (.arpRequest f) s = .next (s.emit (.reply f.port (replyDest s f) 0 [])))
      ∧ (answers → f.v6 = true → exec (.neighbourSolicitation f) s = .next (s.emit (.reply f.port (replyDest s f) 1 [])))
      ∧ (answers → echoFits f l = true → exec (.icmpEcho f l) s = .next (s.emit (.reply f.port (replyDest s f) 2 l)))
      ∧ (replyDest s f).peer = { mac := f.srcMac, ip := f.srcIp, v6 := f.v6 }
      ∧ (¬ answers → exec (.arpRequest f) s = .next s ∧ exec (.neighbourSolicitation f) s = .next s
        ∧ exec (.icmpEcho f l) s = .next s)
      ∧ exec (.frameDiscard f) s = .next s)
  ∧ (∀ (e : EPort) (b : Bool) (s : State),
      (ethClocked s e = true → ∃ u, exec (.ethLinkUp e b) s = .next u ∧ (u.host.eth[e.val]).linkUp = true
        ∧ (u.host.eth[e.val]).optical = b ∧ u.host.sessions = s.host.sessions)
      ∧ ∃ u, exec (.ethLinkDown e) s = .next u ∧ (u.host.eth[e.val]).linkUp = false ∧ u.host.sessions = s.host.sessions)
  ∧ (∀ (d : Datagram) (role rsvd : BitVec 8) (nonce x kem : List Byte) (s : State),
      (datagramTaken s d = false → exec (.hello d role rsvd nonce x kem) s = .next s)
      ∧ (datagramTaken s d = true → handshakesServed s = true →
        let dest := replyDest s d.toFrame
        let n := if d.outerOk then helloStatus s d.port role rsvd nonce x kem else 3
        (n ≠ 0 → ∃ u, exec (.hello d role rsvd nonce x kem) s = .next u ∧ u.host = s.host
          ∧ u.outbox = s.outbox ++ [.helloR d.port dest n 0 []])
        ∧ (n = 0 → ∃ u, exec (.hello d role rsvd nonce x kem) s = .next u ∧ u.host.sessions = s.host.sessions ∧
          let st := (x25519Out ((randomBytes s 4).drop 32 |>.take 32) x).status
          (st ≠ 0 → u.host = s.host ∧ u.outbox = s.outbox ++ [.helloR d.port dest 3 0 []])
          ∧ (st = 0 → ∃ h body, u.host.handshakes = s.host.handshakes ++ [h] ∧ h.port = d.port
            ∧ h.control = decide (role = 1) ∧ h.sid ≠ 0 ∧ u.outbox = s.outbox ++ [.helloR d.port dest 0 h.sid body]))))
  ∧ (∀ (d : Datagram) (sid : BitVec 32) (edPk dsaPk : List Byte) (s : State) (h : Handshake) (k : Fin 16),
      datagramTaken s d = true → d.outerOk = true → soundpostUp s = true →
      (s.host.handshakes.find? fun h => h.sid = sid && h.port = d.port) = some h → freeSlot s d.port = some k →
      (∀ entry, admission s h.control (sha3_384 (edPk ++ dsaPk)) = some entry → seqsLeft s = true →
        (h.control = true → ∀ e ∈ s.rp.exports, e.sent = true) →
        ∃ u y, exec (.finish d sid true edPk dsaPk true) s = .next u ∧ u.sess k = some y ∧ y.sid = sid
          ∧ y.control = h.control ∧ y.entry = entry ∧ y.okm = h.okm ∧ y.peer = sourceOf d.toFrame
          ∧ u.host.handshakes = s.host.handshakes.filter (·.sid ≠ sid))
      ∧ (∀ b, b = false ∨ admission s h.control (sha3_384 (edPk ++ dsaPk)) = none →
        ∃ u, exec (.finish d sid true edPk dsaPk b) s = .next u ∧ u.host.sessions = s.host.sessions
          ∧ u.host.handshakes = s.host.handshakes.filter (·.sid ≠ sid) ∧ u.regBit (.hif .evt) 0 = true
          ∧ u.outbox = s.outbox ++ [.finishR d.port (replyDest s d.toFrame) sid 4 0 0])
      ∧ ∀ b, ∃ u, exec (.finish d sid false edPk dsaPk b) s = .next u ∧ u.host = s.host ∧ u.outbox = s.outbox)
  ∧ (∀ (sid : BitVec 32) (s : State), ∃ u, exec (.handshakeTimeout sid) s = .next u
      ∧ u.host.handshakes = s.host.handshakes.filter (·.sid ≠ sid) ∧ u.host.sessions = s.host.sessions)
  ∧ ∀ (k : Fin 16) (s : State) (x : Session), s.sess k = some x →
      ∃ u, exec (.sessionIdleTimeout k) s = .next u ∧ u.sess k = none
        ∧ u.regBit (.hif .evt) (1 + (slotPort k).val) = true
        ∧ (∀ i : Fin 64, x.control = true → pegOwner s.host.peg[i.val] = portOwner (slotPort k) →
            pegOwner u.host.peg[i.val] = 0 ∧ bit u.host.peg[i.val] 2 = true)

/-! ## Host requests (R310, R315 to R326) -/

/-- O51. Requests of a session (R309, R310, R315 to R319, R324, R383): a datagram that the session does not accept changes
nothing of the sessions and sends nothing; a body without the form of its message is answered MALFORMED, and a message that
the role may not send ROLE; and each request on registers, memory, watches, events, keys of the port, the report and the
session has its effect, with its response the last message sent. A CLOSE has none. -/
def Obligations.HostRequests : Prop :=
  (∀ (c : Instr) (h : GHdr) (b : GhtBody) (k : Fin 16) (x : Session) (s : State), hostBody c = some (h, b) →
      (datagramTaken s h.toDatagram = false → exec c s = .next s)
      ∧ (arrives s h k x = true →
        (b.fits = false ∨ h.bodyOk = false → ∃ u, exec c s = .next u ∧ answered u h k .malformed 0 [] ∧ u.mem = s.mem)
        ∧ (b.fits = true → h.bodyOk = true → (x.control || b.observer) = false →
          ∃ u, exec c s = .next u ∧ answered u h k .role 0 [] ∧ u.mem = s.mem)
        ∧ ∀ g : GHdr, g = { h with outerOk := false } ∨ g = { h with authOk := false } →
          ∀ d, hostBody d = some (g, b) → ∃ u, exec d s = .next u ∧ u.host = s.host ∧ u.outbox = s.outbox ∧ u.mem = s.mem))
  ∧ (∀ (h : GHdr) (k : Fin 16) (x : Session) (s : State) (l : List (Word × Reg)),
      let b := GhtBody.regRead (l.map (·.1))
      hosted s h b k x = true → (∀ e ∈ l, hostReads (askerOf h x) e.1 e.2 = true) →
      ∃ u, exec (.regRead h (l.map (·.1))) s = .next u ∧ u.mem = s.mem
        ∧ answered u h k .ok 0 (l.flatMap fun e => leBytes 8 (regRead (received s h b k x) e.2).toNat))
  ∧ (∀ (h : GHdr) (k : Fin 16) (x : Session) (s : State) (l : List (Word × Reg)) (a : Word) (r : List Word),
      let b := GhtBody.regRead (l.map (·.1) ++ a :: r)
      hosted s h b k x = true → (∀ e ∈ l, hostReads (askerOf h x) e.1 e.2 = true) →
      (a.toNat % 8 ≠ 0 → ∃ u, exec (.regRead h (l.map (·.1) ++ a :: r)) s = .next u ∧ answered u h k .align l.length [])
      ∧ (a.toNat % 8 = 0 → a.toNat < ctlBase ∨ ctlBase + 0x2000000 ≤ a.toNat →
        ∃ u, exec (.regRead h (l.map (·.1) ++ a :: r)) s = .next u ∧ answered u h k .window l.length []))
  ∧ (∀ (h : GHdr) (k : Fin 16) (x : Session) (s : State) (l : List (Word × Word × Reg)),
      let b := GhtBody.regWrite (l.map fun e => (e.1, e.2.1))
      hosted s h b k x = true → s.tpc.active = [] → s.tpc.waiting = [] →
      (∀ e ∈ l, hostWrites (askerOf h x) e.1 e.2.2 = true ∧ e.2.2.spec.rwp = 0) →
      ∃ u, exec (.regWrite h (l.map fun e => (e.1, e.2.1))) s = .next u ∧ answered u h k .ok 0 [] ∧ u.mem = s.mem
        ∧ ∀ r : Reg, (∀ q, r ≠ .ovt q) →
          u.reg r = (l.zipIdx.foldl (fun s e =>
            let g := e.1.2.2
            plainWrite s g (e.1.2.1 &&& ~~~ ((h.ties[e.2]?.getD 0) &&& g.spec.w1c))) (received s h b k x)).reg r)
  ∧ (∀ (h : GHdr) (k : Fin 16) (x : Session) (s : State) (a v : Word) (r : Reg),
      let b := GhtBody.regWrite [(a, v)]
      hosted s h b k x = true → s.tpc.active = [] → s.tpc.waiting = [] → hostWrites (askerOf h x) a r = true → r.spec.rwp ≠ 0 →
      r.off = a.toNat - ctlBase →
      ∃ u y, exec (.regWrite h [(a, v)]) s = .next u ∧ u.outbox = s.outbox ∧ u.sess k = some y
        ∧ y.busy.map (·.id) = [h.reqId]
        ∧ u.tpc.active = [{ off := r.off, value := rwpValue r (s.rwp r) v, asker := some (h.sid, h.reqId) }])
  ∧ (∀ (h : GHdr) (k : Fin 16) (x : Session) (s : State) (a : Word) (n : BitVec 32) (c : BitVec 8),
      hosted s h (.memRead a n c) k x = true →
      let ok := c.toNat < 4 ∧ n.toNat % 8 = 0 ∧ 0 < n.toNat ∧ n.toNat ≤ 8192
      let taken := hostTakes (received s h (.memRead a n c) k x) h.port (classOf c.toNat) a.toNat (.read n.toNat)
      (¬ ok → ∃ u, exec (.memRead h a n c) s = .next u ∧ answered u h k .malformed 0 [])
      ∧ (∀ st, ok → memRefusal s a.toNat n.toNat false = some st →
        ∃ u, exec (.memRead h a n c) s = .next u ∧ answered u h k st 0 [])
      ∧ (ok → taken = true → badAt s a.toNat n.toNat = none →
        ∃ u, exec (.memRead h a n c) s = .next u ∧ answered u h k .ok 0 (s.bytes a.toNat n.toNat) ∧ u.mem = s.mem)
      ∧ (∀ bad, ok → taken = true → badAt s a.toNat n.toNat = some bad →
        ∃ u, exec (.memRead h a n c) s = .next u ∧ answered u h k .ecc 0 []))
  ∧ (∀ (h : GHdr) (k : Fin 16) (x : Session) (s : State) (a : Word) (c : BitVec 8) (d : List Byte),
      hosted s h (.memWrite a c d) k x = true → c.toNat < 4 → d.length % 8 = 0 → 0 < d.length → d.length ≤ 8192 →
      (∀ st, memRefusal s a.toNat d.length true = some st →
        ∃ u, exec (.memWrite h a c d) s = .next u ∧ answered u h k st 0 [] ∧ u.mem = s.mem)
      ∧ (hostTakes (received s h (.memWrite a c d) k x) h.port (classOf c.toNat) a.toNat (.write d) = true →
        ∃ u, exec (.memWrite h a c d) s = .next u ∧ answered u h k .ok 0 [] ∧ u.bytes a.toNat d.length = d
          ∧ bytesKept s u a.toNat d.length))
  ∧ (∀ (h : GHdr) (k : Fin 16) (x : Session) (s : State) (base off : Word) (d : List Byte),
      let a := base.toNat + off.toNat
      hosted s h (.keyWrite base off d) k x = true → d.length ≤ 8192 → base.toNat % 4096 = 0 →
      (off = 0 → keyDetail d ≠ 0 →
        ∃ u, exec (.keyWrite h base off d) s = .next u ∧ answered u h k .key (keyDetail d) [] ∧ u.mem = s.mem)
      ∧ (off ≠ 0 ∨ keyDetail d = 0 → region s base.toNat = .hbm → region s a = .hbm → populated s a d.length true = true →
        homeTakes (received s h (.keyWrite base off d) k x) (.host h.port) .key a (.write d) = true →
        ∃ u, exec (.keyWrite h base off d) s = .next u ∧ answered u h k .ok 0 [] ∧ u.bytes a d.length = d
          ∧ bytesKept s u a d.length))
  ∧ (∀ (h : GHdr) (k : Fin 16) (x : Session) (s : State) (a v : Word),
      hosted s h (.doorbell a v) k x = true →
      hostTakes (received s h (.doorbell a v) k x) h.port .scratch a.toNat (.atomic .add v) = true →
      (∀ i o, region s a.toNat ≠ .far i o) →
      badAt s a.toNat 8 = none →
      ∃ u, exec (.doorbell h a v) s = .next u ∧ answered u h k .ok 0 (s.bytes a.toNat 8)
        ∧ u.bytes a.toNat 8 = leBytes 8 (s.word a.toNat + v).toNat ∧ bytesKept s u a.toNat 8)
  ∧ (∀ (h : GHdr) (k : Fin 16) (x : Session) (s : State) (a : Word) (i : BitVec 8),
      hosted s h (.watch a i) k x = true → i.toNat < 16 → a.toNat % 8 = 0 → region s a.toNat = .hbm →
      populated s a.toNat 8 false = true → badAt s a.toNat 8 = none →
      homeTakes (received s h (.watch a i) k x) (.host h.port) .scratch a.toNat (.read 8) = true →
      watchCount s k.val i.toNat < 64 →
      ∃ u y, exec (.watch h a i) s = .next u ∧ answered u h k .ok 0 (s.bytes a.toNat 8) ∧ u.mem = s.mem
        ∧ u.sess k = some y ∧ y.watches.toList[i.toNat]? = some (some { addr := a.toNat }))
  ∧ (∀ (h : GHdr) (k : Fin 16) (x : Session) (s : State) (i : BitVec 8), hosted s h (.unwatch i) k x = true → i.toNat < 16 →
      ∃ u y, exec (.unwatch h i) s = .next u ∧ answered u h k .ok 0 [] ∧ u.sess k = some y
        ∧ y.watches.toList[i.toNat]? = some none)
  ∧ (∀ (h : GHdr) (k : Fin 16) (x : Session) (s : State) (n : BitVec 32), hosted s h (.eventAck n) k x = true →
      ∃ u y, exec (.eventAck h n) s = .next u ∧ answered u h k .ok 0 [] ∧ u.sess k = some y
        ∧ y.events = x.events.filter (·.eseq ≠ n))
  ∧ (∀ (h : GHdr) (k : Fin 16) (x : Session) (s : State) (su an : BitVec 8) (sci : Word) (sak : List Byte)
      (ssci : BitVec 32) (salt : List Byte), hosted s h (.macsecKey su an sci sak ssci salt) k x = true → su.toNat ≤ 2 →
      su = 2 ∨ allZero salt = true →
      ∃ u, exec (.macsecKey h su an sci sak ssci salt) s = .next u ∧ answered u h k .ok 0 []
        ∧ (u.host.eth[h.port.val]).macsec = if su = 0 then none else
            some { suite := su, an := an, sci := sci, sak := sak, ssci := ssci, salt := salt })
  ∧ (∀ (h : GHdr) (k : Fin 16) (x : Session) (s : State) (n : List Byte), hosted s h (.attest n) k x = true →
      let r := reportBody (received s h (.attest n) k x) (askerOf h x) n
      ∃ u, exec (.attest h n) s = .next u ∧ u.mem = s.mem ∧ u.drone.rngTotal = s.drone.rngTotal + 1
        ∧ answered u h k .ok 0 (r ++ (Config.edSign (idSeed 0) r ++ Config.dsaSign (idSeed 32) r (randomBytes s 1))))
  ∧ (∀ (h : GHdr) (k : Fin 16) (x : Session) (s : State), hosted s h .ping k x = true →
      ∃ u, exec (.ping h) s = .next u ∧ answered u h k .ok 0 [] ∧ u.mem = s.mem ∧ u.pas = s.pas ∧ u.rp = s.rp)
  ∧ (∀ (h : GHdr) (ty : BitVec 16) (k : Fin 16) (x : Session) (s : State), arrives s h k x = true →
      ∃ u, exec (.unlistedMessageType h ty) s = .next u ∧ answered u h k .malformed 0 [] ∧ u.mem = s.mem)
  ∧ (∀ (h : GHdr) (k : Fin 16) (x : Session) (s : State), hosted s h .close k x = true →
      ∃ u, exec (.close h false) s = .next u ∧ u.sess k = none
        ∧ ∀ m ∈ u.outbox, m ∈ s.outbox ∨ ∃ d sid seq e, m = .event d sid seq e)
  ∧ (∀ (h : GHdr) (k : Fin 16) (x : Session) (s : State), findSid s h.sid = some k → s.sess k = some x →
      slotPort k = h.port → x.tx < 2 ^ 40 →
      ∃ u d, exec (.close h true) s = .next u ∧ u.sess k = none ∧ d.peer = x.peer ∧ .closed d x.sid x.tx ∈ u.outbox)
  ∧ (∀ (k i : Fin 16) (s : State) (x : Session) (y : Watch) (v : Word), s.sess k = some x → x.watches[i.val] = some y →
      y.due = some v → seqsLeft s = true →
      ∃ u z d e, exec (.watchEvent k i) s = .next u ∧ u.sess k = some z ∧ z.watches[i.val] = some { y with due := none }
        ∧ z.events.getLast? = some e ∧ e.eseq = x.eseq ∧ (x.events.length < 64 → e.code = 2)
        ∧ e.args.take 16 = byte1 i.val ++ zeroBytes 7 ++ leBytes 8 v.toNat ∧ d.peer = x.peer
        ∧ u.outbox = s.outbox ++ [.event d x.sid x.tx e])
  ∧ ∀ (k : Fin 16) (n : BitVec 32) (s : State) (x : Session) (e : Event), s.sess k = some x →
      x.events.find? (·.eseq = n) = some e → seqsLeft s = true →
      ∃ u d, exec (.eventRetransmit k n) s = .next u ∧ d.peer = x.peer ∧ u.outbox = s.outbox ++ [.event d x.sid x.tx e]
        ∧ u.mem = s.mem

/-- O52. Programs and exports from a host (R106, R203, R321 to R323, R325, R326): a load is accepted when no program is
resident or loading, and refused with detail 1 otherwise; its end makes the program resident with its start-at-load threads
running, or leaves none; a cancel or unload stops every thread of the program outside quiesce, and is answered when they
have stopped; a resend sends the range again; and an answer or a refusal ends its export. -/
def Obligations.ProgramRequests : Prop :=
  (∀ (h : GHdr) (k : Fin 16) (x : Session) (s : State) (a : Word) (n : BitVec 32), hosted s h (.progLoad a n) k x = true →
      (s.rp.prog = none → s.rp.load = none →
        ∃ u, exec (.progLoad h a n) s = .next u ∧ u.outbox = s.outbox ∧ u.mem = s.mem
          ∧ u.rp.load = some { sid := h.sid, reqId := h.reqId, addr := a.toNat, timeoutS := n.toNat })
      ∧ (s.rp.prog.isSome = true ∨ s.rp.load.isSome = true →
        ∃ u, exec (.progLoad h a n) s = .next u ∧ answered u h k .load 1 [] ∧ u.rp = s.rp))
  ∧ (∀ e ∈ ([(Instr.progCancel, GhtBody.progCancel, false), (Instr.progUnload, GhtBody.progUnload, true)]
        : List ((GHdr → Instr) × GhtBody × Bool)),
      ∀ (h : GHdr) (k : Fin 16) (x : Session) (s : State), hosted s h e.2.1 k x = true →
        let w : CancelWait := { sid := h.sid, reqId := h.reqId, unload := e.2.2 }
        (s.rp.prog = none → s.rp.load = none → ∃ u, exec (e.1 h) s = .next u ∧ answered u h k .noProgram 0 [])
        ∧ (∀ l, s.rp.load = some l →
          ∃ u, exec (e.1 h) s = .next u ∧ u.rp.load = some { l with waits := l.waits ++ [w] } ∧ u.pas = s.pas)
        ∧ ∀ q, s.rp.load = none → s.rp.prog = some q →
          ∃ u r, exec (e.1 h) s = .next u ∧ u.rp.prog = some r ∧ r.waits = q.waits ++ [w]
            ∧ (q.status = .running → r.cancelSrc.isSome = true
              ∧ ∀ p t, q.has p = true → s.regBit (.pa p .ctrl) 0 = false → (u.thr p t).active = false))
  ∧ (∀ (s : State) (l : Load), s.rp.load = some l → s.rp.prog = none → l.waits = [] → s.pas.all paQuiet = true →
      soundpostUp s = true → s.spt.restart = none →
      (∀ f, (runLoad s l.addr).res = .error f →
        ∃ v, exec .progLoadComplete s = .next (settleSessions v) ∧ v.rp.load = none ∧ v.rp.prog = none)
      ∧ ∀ m t, (runLoad s l.addr).res = .ok (m, t) →
        ∃ v q, exec .progLoadComplete s = .next (settleSessions v) ∧ v.rp.load = none ∧ v.rp.prog = some q
          ∧ q.mask = m.mask ∧ q.digest = m.digest ∧ q.timeoutS = l.timeoutS ∧ v.rp.keys = t.kdir.keys
          ∧ ∀ e ∈ t.threads,
            let y := v.thr (Fin.ofNat 128 e.pa) (Fin.ofNat 8 e.thread)
            y.pc = e.pc ∧ y.rs 1 = e.s1 ∧ y.ra 1 = e.a1 ∧ y.st = if e.flags.testBit 0 then .run else .idle)
  ∧ (∀ (s : State) (q : Program), s.rp.prog = some q → q.waits ≠ [] → quietProgram s q = true → seqsLeft s = true →
      q.waits.length < 2 ^ 32 →
      ∃ v, exec .cancelComplete s = .next (settleSessions v)
        ∧ (q.waits.any (·.unload) = true → v.rp.prog = none ∧ v.rp.keys = [] ∧ v.net.chans = [])
        ∧ (q.waits.any (·.unload) = false → v.rp.prog = some { q with waits := [] })
        ∧ ∀ w ∈ q.waits, (findSid s w.sid).isSome = true → ∃ d seq, .response d w.sid seq w.reqId .ok 0 [] ∈ v.outbox)
  ∧ (∀ (s : State) (q : Program), s.rp.prog = some q → q.status = .running → q.timeoutS ≠ 0 →
      ∃ u r, exec .programTimeout s = .next u ∧ u.rp.prog = some r ∧ (q.cancelSrc = none → r.cancelSrc = some 3)
        ∧ ∀ p t, q.has p = true → s.regBit (.pa p .ctrl) 0 = false → (u.thr p t).active = false)
  ∧ (∀ (h : GHdr) (k : Fin 16) (x : Session) (s : State) (c : BitVec 8) (off n : Word) (e : Export),
      hosted s h (.exportResend c off n) k x = true → findExport s c = some e → off.toNat + n.toNat ≤ objBytes s e.desc →
      n.toNat ≤ 2 ^ 40 →
      (∀ o z, (o, z) ∈ exportPieces (n.toNat / 8192 + 1) off.toNat n.toNat →
        badAt s (dBase e.desc + o) z = none ∧ ∀ d i, region s (dBase e.desc + o) ≠ .bridge d i) →
      ∃ u, exec (.exportResend h c off n) s = .next u ∧ answered u h k .ok 0 [] ∧ u.mem = s.mem
        ∧ ∀ o z, (o, z) ∈ exportPieces (n.toNat / 8192 + 1) off.toNat n.toNat →
          ∃ d seq, .exportData d h.sid seq c o (s.bytes (dBase e.desc + o) z) ∈ u.outbox)
  ∧ (∀ (h : GHdr) (k : Fin 16) (x : Session) (s : State) (c : BitVec 8) (d : Desc), hosted s h (.answerBegin c d) k x = true →
      (findExport s c = none → ∃ u, exec (.answerBegin h c d) s = .next u ∧ answered u h k .exporting 1 [] ∧ u.rp = s.rp)
      ∧ ∀ e, findExport s c = some e →
        (∀ j, e.bound = some j → j ≠ k.val →
          ∃ u, exec (.answerBegin h c d) s = .next u ∧ answered u h k .exporting 2 [] ∧ u.rp = s.rp)
        ∧ (e.bound = none ∨ e.bound = some k.val → answerFits s e d = false →
          ∃ u, exec (.answerBegin h c d) s = .next u ∧ answered u h k .exporting 4 [] ∧ u.rp = s.rp)
        ∧ (e.bound = none ∨ e.bound = some k.val → answerFits s e d = true →
          ∃ u, exec (.answerBegin h c d) s = .next u ∧ answered u h k .ok 0 []
            ∧ findExport u c = some { e with bound := some k.val, answer := some d, covered := [] }))
  ∧ (∀ (h : GHdr) (k : Fin 16) (x : Session) (s : State) (c : BitVec 8) (off : Word) (d : List Byte) (e : Export)
      (t : Desc), hosted s h (.answerData c off d) k x = true → findExport s c = some e → e.bound = some k.val →
      e.answer = some t → off.toNat + d.length ≤ objBytes s t → d.length ≤ 8192 →
      (∀ g o, region s (e.ab + off.toNat) ≠ .bridge g o) →
      (∀ p o, region s (e.ab + off.toNat) = .spm p o → o + d.length ≤ spmSize) →
      ∃ u, exec (.answerData h c off d) s = .next u ∧ answered u h k .ok 0 []
        ∧ u.bytes (e.ab + off.toNat) d.length = d ∧ bytesKept s u (e.ab + off.toNat) d.length
        ∧ findExport u c = some { e with covered := e.covered ++ [(off.toNat, off.toNat + d.length)] })
  ∧ (∀ (h : GHdr) (k : Fin 16) (x : Session) (s : State) (c : BitVec 8) (e : Export) (t : Desc),
      hosted s h (.answerEnd c) k x = true → findExport s c = some e → e.bound = some k.val → e.answer = some t →
      let whole := coversAll (e.covered.length + 1) e.covered (objBytes s t) 0
      (whole = false → ∃ u, exec (.answerEnd h c) s = .next u ∧ answered u h k .exporting 3 [] ∧ u.rp = s.rp)
      ∧ (whole = true → ∃ u, exec (.answerEnd h c) s = .next u ∧ answered u h k .ok 0 [] ∧ findExport u c = none
        ∧ (u.thr e.pa e.thr).rc e.cd.val = rebase t e.ab
        ∧ ((s.thr e.pa e.thr).wait = .exporting c →
            (u.thr e.pa e.thr).wait = .none ∧ (u.thr e.pa e.thr).released = some (s.thr e.pa e.thr).pc)
        ∧ ((s.thr e.pa e.thr).wait ≠ .exporting c → (u.thr e.pa e.thr).released = some e.fpc)))
  ∧ ∀ (h : GHdr) (k : Fin 16) (x : Session) (s : State) (c : BitVec 8) (e : Export), hosted s h (.decline c) k x = true →
      findExport s c = some e → e.bound = none ∨ e.bound = some k.val →
      ∃ u, exec (.decline h c) s = .next u ∧ answered u h k .ok 0 [] ∧ findExport u c = none
        ∧ dPoisoned ((u.thr e.pa e.thr).rc e.cd.val) = true
        ∧ ((s.thr e.pa e.thr).wait = .exporting c →
            (u.thr e.pa e.thr).wait = .none ∧ (u.thr e.pa e.thr).released = some (s.thr e.pa e.thr).pc)
        ∧ ((s.thr e.pa e.thr).wait ≠ .exporting c → (u.thr e.pa e.thr).released = some e.fpc)

/-! ## Bridge links, enumeration and windows (R336 to R350) -/

/-- O53. Bridge links (R339 to R342): a live port that is Down trains on signal; training ends in Ident at its width, or in
Down; IDENT takes the port Up, with the peer's identity and the wiring check; a flit whose CRC fails or that leaves a gap is
refused with a nak, one that came before is ignored, and the next in order is acknowledged; the codewords that the FEC corrected are counted; an acknowledgement frees what it
covers and lets waiting flits leave, and a nak sends the rest again; a lost lane, and the sixteenth replay in a row, start a retrain, which ends in Ident
or in Down. -/
def Obligations.BridgeLinks : Prop :=
  (∀ (n : BPort) (s : State),
      (brgAlive s n = true → (s.brg.ports[n.val]).st = .down →
        ∃ u, exec (.brgSignalDetect n) s = .next u ∧ u.brg.ports[n.val] = { s.brg.ports[n.val] with st := .training })
      ∧ (brgAlive s n = false ∨ (s.brg.ports[n.val]).st ≠ .down → exec (.brgSignalDetect n) s = .next s))
  ∧ (∀ (n : BPort) (r : TrainResult) (s : State),
      ((s.brg.ports[n.val]).st ≠ .training → exec (.brgTrainingEnd n r) s = .next s)
      ∧ ((s.brg.ports[n.val]).st = .training → ∃ u, exec (.brgTrainingEnd n r) s = .next u
        ∧ (let ident := ∃ f, u.outbox = s.outbox ++ [.flit n f] ∧ f.ftype = 5 ∧ f.side = Config.serial ∧ f.crcOk = true
          (r = .x8 → (u.brg.ports[n.val]).st = .ident ∧ (u.brg.ports[n.val]).width = 2 ∧ ident)
          ∧ (r = .x4 → bit (s.rwp (.brg n .cfg)) 1 = true →
              (u.brg.ports[n.val]).st = .ident ∧ (u.brg.ports[n.val]).width = 1 ∧ ident))
        ∧ (r = .failed ∨ (r = .x4 ∧ bit (s.rwp (.brg n .cfg)) 1 = false) → (u.brg.ports[n.val]).st = .down)))
  ∧ (∀ (n : BPort) (serial : Word) (pp : BitVec 3) (a : BitVec 8) (valid : Bool) (s : State),
      let x := s.brg.ports[n.val]
      (x.st = .ident ∨ x.st = .up → ∃ u, exec (.bridgeIdent n serial pp a valid) s = .next u
        ∧ u.brg.ports[n.val] = { x with st := .up, peerSerial := serial, peerPort := pp, peerAddr := a, peerValid := valid,
                                        miswired := !wiringOk u n u.brg.ports[n.val] }
        ∧ (wiringOk u n u.brg.ports[n.val] = false → u.regBit (.brg n .evt) 3 = true)
        ∧ (x.st = .ident → x.width = 1 → u.regBit (.brg n .evt) 2 = true))
      ∧ (x.st ≠ .ident → x.st ≠ .up → exec (.bridgeIdent n serial pp a valid) s = .next s))
  ∧ (∀ (n : BPort) (f : Flit) (fec : BitVec 16) (s : State),
      let x := s.brg.ports[n.val]
      let c := s.countSat (.brg n .linkCnt) 0 32 fec.toNat
      let acked := fun (y : Bridge) => if f.ackV then fillReplay 512 (redWeight s n) (ackFlits f.ack y) else y
      let told := fun (y : Bridge) =>
        if f.nak then (if 16 ≤ (acked y).fails + 1 then { acked y with st := .retrain, fails := 0 }
          else { acked y with fails := (acked y).fails + 1 })
        else acked y
      let again := fun (y : Bridge) => if f.nak then (replayed (acked y)).map (OutMsg.flit n) else []
      let idle := f.ftype = 0 ∨ f.ftype = 5
      (x.st ≠ .up → exec (.bridgeFlitReceive n f fec) s = .next s)
      ∧ (x.st = .up →
        (f.crcOk = false ∨ (¬ idle ∧ f.seq ≠ x.rxSeq ∧ seqGap x.rxSeq f.seq < 2048) →
          exec (.bridgeFlitReceive n f fec) s = .next (c.emit (.flit n (idleFlit x true))))
        ∧ (f.crcOk = true → ¬ idle → 2048 ≤ seqGap x.rxSeq f.seq → exec (.bridgeFlitReceive n f fec) s = .next c)
        ∧ (f.crcOk = true → ¬ idle → f.seq = x.rxSeq →
          ∃ u, exec (.bridgeFlitReceive n f fec) s = .next u
            ∧ u.brg.ports[n.val] = told { x with rxSeq := x.rxSeq + 1 }
            ∧ u.outbox = s.outbox ++ again { x with rxSeq := x.rxSeq + 1 } ++ [.flit n (idleFlit u.brg.ports[n.val] false)])
        ∧ (f.crcOk = true → idle →
          ∃ u, exec (.bridgeFlitReceive n f fec) s = .next u ∧ u.brg.ports[n.val] = told x ∧ u.outbox = s.outbox ++ again x)))
  ∧ (∀ (n : BPort) (s : State), ((s.brg.ports[n.val]).st ≠ .up → exec (.brgLaneLoss n) s = .next s)
      ∧ ((s.brg.ports[n.val]).st = .up → ∃ u, exec (.brgLaneLoss n) s = .next u
        ∧ u.brg.ports[n.val] = { s.brg.ports[n.val] with st := .retrain, fails := 0 }
        ∧ u.regBit (.brg n .evt) 1 = true
        ∧ u.regField (.brg n .linkCnt) 48 16 = min (s.regField (.brg n .linkCnt) 48 16 + 1) (2 ^ 16 - 1)))
  ∧ ∀ (n : BPort) (ok : Bool) (s : State),
      ((s.brg.ports[n.val]).st ≠ .retrain → exec (.brgRetrainEnd n ok) s = .next s)
      ∧ ((s.brg.ports[n.val]).st = .retrain → ∃ u, exec (.brgRetrainEnd n ok) s = .next u
        ∧ (ok = true → u.brg.ports[n.val] = { s.brg.ports[n.val] with st := .ident })
        ∧ (ok = false → u.brg.ports[n.val] = {} ∧ u.regBit (.brg n .evt) 0 = true))

/-- O54. Enumeration (R344 to R346, R461): its start at a master, the tokens at each device, the commit with the status that
the error bits give, and the timeout; the device's own tokens are known by its serial number (the contents of COMMIT's arg
and END's arg are the model's: log entry 41). -/
def Obligations.Enumeration : Prop :=
  let free := fun (s : State) (n : BPort) => (s.brg.ports[n.val]).st = .up ∧ asleep s = false
  let sent := fun (s u : State) (n : BPort) (k : PktKind) (t : Packet) =>
    portUsable s n = true → u.outbox = s.outbox ++ [.packet n k.code t]
  (∀ s : State, isMaster s = true → s.brg.enumPhase = .none →
      (programHere s = true → ∃ u, exec .enumerationStart s = .next u ∧ u.brg.enumStatus = 1 ∧ u.brg.enumPhase = .none
        ∧ u.regBit (.sys .evt) 1 = true)
      ∧ (programHere s = false → (s.brg.ports[1]).st ≠ .up →
        ∃ u, exec .enumerationStart s = .next u ∧ u.brg.enumStatus = 5 ∧ u.regBit (.sys .evt) 1 = true)
      ∧ (programHere s = false → (s.brg.ports[1]).st = .up →
        (∃ u, exec .enumerationStart s = .next u ∧ u.brg.enumPhase = .assigning ∧ u.brg.enumAddr = some 0
          ∧ sent s u 1 .assign (token 1 0 Config.serial))
        ∧ (bit (s.rwp (.sys .cfg)) 1 = true → s.brg.autoEnumDone = false →
          ∃ u, exec .autoEnumStart s = .next u ∧ u.brg.enumPhase = .assigning ∧ u.brg.autoEnumDone = true
            ∧ sent s u 1 .assign (token 1 0 Config.serial))))
  ∧ (∀ s : State, isMaster s = false ∨ s.brg.enumPhase ≠ .none → exec .enumerationStart s = .next s)
  ∧ (∀ s : State, bit (s.rwp (.sys .cfg)) 1 = false ∨ s.brg.autoEnumDone = true → exec .autoEnumStart s = .next s)
  ∧ (∀ (t : Packet) (s : State), free s 0 → t.arg ≠ Config.serial →
      let v := t.addr.toNat
      let bits := (if 256 ≤ v then 2 else 0) ||| (if programHere s then 1 else 0) ||| (if isMaster s then 4 else 0)
      let r := token (v + 1) (t.status.toNat ||| bits) t.arg
      ∃ u, exec (.assign 0 t) s = .next u ∧ u.brg.enumAddr = (if v < 256 then some v else none)
        ∧ u.brg.devaddr = s.brg.devaddr ∧ ((s.brg.ports[1]).st = .up → sent s u 1 .assign r)
        ∧ ((s.brg.ports[1]).st ≠ .up → sent s u 0 .endTok r)
        ∧ (isMaster s = true → u.regBit (.sys .evt) 2 = true))
  ∧ (∀ e ∈ ([(Instr.assign, 0, true), (Instr.endTok, 1, false)] : List ((BPort → Packet → Instr) × BPort × Bool)),
      ∀ (t : Packet) (s : State), free s e.2.1 → t.arg = Config.serial → s.brg.enumPhase = .assigning →
        let n := t.addr.toNat
        let st := enumResult s t.status.toNat
        ∃ u, exec (e.1 e.2.1 t) s = .next u ∧ u.brg.enumPhase = .committing ∧ u.brg.enumStatus = BitVec.ofNat 4 st
          ∧ sent s u 1 .commit (token n st (if e.2.2 then 1 else 0))
          ∧ (st = 0 → u.brg.sysCount = n ∧ u.brg.ringClosed = e.2.2 ∧ u.regBit (.sys .evt) 0 = true
            ∧ ∀ a, s.brg.enumAddr = some a → u.brg.devaddr = BitVec.ofNat 9 (a % 256 + 256))
          ∧ (st ≠ 0 → u.brg.devaddr = s.brg.devaddr ∧ u.brg.sysCount = s.brg.sysCount ∧ u.regBit (.sys .evt) 1 = true))
  ∧ (∀ (t : Packet) (s : State), free s 1 → t.arg ≠ Config.serial →
      ∃ u, exec (.endTok 1 t) s = .next u ∧ sent s u 0 .endTok t ∧ u.brg.enumPhase = s.brg.enumPhase)
  ∧ (∀ (t : Packet) (s : State), free s 0 → s.brg.enumPhase ≠ .committing →
      ∃ u, exec (.commit 0 t) s = .next u ∧ ((s.brg.ports[1]).st = .up → sent s u 1 .commit t)
        ∧ ((s.brg.ports[1]).st ≠ .up → sent s u 0 .cend t)
        ∧ (t.status = 0 → u.brg.sysCount = t.addr.toNat ∧ u.brg.ringClosed = bit t.arg 0 ∧ u.brg.peers = []
          ∧ (∀ i : Fin 16, u.regBit (.sys (.winCtl i)) 0 = false) ∧ (∀ j : Fin 4, (u.red j).round = 0)
          ∧ ∀ a, s.brg.enumAddr = some a → u.brg.devaddr = BitVec.ofNat 9 (a % 256 + 256))
        ∧ (t.status ≠ 0 → u.brg.enumStatus = BitVec.ofNat 4 t.status.toNat ∧ u.brg.devaddr = s.brg.devaddr
          ∧ u.regBit (.sys .evt) 1 = true))
  ∧ (∀ (t : Packet) (s : State), free s 0 → s.brg.enumPhase = .committing →
      ∃ u, exec (.commit 0 t) s = .next u ∧ u.brg.enumPhase = .none ∧ u.brg.devaddr = s.brg.devaddr)
  ∧ (∀ (t : Packet) (s : State), free s 1 →
      (s.brg.enumPhase = .committing → ∃ u, exec (.cend 1 t) s = .next u ∧ u.brg.enumPhase = .none)
      ∧ (s.brg.enumPhase ≠ .committing → ∃ u, exec (.cend 1 t) s = .next u ∧ sent s u 0 .cend t))
  ∧ (∀ s : State, (s.brg.enumPhase = .none → exec .enumerationTimeout s = .next s)
      ∧ (s.brg.enumPhase ≠ .none → ∃ u, exec .enumerationTimeout s = .next u ∧ u.brg.enumPhase = .none
        ∧ u.brg.enumStatus = 4 ∧ u.regBit (.sys .evt) 1 = true
        ∧ sent s u 1 .commit (token s.brg.sysCount 4 0)))
  ∧ ∀ (b : Bool) (s : State), ∃ u, exec (.mstrSelChange b) s = .next u ∧ u.brg = { s.brg with mstrPin := b } ∧ u.mem = s.mem

/-- O55. Remote windows (R343, R347 to R350): where RD, WR, RDR, WACK, WINDOW_RESPONSE_TIMEOUT, WINDOW_OPEN, WINDOW_CLOSE,
ANNOUNCE, WITHDRAW and WINACK complete, and the next state of each. A packet for another device goes on with one hop less, or
is lost; RD and WR that a window grants are performed and answered with status 0, or wait where their home does not take them
yet, and ones that none grants are answered with status 1 and no effect; RDR and WACK answer the instruction that waits for them, and one that does not come ends it with the exception of
R350; and a window opens, closes, is announced and withdrawn, with its acknowledgements. -/
def Obligations.RemoteWindows : Prop :=
  let free := fun (s : State) (n : BPort) => portUsable s n = true ∧ asleep s = false
  let here := fun (s : State) (n : BPort) (t : Packet) => free s n ∧ ownAddr s = some t.dst.toNat
  let back := fun (s : State) (t : Packet) => routeOut s t.dst.toNat t.src.toNat
  let owing := fun (s : State) (x : OwedWin) => { s with brg := { s.brg with owed := [x] } }
  let kinds : List ((BPort → Packet → Instr) × PktKind) := [(.rd, .rd), (.wr, .wr), (.rdr, .rdr), (.wack, .wack),
    (.announce, .announce), (.withdraw, .withdraw), (.winack, .winack)]
  (∀ e ∈ kinds, ∀ (n : BPort) (t : Packet) (s : State) (a : Nat), free s n → ownAddr s = some a → t.dst.toNat ≠ a →
      (t.ttl.toNat ≤ 1 → ∃ u, exec (e.1 n t) s = .next u ∧ u.outbox = s.outbox ∧ u.mem = s.mem)
      ∧ (1 < t.ttl.toNat → portUsable s (routeOn a t.dst.toNat n) = true →
        ∃ u, exec (e.1 n t) s = .next u ∧ u.mem = s.mem
          ∧ u.outbox = s.outbox ++ [.packet (routeOn a t.dst.toNat n) e.2.code { t with ttl := t.ttl - 1 }]))
  ∧ (∀ (n : BPort) (t : Packet) (s : State), here s n t → portUsable s (back s t) = true →
      let z := rdSize t
      let v := s.portBytes (Fin.ofNat 76 (2 + n.val)) false t.data.length
      (winGrant s t.src.toNat t.addr.toNat z false = none →
        ∃ u r, exec (.rd n t) s = .next u ∧ u.mem = s.mem ∧ u.outbox = s.outbox ++ [.packet (back s t) 0x03 r]
          ∧ r.dst = t.src ∧ r.tag = t.tag ∧ r.status = 1 ∧ r.data = [])
      ∧ ∀ a, winGrant s t.src.toNat t.addr.toNat z false = some a → 0 < z → z ≤ 4096 → populated s a z false = true →
        s.brg.owed = [] →
        (homeTakes v (.bridge n) .scratch a (.read z) = true →
        (badAt s a z = none → ∃ u r, exec (.rd n t) s = .next u ∧ u.mem = s.mem
          ∧ u.outbox = s.outbox ++ [.packet (back s t) 0x03 r] ∧ r.dst = t.src ∧ r.tag = t.tag ∧ r.status = 0
          ∧ r.data = s.bytes a z)
        ∧ (∀ b, badAt s a z = some b → ∃ u r, exec (.rd n t) s = .next u
          ∧ u.outbox = s.outbox ++ [.packet (back s t) 0x03 r] ∧ r.tag = t.tag ∧ r.status = 2 ∧ r.data = []))
        ∧ ∀ w, serveNow 64 (.bridge n) .scratch (owing v ⟨n, false, t, a⟩) a (.read z) = .held w →
          exec (.rd n t) s = .next (owing w ⟨n, false, t, a⟩))
  ∧ (∀ (n : BPort) (t : Packet) (s : State), here s n t → portUsable s (back s t) = true →
      let v := s.portBytes (Fin.ofNat 76 (2 + n.val)) false t.data.length
      (winGrant s t.src.toNat t.addr.toNat t.data.length true = none →
        ∃ u r, exec (.wr n t) s = .next u ∧ u.mem = s.mem ∧ u.outbox = s.outbox ++ [.packet (back s t) 0x04 r]
          ∧ r.dst = t.src ∧ r.tag = t.tag ∧ r.status = 1)
      ∧ ∀ a, winGrant s t.src.toNat t.addr.toNat t.data.length true = some a → 0 < t.data.length → t.data.length ≤ 4096 →
        populated s a t.data.length true = true → s.brg.owed = [] →
        (homeTakes v (.bridge n) .scratch a (.write t.data) = true →
        ∃ u r, exec (.wr n t) s = .next u ∧ u.bytes a t.data.length = t.data ∧ bytesKept s u a t.data.length
          ∧ u.outbox = s.outbox ++ [.packet (back s t) 0x04 r] ∧ r.dst = t.src ∧ r.tag = t.tag ∧ r.status = 0)
        ∧ ∀ w, serveNow 64 (.bridge n) .scratch (owing v ⟨n, true, t, a⟩) a (.write t.data) = .held w →
          exec (.wr n t) s = .next (owing w ⟨n, true, t, a⟩))
  ∧ (∀ e ∈ ([(Instr.rdr, true), (Instr.wack, false)] : List ((BPort → Packet → Instr) × Bool)),
      ∀ (n : BPort) (t : Packet) (s : State) (r : WinReq) (o : Op) (m : MemAcc), here s n t → s.brg.withdrawing = [] →
        s.brg.winReqs.find? (·.tag = t.tag) = some r → r.piece = none →
        (s.pa r.pa).ops.find? (·.id = r.op) = some o → o.acc = some m → t.status = 0 →
        ∃ u, exec (e.1 n t) s = .next u ∧ u.brg.winReqs = s.brg.winReqs.filter (·.tag ≠ t.tag)
          ∧ (u.pa r.pa).ops.find? (·.id = r.op) = some (Op.answered m t.data o) ∧ u.mem = s.mem)
  ∧ (∀ (p : Pa) (n : Nat) (s : State) (r : WinReq) (o : Op) (m : MemAcc),
      (s.brg.winReqs.find? fun r => r.pa = p && r.op = n) = some r → r.piece = none →
      (s.pa p).ops.find? (·.id = n) = some o → o.acc = some m →
      exec (.windowResponseTimeout p n) s =
        .next (settleWithdraw (abortWith (dropWinReq s r.tag) p o .ecc m.addr false)))
  ∧ (∀ (i : Fin 16) (s : State), winOn s i = false → (s.brg.windows[i.val]).closing = false →
      (winOk s i = true → ∃ u, exec (.windowOpen i) s = .next u ∧ winOn u i = true
        ∧ u.brg.windows[i.val] = { isOpen := (winPeers s i).isEmpty, waiting := winPeers s i }
        ∧ ∀ a ∈ winPeers s i, ∀ d, ownAddr s = some d → portUsable s (routeOut s d a) = true → a < 256 →
          ∃ t, .packet (routeOut s d a) 0x20 t ∈ u.outbox ∧ t.dst.toNat = a ∧ t.addr = BitVec.ofNat 64 i.val)
      ∧ (winOk s i = false → ∃ u, exec (.windowOpen i) s = .next u ∧ winOn u i = false
        ∧ (u.brg.windows[i.val]).err = true ∧ u.regBit (.sys .evt) 3 = true))
  ∧ (∀ (i : Fin 16) (s : State), (winOn s i = false → exec (.windowClose i) s = .next s)
      ∧ (winOn s i = true → ∃ u, exec (.windowClose i) s = .next u ∧ winOn u i = false
        ∧ u.brg.windows[i.val] = { closing := !(winPeers s i).isEmpty, waiting := winPeers s i }))
  ∧ (∀ (n : BPort) (t : Packet) (s : State), here s n t → portUsable s (back s t) = true →
      ∃ u e r, exec (.announce n t) s = .next u ∧ e ∈ u.brg.peers ∧ e.owner = t.src ∧ e.index = t.addr.toNat
        ∧ e.off = numAt t.data 0 8 ∧ e.size = numAt t.data 8 8
        ∧ (∀ w ∈ u.brg.peers, w.owner = t.src → w.index = t.addr.toNat → w = e)
        ∧ u.outbox = s.outbox ++ [.packet (back s t) 0x22 r] ∧ r.dst = t.src ∧ r.tag = t.tag)
  ∧ (∀ (n : BPort) (t : Packet) (s : State) (w : PeerWindow), here s n t → portUsable s (back s t) = true →
      s.brg.withdrawing = [] → (s.brg.peers.find? fun w => w.owner = t.src && w.index = t.addr.toNat) = some w →
      underEntry s t.src.toNat (w.off % 2 ^ 64) (w.size % 2 ^ 64) = false →
      ∃ u r, exec (.withdraw n t) s = .next u ∧ u.brg.withdrawing = []
        ∧ u.brg.peers = s.brg.peers.filter (fun w => !(w.owner = t.src && w.index = t.addr.toNat))
        ∧ u.outbox = s.outbox ++ [.packet (back s t) 0x22 r] ∧ r.dst = t.src ∧ r.tag = t.tag)
  ∧ ∀ (n : BPort) (t : Packet) (s : State) (i : Fin 16) (w : OwnWindow), here s n t → Fin.ofNat 16 t.addr.toNat = i →
      s.brg.windows[i.val] = w → w.waiting ≠ [] →
      t.arg.toNat = (if w.closing then PktKind.withdraw else PktKind.announce).code.toNat →
      let left := w.waiting.filter (· ≠ t.src.toNat)
      (left = [] → ∃ u, exec (.winack n t) s = .next u
        ∧ u.brg.windows[i.val] = { w with isOpen := !w.closing, closing := false, waiting := [] })
      ∧ (left ≠ [] → ∃ u, exec (.winack n t) s = .next u ∧ u.brg.windows[i.val] = { w with waiting := left })

/-! ## Reduction (R352 to R358, R363) -/

/-- O56. Reduction rounds (R352 to R358): an arm starts the next round, which waits for its children's headers or fails with
the code of its check, is held behind a running round, or is ignored with BRG_SYS_EVT bit 6; headers gather until all the
children's have come; a block with a wrong checksum is recorded, as is a sum whose output compare fails; a good block joins the
sum, which goes up a tree, and a result is written and goes down; aborts, restarts, timeouts and a cleared enable end or restart the round, and its end writes the
done word. -/
def Obligations.ReductionRounds : Prop :=
  let armed := fun (s : State) (j : Fin 4) => rcEnabled s j = true ∧ s.rp.prog.isSome = true
  (∀ (j : Fin 4) (v : Word) (up : Option (BitVec 32)) (s : State),
      (field v 32 32 ≠ 0 ∨ rcEnabled s j = false ∨ s.rp.prog = none →
        ∃ u, exec (.roundArm j v up) s = .next u ∧ u.regBit (.sys .evt) 6 = true ∧ u.brg = s.brg ∧ u.mem = s.mem)
      ∧ (armed s j → field v 32 32 = 0 → (s.red j).running = false → BitVec.ofNat 32 v.toNat = (s.red j).round + 1 →
        (localCheck s j ≠ 0 → ∃ u, exec (.roundArm j v up) s = .next u ∧ (u.red j).phase = .failing
          ∧ (u.red j).fail = BitVec.ofNat 8 (localCheck s j) ∧ u.mem = s.mem)
        ∧ (localCheck s j = 0 → redChildren s j ≠ [] → (s.red j).hdrs = [] →
          ∃ u, exec (.roundArm j v up) s = .next u ∧ (u.red j).phase = .headers ∧ (u.red j).attempts = 0
            ∧ u.mem = s.mem ∧ u.outbox = s.outbox))
      ∧ (armed s j → field v 32 32 = 0 → (s.red j).running = true → (s.red j).held = none →
        BitVec.ofNat 32 v.toNat = (s.red j).round + 2 →
        ∃ u, exec (.roundArm j v up) s = .next u ∧ u.red j = { s.red j with held := some (BitVec.ofNat 32 v.toNat) }))
  ∧ (∀ (n : BPort) (h : RoundHeader) (up : Option (BitVec 32)) (s : State) (place : Nat), portUsable s n = true → asleep s = false →
      treePlace n = some (h.treeB, place) →
      (place ≠ 0 → (s.red h.ctx).phase ≠ .headers →
        ∃ u, exec (.rhdr n h up) s = .next u ∧ (u.red h.ctx).hdrs = ((s.red h.ctx).hdrs.filter fun e => e.1 ≠ n) ++ [(n, h)]
          ∧ (u.red h.ctx).phase = (s.red h.ctx).phase ∧ u.mem = s.mem)
      ∧ (place ≠ 0 → (s.red h.ctx).phase = .headers → redChildren s h.ctx = [n] → h.round = rcRound s h.ctx →
        h.fingerprint ≠ fingerprint s →
        ∃ u, exec (.rhdr n h up) s = .next u ∧ (u.red h.ctx).phase = .failing ∧ (u.red h.ctx).fail = 6)
      ∧ (∀ l, place ≠ 0 → (s.red h.ctx).phase = .headers → redChildren s h.ctx = [n] → h.round = rcRound s h.ctx →
        h.fingerprint = fingerprint s → isRoot s = false → usedTrees s h.ctx = [h.treeB] →
        mergeEntries ((rcDescs s h.ctx).map entryOfDesc) h.entries = some l →
        portUsable s (treePort h.treeB 0) = true →
        ∃ u g, exec (.rhdr n h up) s = .next u ∧ .header (treePort h.treeB 0) g ∈ u.outbox ∧ g.entries = l
          ∧ g.ctx = h.ctx ∧ g.round = h.round ∧ g.fingerprint = fingerprint s)
      ∧ (place = 0 → (s.red h.ctx).phase = .blocks → h.round = rcRound s h.ctx → h.treeB ∉ (s.red h.ctx).finals →
        ∃ u, exec (.rhdr n h up) s = .next u ∧ (u.red h.ctx).merged = h.entries
          ∧ (u.red h.ctx).finals = (s.red h.ctx).finals ++ [h.treeB]
          ∧ ∀ c ∈ blockChildren s h.treeB, portUsable s c = true → .header c h ∈ u.outbox))
  ∧ (∀ (n : BPort) (b : RoundBlock) (up : Bool) (s : State) (place : Nat) (k : BlockAt), portUsable s n = true → asleep s = false →
      treePlace n = some (b.treeB, place) → (s.red b.ctx).phase = .blocks → b.words.length = 512 →
      b.attempt = (s.red b.ctx).attempts → blockTree s b.ctx b.index.toNat = b.treeB →
      redBlockAt s b.ctx b.index.toNat = some k →
      (place = 0 → checksumOk k.q b = true →
        ∃ u, exec (.reductionBlock n b up) s = .next u ∧ u.bytes k.dst 4096 = wordBytes b.words
          ∧ bytesKept s u k.dst 4096 ∧ nmem (u.red b.ctx).written b.index.toNat = true
          ∧ ∀ c ∈ blockChildren s b.treeB, portUsable s c = true → .block c b ∈ u.outbox)
      ∧ (place = 0 → checksumOk k.q b = false → s.regBit (.sys .rerr) 37 = false →
        ∃ u, exec (.reductionBlock n b up) s = .next u ∧ u.regBit (.sys .rerr) 37 = true ∧ u.regBit (.sys .evt) 5 = true
          ∧ u.regField (.sys .rerr) 0 2 = b.ctx.val ∧ u.regField (.sys .rerr) 3 2 = 3
          ∧ u.regField (.sys .rerr) 5 32 = b.index.toNat
          ∧ (mayRestart s b.ctx = false → (u.red b.ctx).phase = .failing ∧ (u.red b.ctx).fail = 5))
      ∧ (place ≠ 0 → checksumOk k.q b = true → blockChildren s b.treeB = [n] → (s.red b.ctx).parts = [] →
        b.index.toNat ∉ (s.red b.ctx).sent → b.index.toNat ∉ (s.red b.ctx).written →
        badAt s k.src 4096 = none → isRoot s = false → 0 < k.q → k.q < 2 ^ 64 → portUsable s (treePort b.treeB 0) = true →
        (up = true → s.regBit (.sys .rerr) 37 = false →
          ∃ u, exec (.reductionBlock n b up) s = .next u ∧ u.regBit (.sys .rerr) 37 = true ∧ u.regBit (.sys .evt) 5 = true
            ∧ u.regField (.sys .rerr) 0 2 = b.ctx.val ∧ u.regField (.sys .rerr) 3 2 = 2
            ∧ u.regField (.sys .rerr) 5 32 = b.index.toNat
            ∧ (mayRestart s b.ctx = false → (u.red b.ctx).phase = .failing ∧ (u.red b.ctx).fail = 5))
        ∧ (up = false → ∃ u out, exec (.reductionBlock n b up) s = .next u ∧ u.mem = s.mem
          ∧ .block (treePort b.treeB 0) out ∈ u.outbox ∧ out.index = b.index ∧ checksumOk k.q out = true
          ∧ out.words.map (·.toNat) = ((s.words k.src 512).zip b.words).map fun e =>
              (e.1.toNat % k.q + e.2.toNat % k.q) % k.q)))
  ∧ (∀ (n : BPort) (j : Fin 4) (s : State), portUsable s n = true → (s.red j).live = true →
      n ∈ redParents s j ++ redChildren s j →
      (∀ code : BitVec 8, code ≠ 0 → (code ≠ 5 ∨ mayRestart s j = false) →
        ∃ u, exec (.abortRound n j code) s = .next u ∧ (u.red j).phase = .failing ∧ (u.red j).fail = code
          ∧ ∀ c ∈ redParents s j ++ redChildren s j, c ≠ n → portUsable s c = true → .roundAbort c j code ∈ u.outbox)
      ∧ (mayRestart s j = true → (s.red j).phase ≠ .aborting → isRoot s = false → redChildren s j = [] →
        ∃ u, exec (.abortRound n j 5) s = .next u ∧ (u.red j).phase = .aborting
          ∧ ∀ c ∈ redParents s j, portUsable s c = true → .roundAbort c j 0 ∈ u.outbox)
      ∧ ∀ (a : BitVec 3) (tb : Bool), treePlace n = some (tb, 0) → n ∈ redParents s j → (s.red j).phase = .aborting →
        redChildren s j ≠ [] → (s.red j).hdrs = [] →
        ∃ u, exec (.restart n j a) s = .next u ∧ (u.red j).phase = .headers ∧ (u.red j).attempts = a
          ∧ ∀ c ∈ blockChildren s tb, portUsable s c = true → .roundRestart c j a ∈ u.outbox)
  ∧ (∀ (j : Fin 4) (s : State),
      ((s.red j).live = false → exec (.roundTimeout j) s = .next s)
      ∧ ((s.red j).live = true → ∃ u, exec (.roundTimeout j) s = .next u ∧ (u.red j).phase = .failing ∧ (u.red j).fail = 4)
      ∧ ∃ u, exec (.contextDisable j) s = .next u ∧ rcEnabled u j = false
        ∧ ((s.red j).live = true → (u.red j).phase = .failing ∧ (u.red j).fail = 7))
  ∧ ∀ (j : Fin 4) (up : Option (BitVec 32)) (s : State), (s.red j).held = none →
      ((s.red j).phase = .failing → ∃ u, exec (.roundDone j up) s = .next u ∧ (u.red j).phase = .idle
        ∧ (u.red j).round = (s.red j).round + 1 ∧ (u.red j).code = (s.red j).fail
        ∧ u.word (rcArm s j + 8) = doneWord ((s.red j).round + 1) (s.red j).fail.toNat
        ∧ u.regBit (.sys .evt) 4 = true ∧ bytesKept s u (rcArm s j + 8) 8)
      ∧ (roundWhole s j = true → ∃ u, exec (.roundDone j up) s = .next u ∧ (u.red j).phase = .idle
        ∧ (u.red j).round = (s.red j).round + 1 ∧ (u.red j).code = 0
        ∧ u.word (rcArm s j + 8) = doneWord ((s.red j).round + 1) 0)
      ∧ ((s.red j).phase ≠ .failing → roundWhole s j = false → exec (.roundDone j up) s = .next s)

/-! ## Soundpost and the Drone (R365 to R370, R382, R385 to R391, R401 to R408) -/

/-- O57. Soundpost (R365 to R370, R382, R401 to R408): the heartbeat, the takeover by the standby, sensors and the alert pin,
summary records and latched records, and the mailbox commands, each of which leaves its status and results for
MAILBOX_COMMAND_END to show. -/
def Obligations.SoundpostCommands : Prop :=
  let serves := fun (s : State) => soundpostUp s = true ∧ s.spt.restart = none
  let ended := fun (u : State) (p : EPort) (st : Nat) (res : List Nat) => ∃ m, u.box p = some m ∧
    m.result = some (BitVec.ofNat 8 st, res.map (BitVec.ofNat 64))
  (∀ s : State, serves s → ∃ u, exec .heartbeat s = .next u ∧ u = { s with spt := { s.spt with lastBeat := s.micros } })
  ∧ (∀ s : State, s.clk.powered = true → s.clk.inReset = false → s.spt.standbyOk = true → s.spt.hd2 = false →
      s.clk.live.getLsbD 25 = true → s.spt.restart = none →
      ∃ v, exec .standbyTakeover s = .next (settleSessions v) ∧ v.spt.hd2 = true ∧ v.spt.hd0Held = true
        ∧ v.spt.standbyOk = false ∧ v.host.handshakes = [] ∧ v.host.sessions = s.host.sessions
        ∧ v.regBit (.spt .evt) 0 = true ∧ (∀ p : EPort, v.box p = none)
        ∧ ∀ p m, s.box p = some m → v.regBit (.spt (.mbStat p)) 1 = true ∧ v.regField (.spt (.mbStat p)) 8 8 = 0x0B)
  ∧ (∀ (l : Vector (BitVec 8) 12) (s : State), serves s → s.spt.ready = true →
      ∃ u, exec (.sensorSample l) s = .next u ∧ ∀ i : Fin 12, u.spt.cur[i.val] = l[i.val]
        ∧ u.spt.max[i.val] = (if (s.spt.max[i.val]).toNat < (l[i.val]).toNat then l[i.val] else s.spt.max[i.val])
        ∧ u.spt.warn[i.val] = tempBit s.spt.warn[i.val] (warnAt s) (l[i.val]).toNat
        ∧ u.spt.trip[i.val] = tempBit s.spt.trip[i.val] (tripAt s) (l[i.val]).toNat
        ∧ (u.spt.warn[i.val] = true → s.spt.warn[i.val] = false → u.regBit (.spt .evt) 1 = true)
        ∧ (u.spt.trip[i.val] = true → s.spt.trip[i.val] = false →
          u.regBit (.spt .evt) 2 = true ∧ u.capo.tripHalt = true))
  ∧ (∀ (low : Bool) (s : State), ∃ u, exec (.thermAlert low) s = .next u ∧ u.spt.alertLow = low
      ∧ (low = true → s.spt.alertLow = false → soundpostUp s = true → u.regBit (.spt .evt) 3 = true))
  ∧ (∀ (i : Fin 12) (s : State), ∃ u, exec (.sensorMaxReset i) s = .next u ∧ u.spt.max = s.spt.max.set i.val s.spt.cur[i.val]
      ∧ u.mem = s.mem)
  ∧ (∀ (c : CounterSrc) (s : State),
      let was := match s.spt.summarised.find? (·.1 = c) with | some e => e.2.toNat | none => 0
      ((summaryOf s c).1 = was → exec (.logSummary c) s = .next s)
      ∧ (serves s → (summaryOf s c).1 ≠ was → ∃ u r l, exec (.logSummary c) s = .next u ∧ u.spt.log = r :: l
        ∧ r.seq = s.spt.logNext ∧ r.severity = 1 ∧ r.cls = BitVec.ofNat 8 (summaryOf s c).2.1
        ∧ r.code = BitVec.ofNat 16 (summaryOf s c).2.2.1 ∧ r.arg0 = BitVec.ofNat 64 (summaryOf s c).2.2.2
        ∧ r.arg1 = BitVec.ofNat 64 (if was ≤ (summaryOf s c).1 then (summaryOf s c).1 - was else (summaryOf s c).1)))
  ∧ (∀ (p : EPort) (n : BitVec 32) (s : State), serves s → ∃ u, exec (.logLatch p n) s = .next u
      ∧ u.spt.latched[p.val] = (match s.spt.log.find? (·.seq = n) with
        | some r => recordWords r
        | none => Vector.replicate 4 0))
  ∧ (∀ (p : EPort) (g : SigFacts) (s : State) (m : MailboxCmd), boxRuns s p 1 = some m → m.arg 0 % 4096 = 0 →
      region s (m.arg 0) = .hbm → populated s (m.arg 0) (max 4096 (m.arg 1)) false = true →
      ∃ u, exec (.verify p g) s = .next u ∧ u.mem = s.mem
        ∧ (verifyAt s (m.arg 0) (m.arg 1) none g = 0 → ended u p 0 [verifyResult (s.bytes (m.arg 0) 4096)])
        ∧ (verifyAt s (m.arg 0) (m.arg 1) none g ≠ 0 → ended u p (verifyAt s (m.arg 0) (m.arg 1) none g) [0]))
  ∧ (∀ (p : EPort) (s : State) (m : MailboxCmd) (st : BitVec 8) (res : List Word), s.box p = some m →
      s.spt.restart = none → m.result = some (st, res) →
      ∃ v, exec (.mailboxCommandEnd p) s = .next (settleSessions v) ∧ v.box p = none
        ∧ v.regBit (.spt (.mbStat p)) 1 = true ∧ v.regField (.spt (.mbStat p)) 8 8 = st.toNat
        ∧ (∀ (i : Fin 4) w, res[i.val]? = some w → v.reg (.spt (.mbRes p i)) = w)
        ∧ (m.started = true → pegOwner s.host.peg[63] = 3 → pegOwner v.host.peg[63] = 0))
  ∧ (∀ (p : EPort) (g : Vector SigFacts 4) (b : Bool) (s : State) (m : MailboxCmd), serviceRuns s p 0x10 = some m →
      (2 ≤ m.arg 1 ∨ m.arg 0 % 4096 ≠ 0 →
        ∃ u, exec (.slotWrite p g b) s = .next u ∧ ended u p 0x17 [0] ∧ u.spt.store = s.spt.store)
      ∧ (m.arg 0 % 4096 = 0 → m.arg 1 = (if s.spt.slot then 1 else 0) →
        ∃ u, exec (.slotWrite p g b) s = .next u ∧ ended u p 0x12 [0] ∧ u.spt.store = s.spt.store)
      ∧ (m.arg 0 % 4096 = 0 → m.arg 1 < 2 → m.arg 1 ≠ (if s.spt.slot then 1 else 0) →
        (∀ e, bundleImages s g (List.finRange 4) (m.arg 0) [] = .error e →
          ∃ u, exec (.slotWrite p g b) s = .next u ∧ ended u p e.1 [e.2] ∧ u.spt.store = s.spt.store)
        ∧ ∀ l, bundleImages s g (List.finRange 4) (m.arg 0) [] = .ok l →
          ∃ u, exec (.slotWrite p g b) s = .next u ∧ ended u p (if b then 0 else 0x16) [0] ∧ u.mem = s.mem
            ∧ (∀ o, o < m.arg 1 * 0x1000000 ∨ (m.arg 1 + 1) * 0x1000000 ≤ o →
              sget noByte u.spt.store o = sget noByte s.spt.store o)
            ∧ (b = true → ∀ a n, l[0]? = some (a, n) → n ≤ 0x41000 →
              ∀ i, i < n → sget noByte u.spt.store (m.arg 1 * 0x1000000 + i) = sget noByte s.mem.bytes (a + i))))
  ∧ (∀ (p : EPort) (b : BootFacts) (s : State) (m : MailboxCmd), serviceRuns s p 0x11 = some m →
      ∃ u, exec (.spRestart p b) s = .next u ∧ u.spt.restart = some b ∧ u.spt.ready = false ∧ u.box p = some m
        ∧ u.host.handshakes = [] ∧ u.host.sessions = s.host.sessions ∧ u.spt.store = s.spt.store)
  ∧ (∀ (p : EPort) (s : State) (m : MailboxCmd) (q : Pa) (fails : List (Fin 16 × BitVec 8)), cycleTarget s m = .ok q →
      let bad := testedFails ((takeOffline s q).pa q) fails
      (serviceRuns s p 0x13 = some m → ∃ u, exec (.paCycle p fails) s = .next u ∧ (u.pa q).online = decide (bad = [])
        ∧ (∀ t, (u.thr q t).st = .idle) ∧ ended u p (if bad = [] then 0 else 0x14) (failWords bad)
        ∧ ∀ r, r ≠ q → u.pa r = s.pa r)
      ∧ ∀ (g : Vector SigFacts 2) (v : Vector ImageFact 4), serviceRuns s p 0x12 = some m → s.spt.running = some v →
        recheck s 3 v[2] g[0] = 0 → recheck s 4 v[3] g[1] = 0 →
        ∃ u, exec (.mcApply p g fails) s = .next u ∧ (u.pa q).online = decide (bad = [])
          ∧ (u.pa q).mcPa = (v[2]).verMinor ∧ (u.pa q).mcBow = (v[3]).verMinor
          ∧ ended u p (if bad = [] then 0 else 0x14) [(v[2]).verMinor.toNat + (v[3]).verMinor.toNat * 256])
  ∧ (∀ (p : EPort) (s : State) (m : MailboxCmd) (e : Nat), cycleTarget s m = .error e →
      (∀ fails, serviceRuns s p 0x13 = some m → ∃ u, exec (.paCycle p fails) s = .next u ∧ ended u p e [] ∧ u.pas = s.pas)
      ∧ ∀ g fails, serviceRuns s p 0x12 = some m →
        ∃ u, exec (.mcApply p g fails) s = .next u ∧ ended u p e [] ∧ u.pas = s.pas)
  ∧ (∀ (p : EPort) (l : Vector Word 8) (s : State) (m : MailboxCmd), serviceRuns s p 0x14 = some m →
      let kept := (m.arg 0 = 10 ∨ m.arg 0 = 11) ∧ s.rp.prog.isSome = true ∧ (s.st.cxl[(Fin.ofNat 2 (m.arg 0)).val]).mapped = true
      (36 ≤ m.arg 0 → ∃ u, exec (.phyCal p l) s = .next u ∧ ended u p 0x17 [])
      ∧ (kept → ∃ u, exec (.phyCal p l) s = .next u ∧ ended u p 0x13 [])
      ∧ (m.arg 0 < 36 → ¬ kept → ∃ u, exec (.phyCal p l) s = .next u ∧ ended u p 0 []
        ∧ (∀ e : EPort, m.arg 0 = e.val → (u.host.eth[e.val]).linkUp = false)
        ∧ (∀ n : BPort, m.arg 0 = 2 + n.val → (s.brg.ports[n.val]).st = .up → (u.brg.ports[n.val]).st = .retrain)))
  ∧ (∀ (p : EPort) (s : State) (m : MailboxCmd) (r : Fin 128) (o : Fin 4), serviceRuns s p 0x15 = some m →
      m.arg 0 = r.val + 128 * (o.val + 1) → linkExists r.val (o.val + 1) = true →
      let e := (r.val, o.val + 1)
      let f : Fin 5 := Fin.ofNat 5 (o.val + 1)
      (bit (BitVec.ofNat 64 (m.arg 1)) 0 = true → findExcl s r f = none → s.net.excl.length < 8 →
        s.net.excl.any (linksMeet e) = false →
        (linkBusy s r f false = false →
          ∃ u, exec (.linkSet p) s = .next u ∧ u.net.excl = s.net.excl ++ [e] ∧ ended u p 0 [s.net.excl.length + 1])
        ∧ (linkBusy s r f false = true → exec (.linkSet p) s = .next s))
      ∧ (bit (BitVec.ofNat 64 (m.arg 1)) 0 = true → findExcl s r f = none →
        8 ≤ s.net.excl.length ∨ s.net.excl.any (linksMeet e) = true →
        ∃ u, exec (.linkSet p) s = .next u ∧ u.net = s.net ∧ ended u p 0x15 [s.net.excl.length])
      ∧ ∀ g, bit (BitVec.ofNat 64 (m.arg 1)) 0 = false → findExcl s r f = some g → linkBusy s r f true = false →
        ∃ u, exec (.linkSet p) s = .next u ∧ u.net.excl = s.net.excl.filter (· ≠ g)
          ∧ ended u p 0 [(s.net.excl.filter (· ≠ g)).length])
  ∧ ∀ (p : EPort) (s : State) (m : MailboxCmd), serviceRuns s p 0x18 = some m →
      ∃ u, exec (.deviceReset p) s = .next u ∧ u.clk.inReset = true ∧ u.clk.live = 0 ∧ u.rp = State.reset.rp
        ∧ u.pas = State.reset.pas ∧ u.host = State.reset.host ∧ u.mem = State.reset.mem ∧ u.tpc.active = []
        ∧ u.spt.store = s.spt.store ∧ u.sb = s.sb
        ∧ ∀ x ∈ s.tpc.active, ∀ r, Reg.at? x.off = some r → r.off = x.off →
          (∀ y ∈ s.tpc.active, y.off = x.off → y = x) → u.rwp r = x.value

/-- O58. The Drone (R385 to R391): a job that its slot takes is shown, and waits for its turn; with its first cycle its time and
its result are fixed, which it gives at its end; a length that does not fit ends it at once with status 8 and no output; a yield charges 4,096
cycles to the running job and lets the best job run; and the random generator's reseed and health test. -/
def Obligations.DroneJobs : Prop :=
  (∀ e ∈ ([(Instr.x25519Gen, 0x01), (Instr.x25519, 0x02), (Instr.edGen, 0x10), (Instr.edSign, 0x11), (Instr.edVerify, 0x12),
      (Instr.kemGen, 0x20), (Instr.kemEncaps, 0x21), (Instr.kemDecaps, 0x22), (Instr.dsaGen, 0x30), (Instr.dsaSign, 0x31),
      (Instr.dsaVerify, 0x32), (Instr.sha3384, 0x40), (Instr.shake256, 0x41), (Instr.rand, 0x50), (Instr.clear, 0x60)]
        : List ((Fin 4 → DroneJob → Instr) × Nat)),
      ∀ (k : Fin 4) (j : DroneJob) (s : State),
        (s.task k ≠ none → exec (e.1 k j) s = .next s)
        ∧ (s.task k = none → soundpostUp s = true →
          (lengthOk e.2 j = false → ∃ u, exec (e.1 k j) s = .next u ∧ u.task k = none ∧ u.drone = s.drone
            ∧ u.regField (.drn (.jobSt k)) 0 8 = 8 ∧ u.regBit (.drn (.jobSt k)) 8 = true)
          ∧ (lengthOk e.2 j = true → ∃ u t, exec (e.1 k j) s = .next u ∧ u.task k = some t ∧ t.op = BitVec.ofNat 8 e.2
            ∧ t.job = j ∧ t.ran = 0 ∧ t.order = s.drone.nextOrder
            ∧ u.drone.nextOrder = s.drone.nextOrder + 1 ∧ u.drone.keys = s.drone.keys ∧ u.drone.buffer = s.drone.buffer
            ∧ (s.drone.running ≠ none ∨ droneOk s = false → t.run = none ∧ u.drone.running = s.drone.running)
            ∧ (droneOk s = true → s.drone.running = none → u.drone.running = some k ∧ ∃ r, t.run = some r
              ∧ r.cycles = jobCycles e.2 j (signRounds s j)
              ∧ (jobBarred s e.2 j = false → jobBad s e.2 j = true →
                r.status = 9 ∧ r.output = zeroBytes (outputLen e.2 j) ∧ r.setKey = none)
              ∧ (jobBarred s e.2 j = false → jobBad s e.2 j = false → (randomUse e.2 j ≠ 0 → s.drone.rngOk = true) →
                r.status = BitVec.ofNat 8 (operate s e.2 j).status
                ∧ ((operate s e.2 j).status = 0 → r.output = fitBytes (outputLen e.2 j) (operate s e.2 j).out
                  ∧ r.setKey = (operate s e.2 j).key)
                ∧ ((operate s e.2 j).status ≠ 0 → r.output = zeroBytes (outputLen e.2 j) ∧ r.setKey = none))))))
  ∧ (∀ (k : Fin 4) (s : State) (t : DroneTask) (r : DroneRun), s.drone.running = some k → droneOk s = true →
      s.task k = some t → t.run = some r →
      (∃ u, exec (.droneJobEnd k) s = .next u ∧ u.task k = none
        ∧ u.drone.buffer = putBytes s.drone.buffer t.job.outOff.toNat r.output
        ∧ u.drone.keys = (match r.setKey with | some v => s.drone.keys.set t.job.slot.val v | none => s.drone.keys)
        ∧ u.regField (.drn (.jobSt k)) 0 8 = r.status.toNat ∧ u.regBit (.drn (.jobSt k)) 8 = true
        ∧ (r.status ≠ 9 → u.regField (.drn (.jobSt k)) 32 32 = r.cycles % 2 ^ 32)
        ∧ ∀ i, u.drone.running = some i → i ≠ k ∧ (s.task i).isSome = true ∧ (∀ h, h ≠ k → betterTask s h i = false)
          ∧ ∃ v, u.task i = some v ∧ v.run ≠ none)
      ∧ (t.ran + 4096 < t.cycles → ∃ u, exec .droneYield s = .next u
        ∧ u.task k = some { t with ran := t.ran + 4096 }
        ∧ (∀ i, i ≠ k → u.drone.running ≠ some i → u.task i = s.task i)
        ∧ ∃ i v, u.drone.running = some i ∧ (∀ h, betterTask s h i = false) ∧ u.task i = some v ∧ v.run ≠ none)
      ∧ (t.cycles ≤ t.ran + 4096 → exec .droneYield s = .next s))
  ∧ (∀ s : State, (2 ^ 20 ≤ s.drone.rngOut → ∃ u, exec .rngReseed s = .next u ∧ u = { s with drone := { s.drone with rngOut := 0 } })
      ∧ (s.drone.rngOut < 2 ^ 20 → exec .rngReseed s = .next s))
  ∧ ∀ s : State, (∃ u, exec .rngHealthFail s = .next u ∧ u.drone = { s.drone with rngOk := false }
        ∧ (s.drone.rngOk = true → ∃ r l, u.spt.log = r :: l ∧ r.cls = 10 ∧ r.severity = 2 ∧ r.code = 5))
      ∧ ∃ v, exec .rngHealthPass s = .next (settleSessions v) ∧ v.drone = { s.drone with rngOk := true }

/-! ## Power, reset, semaphores, counters and the sideband (R327 to R331, R397, R418 to R433, R443 to R463) -/

/-- O59. Capo, power and reset (R418 to R433, R453 to R456): the steps into a deeper state and what each stops, the wakes and
their end, the power limit, the halts and the shutdown, and the reset of the device and its release. -/
def Obligations.PowerAndReset : Prop :=
  (∀ s : State, (mayDeepen s = false → exec .capoStepDeeper s = .next s)
      ∧ (mayDeepen s = true → ∃ u, exec .capoStepDeeper s = .next u ∧ u.capo = { s.capo with entering := true }
        ∧ u.mem.bytes = s.mem.bytes
        ∧ (s.capo.state = 1 → ∀ (h : Hub) (b : Fin 16), (s.slice h).banks[b.val] = .on → (u.slice h).banks[b.val] = .draining)))
  ∧ (∀ s : State, (s.capo.entering = false → exec .capoEntryStepDone s = .next s)
      ∧ (s.capo.entering = true →
        (s.capo.state = 0 → ∃ u, exec .capoEntryStepDone s = .next u ∧ u = { s with capo := { s.capo with state := 1, entering := false } })
        ∧ (s.capo.state = 1 → banksOff s = false → exec .capoEntryStepDone s = .next s)
        ∧ (s.capo.state = 1 → banksOff s = true → ∃ u, exec .capoEntryStepDone s = .next u ∧ u.capo.state = 2
          ∧ u.capo.entering = false ∧ u.clk.live = s.clk.live &&& ~~~ 0xFF
          ∧ u.clk.stopped = s.clk.stopped ||| (s.clk.live &&& 0xFF) ∧ u.pas = s.pas ∧ u.mem = s.mem)
        ∧ (s.capo.state = 2 → ∃ u, exec .capoEntryStepDone s = .next u ∧ u.capo.state = 3 ∧ u.capo.entering = false
          ∧ u.capo.rails[0] = false ∧ (∀ p, u.pa p = freshPa (s.pa p))
          ∧ (∀ p o, o < spmSize → sget noByte u.mem.bytes (spmAddr p o) = noByte (spmAddr p o))
          ∧ (∀ a, a < hbmEnd → sget noByte u.mem.bytes a = sget noByte s.mem.bytes a)
          ∧ u.regField (.capo .cnt) 32 16 = min (s.regField (.capo .cnt) 32 16 + 1) (2 ^ 16 - 1))))
  ∧ (∀ s : State,
      let woken := { s with capo := { s.capo with waking := true, wakeStart := s.micros } }
      (∀ why, why ≠ .tolerance → (asleep s = true → s.capo.waking = false → exec (.capoWakeEvent why) s = .next woken)
        ∧ (asleep s = false ∨ s.capo.waking = true → exec (.capoWakeEvent why) s = .next s))
      ∧ (tolerance s < wakeMax s.capo.state.val → asleep s = true → s.capo.waking = false →
        exec (.capoWakeEvent .tolerance) s = .next woken)
      ∧ (wakeMax s.capo.state.val ≤ tolerance s → exec (.capoWakeEvent .tolerance) s = .next s)
      ∧ ∀ tie, (asleep s = true → ∃ u, exec (.capoWakeWrite tie) s = .next u ∧ u.capo.wakeReq = true ∧ u.capo.waking = true)
        ∧ (asleep s = false → exec (.capoWakeWrite tie) s = .next
            { s with capo := { s.capo with wakeReq := s.capo.wakeReq || tie } }))
  ∧ (∀ (l : List Pa) (s : State), s.capo.waking = true → s.capo.entering = false →
      ∃ v, exec (.wakeComplete l) s = .next (settleSessions (servePackets v)) ∧ v.capo.state = 0 ∧ v.capo.waking = false
        ∧ v.capo.wakeReq = false ∧ v.capo.rails[0] = true ∧ v.clk.live = s.clk.live ||| s.clk.stopped ∧ v.clk.stopped = 0
        ∧ v.mem = s.mem ∧ ∀ p, (v.pa p).online = ((s.pa p).online && !(s.capo.state = 3 && l.contains p)))
  ∧ (∀ (k : Fin 27) (s : State),
      (s.capo.waking = true → s.clk.stopped.getLsbD k.val = true → ∃ u, exec (.wakeLockTimeout k) s = .next u
        ∧ u.clk.live.getLsbD k.val = false ∧ u.clk.sticky.getLsbD k.val = true ∧ u.clk.stopped.getLsbD k.val = false)
      ∧ (s.capo.waking = false ∨ s.clk.stopped.getLsbD k.val = false → exec (.wakeLockTimeout k) s = .next s))
  ∧ (∀ (k : Fin 16) (p : EPort) (us : BitVec 32) (s : State) (x : Session), s.sess k = some x →
      (x.control = true → slotPort k = p →
        ∃ u, exec (.capoTolWrite k p us) s = .next u ∧ u.reg (.capo (.tol p)) = us.setWidth 64 ∧ u.host = s.host)
      ∧ (x.control = false ∨ slotPort k ≠ p → exec (.capoTolWrite k p us) s = .next s))
  ∧ (∀ (w mv : BitVec 16) (s : State), s.clk.powered = true →
      ∃ u, exec (.powerSample w mv) s = .next u ∧ u.capo.samples = w :: s.capo.samples.take 99 ∧ u.capo.vin = mv
        ∧ u.capo.peak = (if (s.capo.peak).toNat < w.toNat then w else s.capo.peak)
        ∧ (powerLimit s * 110 < w.toNat * 100 → u.capo.plimF = 8 ∧ (s.capo.plimF = 16 → u.regBit (.capo .evt) 0 = true))
        ∧ (w.toNat * 100 ≤ powerLimit s * 110 → u.capo.plimF = s.capo.plimF))
  ∧ (∀ s : State,
      (avgPower s * 100 < powerLimit s * 97 →
        exec (.plimAdjust true) s = .next { s with capo := { s.capo with plimF := min 16 (s.capo.plimF + 1) } })
      ∧ (powerLimit s * 97 ≤ avgPower s * 100 → exec (.plimAdjust true) s = .next s)
      ∧ (powerLimit s < avgPower s → ∃ u, exec (.plimAdjust false) s = .next u ∧ u.capo.plimF = max 1 (s.capo.plimF - 1))
      ∧ (avgPower s ≤ powerLimit s → exec (.plimAdjust false) s = .next s)
      ∧ exec .capoPeakClear s = .next { s with capo := { s.capo with peak := BitVec.ofNat 16 (avgPower s) } })
  ∧ (∀ (n : Stack) (s : State), (s.st.hbms[n.val]).therm = 3 → s.capo.tripHalt = false →
      ∃ u, exec (.hbmCriticalTimeout n) s = .next u ∧ u.capo.tripHalt = true ∧ u.regBit (.capo .evt) 1 = true
        ∧ u.sb.evt.getLsbD 0 = true ∧ u.mem = s.mem)
  ∧ (∀ s : State, s.clk.powered = true → held s = false →
      (s.capo.tripHalt = true → ∃ u, exec .thermalShutdown s = .next u ∧ u.capo.shutdown = true ∧ u.capo.stageFault = false
        ∧ u.clk.inReset = true ∧ u.rp = State.reset.rp ∧ u.sb.evt.getLsbD 3 = true ∧ u.capo.rails[0] = false)
      ∧ (∀ d, s.clk.inReset = false → ∃ u, exec (.capoComparator d) s = .next u ∧ u.capo.shutdown = true
        ∧ u.clk.inReset = true ∧ u.sb.evt.getLsbD 3 = true ∧ (s.capo.tripHalt = false → u.sb.evt.getLsbD 0 = true))
      ∧ ∀ (r : Fin 4) (c : BitVec 8), ∃ u, exec (.powerStageFault r c) s = .next u ∧ u.capo.stageFault = true
        ∧ u.capo.stages[r.val] = true ∧ u.clk.inReset = true ∧ u.sb.evt.getLsbD 4 = true ∧ u.sb.evt.getLsbD 3 = true)
  ∧ (∀ s : State, s.capo.tripHalt = false → exec .thermalShutdown s = .next s)
  ∧ (∀ (mv : BitVec 16) (s : State), s.clk.powered = true → s.clk.inReset = false → s.capo.uv = false →
      (mv.toNat < 40000 → ∃ u, exec (.inputUndervoltage mv) s = .next u ∧ u.capo.uv = true ∧ u.capo.vin = mv
        ∧ u.regBit (.capo .evt) 2 = true ∧ u.sb.evt.getLsbD 1 = true
        ∧ ∀ (h : Hub) (b : Fin 16), (u.slice h).banks[b.val] = .off ∨ (u.slice h).banks[b.val] = .forced)
      ∧ (40000 ≤ mv.toNat → exec (.inputUndervoltage mv) s = .next s))
  ∧ (∀ (mv : BitVec 16) (s : State), s.clk.powered = true → s.clk.inReset = true → held s = false → mv.toNat < 40000 →
      exec (.inputUndervoltage mv) s =
        .next { s with capo := { s.capo with vin := mv, rails := #v[false, false, false, false] } })
  ∧ (∀ s : State, (s.capo.uv = false → exec .undervoltageRecovery s = .next s)
      ∧ (s.capo.uv = true → ∃ u, exec .undervoltageRecovery s = .next u ∧ u.capo = { s.capo with uv := false } ∧ u.mem = s.mem
        ∧ (s.capo.state.val < 2 → ∀ (h : Hub) (b : Fin 16), s.regBit (.slice h .bankPd) b.val = false →
          (u.slice h).banks[b.val] = .on)))
  ∧ (∀ (w : BitVec 2) (s : State), (railsDown s = false → exec (.inputPowerUp w) s = .next s)
      ∧ (railsDown s = true → ∃ u, exec (.inputPowerUp w) s = .next u ∧ u.clk.powered = true ∧ u.clk.inReset = true
        ∧ u.clk.live = 0 ∧ u.capo.rails = #v[true, true, true, true] ∧ u.tpc = s.tpc ∧ u.spt = s.spt
        ∧ u.sb.addr.toNat = 0x58 + w.toNat ∧ u.sb.evt = 0))
  ∧ (∀ s : State, s.clk.powered = false → exec .resetNAssert s = .next s ∧ exec .brownOut s = .next s)
  ∧ (∀ s : State, s.clk.powered = true → (∃ u, exec .resetNAssert s = .next u ∧ u.clk.powered = true ∧ u.clk.inReset = true
        ∧ u.clk.live = 0 ∧ u.pas = State.reset.pas ∧ u.rp = State.reset.rp ∧ u.host = State.reset.host
        ∧ u.tpc.active = [] ∧ u.spt.store = s.spt.store ∧ u.spt.ready = false ∧ u.capo.shutdown = false ∧ u.sb = s.sb
        ∧ (s.tpc.active = [] → u.tpc.stored = s.tpc.stored))
      ∧ ∃ u, exec .brownOut s = .next u ∧ u.clk = {} ∧ u.capo = {} ∧ u.pas = State.reset.pas ∧ u.rp = State.reset.rp
        ∧ u.mem = State.reset.mem ∧ u.spt.store = s.spt.store ∧ u.tpc.active = []
        ∧ (s.tpc.active = [] → u.tpc.stored = s.tpc.stored)
        ∧ ∀ x r, s.tpc.active = [x] → Reg.at? x.off = some r → u.rwp r = s.rwp r ∨ u.rwp r = x.value)
  ∧ ∀ (b : BootFacts) (s : State),
      (s.clk.inReset = true → powerGood s = true →
        (∃ u, exec (.resetRelease b) s = .next u ∧ u.clk.inReset = false ∧ u.clk.live = BitVec.allOnes 27 ∧ u.now = 0
          ∧ (securityLost b = true → u.spt.recovery = true ∧ u.spt.ready = s.spt.ready ∧ u.sb.evt.getLsbD 5 = true)
          ∧ (b.badWords = [] → (∀ k : Fin 4,
                (bootImage s b (bit (s.rwp (.spt .boot)) 0) k).status = 0) →
              u.spt.ready = true ∧ u.spt.slot = bit (s.rwp (.spt .boot)) 0 ∧ u.spt.recovery = s.spt.recovery
              ∧ ∀ p, b.paFails.contains p = false → paDisabled s p = false → (u.pa p).online = true)))
      ∧ (s.clk.inReset = false ∨ powerGood s = false → exec (.resetRelease b) s = .next s)

/-- O60. Semaphores, Overtone and the sideband (R327 to R331, R443 to R446, R460 to R463): a free Peg cell goes to who asks
with its gen one higher, an owned one stays, its owner frees it, and a port's control session may break the other's; an
access that ties with one of the other port waits until the port that tie_next names has been served;
snapshots copy the counters; a bandwidth window closes into its registers; and each sideband command answers, or acts, while
the input is powered. -/
def Obligations.SemaphoresCountersSideband : Prop :=
  let now := fun (s : State) (e : EPort) (tie : Bool) => tie = false ∨ (tieTurn s e = true ∧ s.host.tieHeld = none)
  (∀ (who : PegOwner) (i : Fin 64) (tie : Bool) (s : State), (∀ e, who = .port e → now s e tie) →
      let w := s.host.peg[i.val]
      (pegOwner w = 0 → ∃ u, exec (.pegAcquire who i tie) s = .next u ∧ pegOwner u.host.peg[i.val] = pegCode who
        ∧ bit u.host.peg[i.val] 2 = false ∧ pegGen u.host.peg[i.val] = (pegGen w + 1) % 2 ^ 32
        ∧ ∀ k : Fin 64, k ≠ i → u.host.peg[k.val] = s.host.peg[k.val])
      ∧ (pegOwner w ≠ 0 → ∃ u, exec (.pegAcquire who i tie) s = .next u ∧ u.host.peg = s.host.peg)
      ∧ (pegOwner w = pegCode who → ∃ u, exec (.pegRelease who i tie) s = .next u ∧ pegOwner u.host.peg[i.val] = 0
        ∧ bit u.host.peg[i.val] 2 = bit w 2 ∧ pegGen u.host.peg[i.val] = pegGen w
        ∧ ∀ k : Fin 64, k ≠ i → u.host.peg[k.val] = s.host.peg[k.val])
      ∧ (pegOwner w ≠ pegCode who → ∃ u, exec (.pegRelease who i tie) s = .next u ∧ u.host.peg = s.host.peg))
  ∧ (∀ (e : EPort) (i : Fin 64) (tie : Bool) (s : State), now s e tie →
      let o := pegOwner s.host.peg[i.val]
      (o = 0 ∨ o = 3 ∨ o = portOwner e →
        ∃ u, exec (.pegBreak e i tie) s = .next u ∧ u.host.peg = s.host.peg ∧ u.outbox = s.outbox)
      ∧ (o ≠ 0 → o ≠ 3 → o ≠ portOwner e → ∃ u, exec (.pegBreak e i tie) s = .next u ∧ pegOwner u.host.peg[i.val] = 0
        ∧ bit u.host.peg[i.val] 2 = true ∧ u.regBit (.peg .evt) i.val = true))
  ∧ (∀ (e : EPort) (a : PegAct) (s : State),
      let c : Instr := match a with
        | .acquire i => .pegAcquire (.port e) i true
        | .release i => .pegRelease (.port e) i true
        | .break_ i => .pegBreak e i true
      (tieTurn s e = false → exec c s = .next { s with host := { s.host with tieHeld := some (e, a) } })
      ∧ ∀ f b, s.host.tieHalf = false → tieFirst s = e → s.host.tieHeld = some (f, b) →
        ∃ u, exec c s = .next u ∧ u.host.tieNext = (!s.host.tieNext) ∧ u.host.tieHeld = none ∧ u.host.tieHalf = false
          ∧ u.host.peg = (pegAct (pegAct s e a) f b).host.peg)
  ∧ (∀ (p : Pa) (s : State),
      (∃ u, exec (.snapshotTake p false) s = .next u ∧ (∀ k, u.reg (.pa p (.ovtShadow k)) = s.reg (.pa p (shadowed k.val)))
        ∧ u.regField (.pa p .ovtSnap) 32 32 = (s.regField (.pa p .ovtSnap) 32 32 + 1) % 2 ^ 32 ∧ u = { s with ctl := u.ctl })
      ∧ exec (.snapshotTake p true) s = .next s
      ∧ (nmem s.ovt.snapOwed p.val = true → exec (.snapAllPaTake p true) s =
          .next { s with ovt := { s.ovt with snapOwed := ndel s.ovt.snapOwed p.val } })
      ∧ (nmem s.ovt.snapOwed p.val = true → ∃ u, exec (.snapAllPaTake p false) s = .next u
        ∧ u.ovt.snapOwed = ndel s.ovt.snapOwed p.val
        ∧ ∀ k, u.reg (.pa p (.ovtShadow k)) = s.reg (.pa p (shadowed k.val)))
      ∧ (nmem s.ovt.snapOwed p.val = false → ∀ tie, exec (.snapAllPaTake p tie) s = .next s))
  ∧ (∀ s : State, (∃ u, exec .snapAll s = .next u ∧ u.reg (.ovt .snapHubcyc) = regRead s (.ovt .hubcyc)
        ∧ (∀ k : Fin 76, u.reg (.ovt (.port k 6)) = s.reg (.ovt (.port k 0)) ∧ u.reg (.ovt (.port k 7)) = s.reg (.ovt (.port k 1)))
        ∧ ∀ p : Pa, (p.val ∈ u.ovt.snapOwed ↔ (s.pa p).online = true))
      ∧ (s.hubCycles < s.ovt.start → exec .bandwidthWindowEnd s = .next s)
      ∧ (s.ovt.start ≤ s.hubCycles → ∃ u, exec .bandwidthWindowEnd s = .next u ∧ u.ovt.window = [] ∧ u.ovt.start = s.hubCycles
        ∧ u.regField (.ovt .winSeq) 0 32 = (s.regField (.ovt .winSeq) 0 32 + 1) % 2 ^ 32
        ∧ ∀ k : Fin 76, u.reg (.ovt (.port k 2)) = BitVec.ofNat 64 (windowBytes s k 0)
          ∧ u.reg (.ovt (.port k 3)) = BitVec.ofNat 64 (windowBytes s k 1)
          ∧ u.regField (.ovt (.port k 4)) 0 40 = max (windowBytes s k 0) (s.regField (.ovt (.port k 4)) 0 40)
          ∧ u.regField (.ovt (.port k 5)) 0 40 = max (windowBytes s k 1) (s.regField (.ovt (.port k 5)) 0 40))
      ∧ (∀ v : BitVec 5, ∃ u, exec (.windowLengthWrite v) s = .next u ∧ u.regField (.ovt .winCfg) 0 5 = v.toNat
        ∧ u.ovt.window = [] ∧ s.hubCycles ≤ u.ovt.start ∧ u.ovt.start % windowLen v.toNat = 0
        ∧ u.ovt.start < s.hubCycles + windowLen v.toNat)
      ∧ ∃ u, exec .ovtPeakClear s = .next u ∧ u = { s with ctl := u.ctl }
        ∧ ∀ k : Fin 76, u.reg (.ovt (.port k 4)) = 0 ∧ u.reg (.ovt (.port k 5)) = 0)
  ∧ (∀ s : State, s.clk.powered = true →
      exec .ident s = .next (s.emit (.sideband (leBytes 8 (readGlb s .id).toNat ++ leBytes 8 (readGlb s .serial).toNat)))
      ∧ exec .status s = .next (s.emit (.sideband (leBytes 2 (statusWord s).toNat)))
      ∧ exec .temp s = .next (s.emit (.sideband (if s.clk.inReset then List.replicate 13 0 else s.spt.cur.toList ++ [hottestStack s])))
      ∧ exec .power s = .next (s.emit (.sideband (leBytes 2 (avgPower s) ++ leBytes 2 s.capo.vin.toNat)))
      ∧ (∀ w b, exec (.evt none w b) s = .next (s.emit (.sideband [s.sb.evt])))
      ∧ (∀ c w, exec (.evt (some c) w true) s = .next { s with sb := { s.sb with evt := s.sb.evt &&& ~~~ (c &&& ~~~ w) } }
        ∧ exec (.evt (some c) w false) s = .next (s.emit .nack))
      ∧ exec .rcvStat s = .next (s.emit (.sideband (leBytes 2 (rcvStatWord s))))
      ∧ exec .alertResponseAddress s = .next (s.emit (.sideband [s.sb.addr.setWidth 8]))
      ∧ ∀ c : BitVec 8, sbListed c.toNat = false → exec (.sidebandUnlistedCommand c) s = .next (s.emit .nack))
  ∧ (∀ s : State, s.clk.powered = true →
      (∀ (v : BitVec 8) (a : BitVec 32) (d : Vector Byte 32),
        ∀ c ∈ ([.rcvSlot v false, .rcvAddr a false, .rcvData d false] : List Instr), exec c s = .next (s.emit .nack))
      ∧ (s.spt.recovery = false → ∀ (v : BitVec 8) (a : BitVec 32) (d : Vector Byte 32),
        ∀ c ∈ ([.rcvSlot v true, .rcvAddr a true, .rcvData d true] : List Instr),
          exec c s = .next { s with sb := { s.sb with rcvStatus := 0x80 } })
      ∧ (s.spt.recovery = true →
        (∀ v : BitVec 8, (v.toNat < 2 → exec (.rcvSlot v true) s = .next { s with sb := { s.sb with rcvSlot := v = 1 } })
          ∧ (2 ≤ v.toNat → exec (.rcvSlot v true) s = .next s))
        ∧ (∀ a : BitVec 32, exec (.rcvAddr a true) s = .next { s with sb := { s.sb with rcvAddr := a.toNat } })
        ∧ ∀ d : Vector Byte 32, ∃ u, exec (.rcvData d true) s = .next u
            ∧ u.sb = { s.sb with rcvAddr := s.sb.rcvAddr + 32 }
            ∧ u.spt.store = if s.sb.rcvAddr + 32 ≤ 0x1000000 then putBytes s.spt.store (rcvPlace s s.sb.rcvAddr) d.toList
                else s.spt.store))
  ∧ ∀ (v : BitVec 8) (g : Vector SigFacts 4) (b : BootFacts) (s : State), s.clk.powered = true →
      exec (.rcvGo v g b false) s = .next (s.emit .nack)
      ∧ (s.spt.recovery = false → exec (.rcvGo v g b true) s = .next { s with sb := { s.sb with rcvStatus := 0x80 } })
      ∧ (s.spt.recovery = true → v ≠ 0xA5 → exec (.rcvGo v g b true) s = .next s)
      ∧ (s.spt.recovery = true → v = 0xA5 → firstFailure s s.sb.rcvSlot (withSigs b s.sb.rcvSlot g) ≠ 0 →
        exec (.rcvGo v g b true) s = .next { s with sb := { s.sb with
          rcvDone := true, rcvStatus := BitVec.ofNat 8 (firstFailure s s.sb.rcvSlot (withSigs b s.sb.rcvSlot g)) } })
      ∧ (s.spt.recovery = true → v = 0xA5 → firstFailure s s.sb.rcvSlot (withSigs b s.sb.rcvSlot g) = 0 →
        ∃ u, exec (.rcvGo v g b true) s = .next u ∧ u.sb.rcvDone = true ∧ u.sb.rcvStatus = 0
          ∧ bit (u.rwp (.spt .boot)) 0 = s.sb.rcvSlot
          ∧ (securityLost b = false →
            u.spt.ready = true ∧ u.spt.recovery = false ∧ u.spt.slot = s.sb.rcvSlot))
end

