-- ==== Sys2Proof/Laws/SMap.lean ====
section
/-! SUPPORT. Laws of the sparse maps: a read after a write, and the canonical form that every operation keeps. -/

namespace Sys2Proof.Machine

variable {V : Type}

@[simp] theorem sget_nil (d : Nat → V) (b : Nat) : sget d [] b = d b := rfl

theorem sget_sins (d : Nat → V) (m : SMap V) (a : Nat) (v : V) (b : Nat) :
    sget d (sins m a v) b = if b = a then v else sget d m b := by
  induction m with
  | nil => simp [sins, sget]
  | cons e r ih =>
    obtain ⟨k, x⟩ := e
    simp only [sins]
    split
    · simp [sget]
    · split
      · subst k; simp only [sget]; split <;> rfl
      · simp only [sget, ih]
        by_cases h : b = k
        · subst h; simp [show ¬ b = a from fun h => ‹¬ a = b› h.symm]
        · simp [h]

theorem sget_filter_ne (d : Nat → V) (m : SMap V) (a b : Nat) :
    sget d (m.filter fun e => e.1 ≠ a) b = if b = a then d a else sget d m b := by
  induction m with
  | nil => by_cases h : b = a <;> simp [sget, h]
  | cons e r ih =>
    obtain ⟨k, x⟩ := e
    by_cases hk : k = a
    · subst hk; simp only [List.filter_cons, ne_eq, not_true_eq_false, decide_false, Bool.false_eq_true, if_false]
      rw [ih]; simp only [sget]; split <;> simp_all
    · simp only [List.filter_cons, ne_eq, hk, not_false_eq_true, decide_true, if_true, sget, ih]
      by_cases h : b = k
      · subst h; simp [hk]
      · simp [h]

/-- A read after a write gives the value written at its key, and what was there at every other. -/
theorem sget_sput [DecidableEq V] (d : Nat → V) (m : SMap V) (a : Nat) (v : V) (b : Nat) :
    sget d (sput d m a v) b = if b = a then v else sget d m b := by
  unfold sput
  split
  · rw [sget_filter_ne]; subst v; rfl
  · exact sget_sins ..

@[simp] theorem sget_sput_same [DecidableEq V] (d : Nat → V) (m : SMap V) (a : Nat) (v : V) :
    sget d (sput d m a v) a = v := by simp [sget_sput]

theorem sget_sput_ne [DecidableEq V] (d : Nat → V) (m : SMap V) (a : Nat) (v : V) {b : Nat} (h : b ≠ a) :
    sget d (sput d m a v) b = sget d m b := by simp [sget_sput, h]

/-! ## The canonical form -/

/-- The canonical form, by its head. -/
theorem swf_cons [DecidableEq V] (d : Nat → V) (k : Nat) (x : V) (r : SMap V) :
    swf d ((k, x) :: r) = true ↔ x ≠ d k ∧ swf d r = true ∧ ∀ e ∈ r, k < e.1 := by
  induction r generalizing k x with
  | nil => simp [swf]
  | cons e r ih =>
    obtain ⟨k', x'⟩ := e
    rw [ih k' x']
    simp only [swf, Bool.and_eq_true, decide_eq_true_eq, ih k' x', List.forall_mem_cons]
    constructor
    · rintro ⟨⟨h1, h2⟩, h3, h4, h5⟩
      exact ⟨h1, ⟨h3, h4, h5⟩, h2, fun e he => Nat.lt_trans h2 (h5 e he)⟩
    · rintro ⟨h1, ⟨h3, h4, h5⟩, h2, h6⟩
      exact ⟨⟨h1, h2⟩, h3, h4, h5⟩

theorem swf_filter [DecidableEq V] (d : Nat → V) (f : Nat × V → Bool) {m : SMap V} (h : swf d m = true) :
    swf d (m.filter f) = true := by
  induction m with
  | nil => rfl
  | cons e r ih =>
    obtain ⟨k, x⟩ := e
    rw [swf_cons] at h
    rw [List.filter_cons]
    split
    · rw [swf_cons]; exact ⟨h.1, ih h.2.1, fun e he => h.2.2 e (List.mem_filter.mp he).1⟩
    · exact ih h.2.1

theorem mem_sins_key (m : SMap V) (a : Nat) (v : V) : ∀ e ∈ sins m a v, e.1 = a ∨ e ∈ m := by
  induction m with
  | nil => intro e he; simp [sins] at he; exact .inl (by rw [he])
  | cons h r ih =>
    obtain ⟨k, x⟩ := h
    intro e he
    simp only [sins] at he
    split at he
    · rcases List.mem_cons.mp he with h | h
      · exact .inl (by rw [h])
      · exact .inr h
    · split at he
      · rcases List.mem_cons.mp he with h | h
        · exact .inl (by rw [h])
        · exact .inr (List.mem_cons_of_mem _ h)
      · rcases List.mem_cons.mp he with h | h
        · exact .inr (by rw [h]; exact List.mem_cons_self)
        · exact (ih e h).imp id (List.mem_cons_of_mem _)

theorem swf_sins [DecidableEq V] (d : Nat → V) {m : SMap V} (a : Nat) {v : V} (hv : v ≠ d a) (h : swf d m = true) :
    swf d (sins m a v) = true := by
  induction m with
  | nil => simp [sins, swf, hv]
  | cons e r ih =>
    obtain ⟨k, x⟩ := e
    have h0 := h
    rw [swf_cons] at h
    simp only [sins]
    split
    · rename_i hl
      rw [swf_cons]
      refine ⟨hv, h0, fun e he => ?_⟩
      rcases List.mem_cons.mp he with h' | h'
      · rw [h']; exact hl
      · exact Nat.lt_trans hl (h.2.2 e h')
    · split
      · subst k; rw [swf_cons]; exact ⟨hv, h.2.1, h.2.2⟩
      · rw [swf_cons]
        refine ⟨h.1, ih h.2.1, fun e he => ?_⟩
        rcases mem_sins_key r a v e he with h' | h'
        · omega
        · exact h.2.2 e h'

/-- A write keeps the canonical form. -/
theorem swf_sput [DecidableEq V] (d : Nat → V) {m : SMap V} (a : Nat) (v : V) (h : swf d m = true) :
    swf d (sput d m a v) = true := by
  unfold sput
  split
  · exact swf_filter d _ h
  · exact swf_sins d a ‹_› h

/-- A removal keeps the canonical form. -/
theorem swf_serase [DecidableEq V] (d : Nat → V) {m : SMap V} (lo len : Nat) (h : swf d m = true) :
    swf d (serase m lo len) = true := swf_filter d _ h

/-! ## Bytes -/

/-- Bytes put at an address keep the canonical form. -/
theorem swf_putBytes {m : SMap Byte} (a : Nat) (bs : List Byte) (h : swf noByte m = true) :
    swf noByte (putBytes m a bs) = true := by
  induction bs generalizing m a with
  | nil => exact h
  | cons b r ih => exact ih (a + 1) (swf_sput noByte a b h)

/-- Reading one byte after bytes were put at an address. -/
theorem sget_putBytes (m : SMap Byte) (a : Nat) (bs : List Byte) (b : Nat) :
    sget noByte (putBytes m a bs) b = if h : a ≤ b ∧ b < a + bs.length then bs[b - a]'(by omega) else sget noByte m b := by
  induction bs generalizing m a with
  | nil => simp only [putBytes, List.length_nil]; rw [dif_neg (by omega)]
  | cons x r ih =>
    simp only [putBytes, ih, List.length_cons]
    by_cases h : b = a
    · subst h; rw [dif_neg (by omega)]; simp
    · by_cases h1 : a + 1 ≤ b ∧ b < a + 1 + r.length
      · rw [dif_pos h1, dif_pos (by omega)]
        have : b - a = (b - (a + 1)) + 1 := by omega
        simp [this]
      · rw [dif_neg h1, dif_neg (by omega), sget_sput_ne _ _ _ _ h]

/-- Bytes outside those put are as before. -/
theorem sget_putBytes_ne (m : SMap Byte) (a : Nat) (bs : List Byte) {b : Nat} (h : b < a ∨ a + bs.length ≤ b) :
    sget noByte (putBytes m a bs) b = sget noByte m b := by
  rw [sget_putBytes, dif_neg (by omega)]

@[simp] theorem length_leBytes (n v : Nat) : (leBytes n v).length = n := by
  induction n generalizing v with
  | zero => rfl
  | succ n ih => simp [leBytes, ih]

@[simp] theorem length_upFrom (a n : Nat) : (upFrom a n).length = n := by
  induction n generalizing a with
  | zero => rfl
  | succ n ih => simp [upFrom, ih]

/-- R8: the number that the little-endian bytes of a number spell. -/
theorem leNat_leBytes (n v : Nat) : leNat (leBytes n v) = v % 256 ^ n := by
  induction n generalizing v with
  | zero => simp [leBytes, leNat, Nat.mod_one]
  | succ n ih =>
    have h : (BitVec.ofNat 8 v).toNat = v % 256 := BitVec.toNat_ofNat ..
    rw [leBytes, leNat, ih, h, Nat.pow_succ, Nat.mul_comm (256 ^ n) 256, Nat.mod_mul]

/-! ## Sets of numbers -/

theorem mem_nins (l : List Nat) (a b : Nat) : b ∈ nins l a ↔ b = a ∨ b ∈ l := by
  induction l with
  | nil => simp [nins]
  | cons x r ih =>
    simp only [nins]
    split
    · simp
    · split
      · subst x; simp
      · simp only [List.mem_cons, ih]; constructor <;> (intro h; rcases h with h | h | h <;> simp [h])

end Sys2Proof.Machine
end

