-- ==== Sys2Proof/Laws/State.lean ====
section
/-! SUPPORT. What each update of the state leaves alone, one lemma per field and update, and what a part reads after an
update of it: no later proof unfolds an update. -/

namespace Sys2Proof.Machine

variable (s : State)

/-! ## setPa -/

@[simp] theorem State.setPa_pending (p : Pa) (x : PaState) : (s.setPa p x).pending = s.pending := rfl
@[simp] theorem State.setPa_now (p : Pa) (x : PaState) : (s.setPa p x).now = s.now := rfl
@[simp] theorem State.setPa_freeCtr (p : Pa) (x : PaState) : (s.setPa p x).freeCtr = s.freeCtr := rfl
@[simp] theorem State.setPa_outbox (p : Pa) (x : PaState) : (s.setPa p x).outbox = s.outbox := rfl
@[simp] theorem State.setPa_mem (p : Pa) (x : PaState) : (s.setPa p x).mem = s.mem := rfl
@[simp] theorem State.setPa_ctl (p : Pa) (x : PaState) : (s.setPa p x).ctl = s.ctl := rfl
@[simp] theorem State.setPa_clk (p : Pa) (x : PaState) : (s.setPa p x).clk = s.clk := rfl
@[simp] theorem State.setPa_rp (p : Pa) (x : PaState) : (s.setPa p x).rp = s.rp := rfl
@[simp] theorem State.setPa_net (p : Pa) (x : PaState) : (s.setPa p x).net = s.net := rfl
@[simp] theorem State.setPa_st (p : Pa) (x : PaState) : (s.setPa p x).st = s.st := rfl
@[simp] theorem State.setPa_host (p : Pa) (x : PaState) : (s.setPa p x).host = s.host := rfl
@[simp] theorem State.setPa_brg (p : Pa) (x : PaState) : (s.setPa p x).brg = s.brg := rfl
@[simp] theorem State.setPa_spt (p : Pa) (x : PaState) : (s.setPa p x).spt = s.spt := rfl
@[simp] theorem State.setPa_drone (p : Pa) (x : PaState) : (s.setPa p x).drone = s.drone := rfl
@[simp] theorem State.setPa_tpc (p : Pa) (x : PaState) : (s.setPa p x).tpc = s.tpc := rfl
@[simp] theorem State.setPa_capo (p : Pa) (x : PaState) : (s.setPa p x).capo = s.capo := rfl
@[simp] theorem State.setPa_sb (p : Pa) (x : PaState) : (s.setPa p x).sb = s.sb := rfl
@[simp] theorem State.setPa_ovt (p : Pa) (x : PaState) : (s.setPa p x).ovt = s.ovt := rfl

/-! ## modPa -/

@[simp] theorem State.modPa_pending (p : Pa) (f : PaState → PaState) : (s.modPa p f).pending = s.pending := rfl
@[simp] theorem State.modPa_now (p : Pa) (f : PaState → PaState) : (s.modPa p f).now = s.now := rfl
@[simp] theorem State.modPa_freeCtr (p : Pa) (f : PaState → PaState) : (s.modPa p f).freeCtr = s.freeCtr := rfl
@[simp] theorem State.modPa_outbox (p : Pa) (f : PaState → PaState) : (s.modPa p f).outbox = s.outbox := rfl
@[simp] theorem State.modPa_mem (p : Pa) (f : PaState → PaState) : (s.modPa p f).mem = s.mem := rfl
@[simp] theorem State.modPa_ctl (p : Pa) (f : PaState → PaState) : (s.modPa p f).ctl = s.ctl := rfl
@[simp] theorem State.modPa_clk (p : Pa) (f : PaState → PaState) : (s.modPa p f).clk = s.clk := rfl
@[simp] theorem State.modPa_rp (p : Pa) (f : PaState → PaState) : (s.modPa p f).rp = s.rp := rfl
@[simp] theorem State.modPa_net (p : Pa) (f : PaState → PaState) : (s.modPa p f).net = s.net := rfl
@[simp] theorem State.modPa_st (p : Pa) (f : PaState → PaState) : (s.modPa p f).st = s.st := rfl
@[simp] theorem State.modPa_host (p : Pa) (f : PaState → PaState) : (s.modPa p f).host = s.host := rfl
@[simp] theorem State.modPa_brg (p : Pa) (f : PaState → PaState) : (s.modPa p f).brg = s.brg := rfl
@[simp] theorem State.modPa_spt (p : Pa) (f : PaState → PaState) : (s.modPa p f).spt = s.spt := rfl
@[simp] theorem State.modPa_drone (p : Pa) (f : PaState → PaState) : (s.modPa p f).drone = s.drone := rfl
@[simp] theorem State.modPa_tpc (p : Pa) (f : PaState → PaState) : (s.modPa p f).tpc = s.tpc := rfl
@[simp] theorem State.modPa_capo (p : Pa) (f : PaState → PaState) : (s.modPa p f).capo = s.capo := rfl
@[simp] theorem State.modPa_sb (p : Pa) (f : PaState → PaState) : (s.modPa p f).sb = s.sb := rfl
@[simp] theorem State.modPa_ovt (p : Pa) (f : PaState → PaState) : (s.modPa p f).ovt = s.ovt := rfl

/-! ## modThr -/

@[simp] theorem State.modThr_pending (p : Pa) (t : Thr) (f : Thread → Thread) : (s.modThr p t f).pending = s.pending := rfl
@[simp] theorem State.modThr_now (p : Pa) (t : Thr) (f : Thread → Thread) : (s.modThr p t f).now = s.now := rfl
@[simp] theorem State.modThr_freeCtr (p : Pa) (t : Thr) (f : Thread → Thread) : (s.modThr p t f).freeCtr = s.freeCtr := rfl
@[simp] theorem State.modThr_outbox (p : Pa) (t : Thr) (f : Thread → Thread) : (s.modThr p t f).outbox = s.outbox := rfl
@[simp] theorem State.modThr_mem (p : Pa) (t : Thr) (f : Thread → Thread) : (s.modThr p t f).mem = s.mem := rfl
@[simp] theorem State.modThr_ctl (p : Pa) (t : Thr) (f : Thread → Thread) : (s.modThr p t f).ctl = s.ctl := rfl
@[simp] theorem State.modThr_clk (p : Pa) (t : Thr) (f : Thread → Thread) : (s.modThr p t f).clk = s.clk := rfl
@[simp] theorem State.modThr_rp (p : Pa) (t : Thr) (f : Thread → Thread) : (s.modThr p t f).rp = s.rp := rfl
@[simp] theorem State.modThr_net (p : Pa) (t : Thr) (f : Thread → Thread) : (s.modThr p t f).net = s.net := rfl
@[simp] theorem State.modThr_st (p : Pa) (t : Thr) (f : Thread → Thread) : (s.modThr p t f).st = s.st := rfl
@[simp] theorem State.modThr_host (p : Pa) (t : Thr) (f : Thread → Thread) : (s.modThr p t f).host = s.host := rfl
@[simp] theorem State.modThr_brg (p : Pa) (t : Thr) (f : Thread → Thread) : (s.modThr p t f).brg = s.brg := rfl
@[simp] theorem State.modThr_spt (p : Pa) (t : Thr) (f : Thread → Thread) : (s.modThr p t f).spt = s.spt := rfl
@[simp] theorem State.modThr_drone (p : Pa) (t : Thr) (f : Thread → Thread) : (s.modThr p t f).drone = s.drone := rfl
@[simp] theorem State.modThr_tpc (p : Pa) (t : Thr) (f : Thread → Thread) : (s.modThr p t f).tpc = s.tpc := rfl
@[simp] theorem State.modThr_capo (p : Pa) (t : Thr) (f : Thread → Thread) : (s.modThr p t f).capo = s.capo := rfl
@[simp] theorem State.modThr_sb (p : Pa) (t : Thr) (f : Thread → Thread) : (s.modThr p t f).sb = s.sb := rfl
@[simp] theorem State.modThr_ovt (p : Pa) (t : Thr) (f : Thread → Thread) : (s.modThr p t f).ovt = s.ovt := rfl

/-! ## ws -/

@[simp] theorem State.ws_pending (p : Pa) (t : Thr) (i : Nat) (v : Word) : (s.ws p t i v).pending = s.pending := rfl
@[simp] theorem State.ws_now (p : Pa) (t : Thr) (i : Nat) (v : Word) : (s.ws p t i v).now = s.now := rfl
@[simp] theorem State.ws_freeCtr (p : Pa) (t : Thr) (i : Nat) (v : Word) : (s.ws p t i v).freeCtr = s.freeCtr := rfl
@[simp] theorem State.ws_outbox (p : Pa) (t : Thr) (i : Nat) (v : Word) : (s.ws p t i v).outbox = s.outbox := rfl
@[simp] theorem State.ws_mem (p : Pa) (t : Thr) (i : Nat) (v : Word) : (s.ws p t i v).mem = s.mem := rfl
@[simp] theorem State.ws_ctl (p : Pa) (t : Thr) (i : Nat) (v : Word) : (s.ws p t i v).ctl = s.ctl := rfl
@[simp] theorem State.ws_clk (p : Pa) (t : Thr) (i : Nat) (v : Word) : (s.ws p t i v).clk = s.clk := rfl
@[simp] theorem State.ws_rp (p : Pa) (t : Thr) (i : Nat) (v : Word) : (s.ws p t i v).rp = s.rp := rfl
@[simp] theorem State.ws_net (p : Pa) (t : Thr) (i : Nat) (v : Word) : (s.ws p t i v).net = s.net := rfl
@[simp] theorem State.ws_st (p : Pa) (t : Thr) (i : Nat) (v : Word) : (s.ws p t i v).st = s.st := rfl
@[simp] theorem State.ws_host (p : Pa) (t : Thr) (i : Nat) (v : Word) : (s.ws p t i v).host = s.host := rfl
@[simp] theorem State.ws_brg (p : Pa) (t : Thr) (i : Nat) (v : Word) : (s.ws p t i v).brg = s.brg := rfl
@[simp] theorem State.ws_spt (p : Pa) (t : Thr) (i : Nat) (v : Word) : (s.ws p t i v).spt = s.spt := rfl
@[simp] theorem State.ws_drone (p : Pa) (t : Thr) (i : Nat) (v : Word) : (s.ws p t i v).drone = s.drone := rfl
@[simp] theorem State.ws_tpc (p : Pa) (t : Thr) (i : Nat) (v : Word) : (s.ws p t i v).tpc = s.tpc := rfl
@[simp] theorem State.ws_capo (p : Pa) (t : Thr) (i : Nat) (v : Word) : (s.ws p t i v).capo = s.capo := rfl
@[simp] theorem State.ws_sb (p : Pa) (t : Thr) (i : Nat) (v : Word) : (s.ws p t i v).sb = s.sb := rfl
@[simp] theorem State.ws_ovt (p : Pa) (t : Thr) (i : Nat) (v : Word) : (s.ws p t i v).ovt = s.ovt := rfl

/-! ## emit -/

@[simp] theorem State.emit_pending (m : OutMsg) : (s.emit m).pending = s.pending := rfl
@[simp] theorem State.emit_now (m : OutMsg) : (s.emit m).now = s.now := rfl
@[simp] theorem State.emit_freeCtr (m : OutMsg) : (s.emit m).freeCtr = s.freeCtr := rfl
@[simp] theorem State.emit_mem (m : OutMsg) : (s.emit m).mem = s.mem := rfl
@[simp] theorem State.emit_ctl (m : OutMsg) : (s.emit m).ctl = s.ctl := rfl
@[simp] theorem State.emit_pas (m : OutMsg) : (s.emit m).pas = s.pas := rfl
@[simp] theorem State.emit_clk (m : OutMsg) : (s.emit m).clk = s.clk := rfl
@[simp] theorem State.emit_rp (m : OutMsg) : (s.emit m).rp = s.rp := rfl
@[simp] theorem State.emit_net (m : OutMsg) : (s.emit m).net = s.net := rfl
@[simp] theorem State.emit_st (m : OutMsg) : (s.emit m).st = s.st := rfl
@[simp] theorem State.emit_host (m : OutMsg) : (s.emit m).host = s.host := rfl
@[simp] theorem State.emit_brg (m : OutMsg) : (s.emit m).brg = s.brg := rfl
@[simp] theorem State.emit_spt (m : OutMsg) : (s.emit m).spt = s.spt := rfl
@[simp] theorem State.emit_drone (m : OutMsg) : (s.emit m).drone = s.drone := rfl
@[simp] theorem State.emit_tpc (m : OutMsg) : (s.emit m).tpc = s.tpc := rfl
@[simp] theorem State.emit_capo (m : OutMsg) : (s.emit m).capo = s.capo := rfl
@[simp] theorem State.emit_sb (m : OutMsg) : (s.emit m).sb = s.sb := rfl
@[simp] theorem State.emit_ovt (m : OutMsg) : (s.emit m).ovt = s.ovt := rfl

/-! ## setReg -/

@[simp] theorem State.setReg_pending (r : Reg) (v : Word) : (s.setReg r v).pending = s.pending := rfl
@[simp] theorem State.setReg_now (r : Reg) (v : Word) : (s.setReg r v).now = s.now := rfl
@[simp] theorem State.setReg_freeCtr (r : Reg) (v : Word) : (s.setReg r v).freeCtr = s.freeCtr := rfl
@[simp] theorem State.setReg_outbox (r : Reg) (v : Word) : (s.setReg r v).outbox = s.outbox := rfl
@[simp] theorem State.setReg_mem (r : Reg) (v : Word) : (s.setReg r v).mem = s.mem := rfl
@[simp] theorem State.setReg_pas (r : Reg) (v : Word) : (s.setReg r v).pas = s.pas := rfl
@[simp] theorem State.setReg_clk (r : Reg) (v : Word) : (s.setReg r v).clk = s.clk := rfl
@[simp] theorem State.setReg_rp (r : Reg) (v : Word) : (s.setReg r v).rp = s.rp := rfl
@[simp] theorem State.setReg_net (r : Reg) (v : Word) : (s.setReg r v).net = s.net := rfl
@[simp] theorem State.setReg_st (r : Reg) (v : Word) : (s.setReg r v).st = s.st := rfl
@[simp] theorem State.setReg_host (r : Reg) (v : Word) : (s.setReg r v).host = s.host := rfl
@[simp] theorem State.setReg_brg (r : Reg) (v : Word) : (s.setReg r v).brg = s.brg := rfl
@[simp] theorem State.setReg_spt (r : Reg) (v : Word) : (s.setReg r v).spt = s.spt := rfl
@[simp] theorem State.setReg_drone (r : Reg) (v : Word) : (s.setReg r v).drone = s.drone := rfl
@[simp] theorem State.setReg_tpc (r : Reg) (v : Word) : (s.setReg r v).tpc = s.tpc := rfl
@[simp] theorem State.setReg_capo (r : Reg) (v : Word) : (s.setReg r v).capo = s.capo := rfl
@[simp] theorem State.setReg_sb (r : Reg) (v : Word) : (s.setReg r v).sb = s.sb := rfl
@[simp] theorem State.setReg_ovt (r : Reg) (v : Word) : (s.setReg r v).ovt = s.ovt := rfl

/-! ## raiseBits -/

@[simp] theorem State.raiseBits_pending (r : Reg) (m : Word) : (s.raiseBits r m).pending = s.pending := rfl
@[simp] theorem State.raiseBits_now (r : Reg) (m : Word) : (s.raiseBits r m).now = s.now := rfl
@[simp] theorem State.raiseBits_freeCtr (r : Reg) (m : Word) : (s.raiseBits r m).freeCtr = s.freeCtr := rfl
@[simp] theorem State.raiseBits_outbox (r : Reg) (m : Word) : (s.raiseBits r m).outbox = s.outbox := rfl
@[simp] theorem State.raiseBits_mem (r : Reg) (m : Word) : (s.raiseBits r m).mem = s.mem := rfl
@[simp] theorem State.raiseBits_pas (r : Reg) (m : Word) : (s.raiseBits r m).pas = s.pas := rfl
@[simp] theorem State.raiseBits_clk (r : Reg) (m : Word) : (s.raiseBits r m).clk = s.clk := rfl
@[simp] theorem State.raiseBits_rp (r : Reg) (m : Word) : (s.raiseBits r m).rp = s.rp := rfl
@[simp] theorem State.raiseBits_net (r : Reg) (m : Word) : (s.raiseBits r m).net = s.net := rfl
@[simp] theorem State.raiseBits_st (r : Reg) (m : Word) : (s.raiseBits r m).st = s.st := rfl
@[simp] theorem State.raiseBits_host (r : Reg) (m : Word) : (s.raiseBits r m).host = s.host := rfl
@[simp] theorem State.raiseBits_brg (r : Reg) (m : Word) : (s.raiseBits r m).brg = s.brg := rfl
@[simp] theorem State.raiseBits_spt (r : Reg) (m : Word) : (s.raiseBits r m).spt = s.spt := rfl
@[simp] theorem State.raiseBits_drone (r : Reg) (m : Word) : (s.raiseBits r m).drone = s.drone := rfl
@[simp] theorem State.raiseBits_tpc (r : Reg) (m : Word) : (s.raiseBits r m).tpc = s.tpc := rfl
@[simp] theorem State.raiseBits_capo (r : Reg) (m : Word) : (s.raiseBits r m).capo = s.capo := rfl
@[simp] theorem State.raiseBits_sb (r : Reg) (m : Word) : (s.raiseBits r m).sb = s.sb := rfl
@[simp] theorem State.raiseBits_ovt (r : Reg) (m : Word) : (s.raiseBits r m).ovt = s.ovt := rfl

/-! ## putRegField -/

@[simp] theorem State.putRegField_pending (r : Reg) (lo len v : Nat) : (s.putRegField r lo len v).pending = s.pending := rfl
@[simp] theorem State.putRegField_now (r : Reg) (lo len v : Nat) : (s.putRegField r lo len v).now = s.now := rfl
@[simp] theorem State.putRegField_freeCtr (r : Reg) (lo len v : Nat) : (s.putRegField r lo len v).freeCtr = s.freeCtr := rfl
@[simp] theorem State.putRegField_outbox (r : Reg) (lo len v : Nat) : (s.putRegField r lo len v).outbox = s.outbox := rfl
@[simp] theorem State.putRegField_mem (r : Reg) (lo len v : Nat) : (s.putRegField r lo len v).mem = s.mem := rfl
@[simp] theorem State.putRegField_pas (r : Reg) (lo len v : Nat) : (s.putRegField r lo len v).pas = s.pas := rfl
@[simp] theorem State.putRegField_clk (r : Reg) (lo len v : Nat) : (s.putRegField r lo len v).clk = s.clk := rfl
@[simp] theorem State.putRegField_rp (r : Reg) (lo len v : Nat) : (s.putRegField r lo len v).rp = s.rp := rfl
@[simp] theorem State.putRegField_net (r : Reg) (lo len v : Nat) : (s.putRegField r lo len v).net = s.net := rfl
@[simp] theorem State.putRegField_st (r : Reg) (lo len v : Nat) : (s.putRegField r lo len v).st = s.st := rfl
@[simp] theorem State.putRegField_host (r : Reg) (lo len v : Nat) : (s.putRegField r lo len v).host = s.host := rfl
@[simp] theorem State.putRegField_brg (r : Reg) (lo len v : Nat) : (s.putRegField r lo len v).brg = s.brg := rfl
@[simp] theorem State.putRegField_spt (r : Reg) (lo len v : Nat) : (s.putRegField r lo len v).spt = s.spt := rfl
@[simp] theorem State.putRegField_drone (r : Reg) (lo len v : Nat) : (s.putRegField r lo len v).drone = s.drone := rfl
@[simp] theorem State.putRegField_tpc (r : Reg) (lo len v : Nat) : (s.putRegField r lo len v).tpc = s.tpc := rfl
@[simp] theorem State.putRegField_capo (r : Reg) (lo len v : Nat) : (s.putRegField r lo len v).capo = s.capo := rfl
@[simp] theorem State.putRegField_sb (r : Reg) (lo len v : Nat) : (s.putRegField r lo len v).sb = s.sb := rfl
@[simp] theorem State.putRegField_ovt (r : Reg) (lo len v : Nat) : (s.putRegField r lo len v).ovt = s.ovt := rfl

/-! ## countSat -/

@[simp] theorem State.countSat_pending (r : Reg) (lo len n : Nat) : (s.countSat r lo len n).pending = s.pending := rfl
@[simp] theorem State.countSat_now (r : Reg) (lo len n : Nat) : (s.countSat r lo len n).now = s.now := rfl
@[simp] theorem State.countSat_freeCtr (r : Reg) (lo len n : Nat) : (s.countSat r lo len n).freeCtr = s.freeCtr := rfl
@[simp] theorem State.countSat_outbox (r : Reg) (lo len n : Nat) : (s.countSat r lo len n).outbox = s.outbox := rfl
@[simp] theorem State.countSat_mem (r : Reg) (lo len n : Nat) : (s.countSat r lo len n).mem = s.mem := rfl
@[simp] theorem State.countSat_pas (r : Reg) (lo len n : Nat) : (s.countSat r lo len n).pas = s.pas := rfl
@[simp] theorem State.countSat_clk (r : Reg) (lo len n : Nat) : (s.countSat r lo len n).clk = s.clk := rfl
@[simp] theorem State.countSat_rp (r : Reg) (lo len n : Nat) : (s.countSat r lo len n).rp = s.rp := rfl
@[simp] theorem State.countSat_net (r : Reg) (lo len n : Nat) : (s.countSat r lo len n).net = s.net := rfl
@[simp] theorem State.countSat_st (r : Reg) (lo len n : Nat) : (s.countSat r lo len n).st = s.st := rfl
@[simp] theorem State.countSat_host (r : Reg) (lo len n : Nat) : (s.countSat r lo len n).host = s.host := rfl
@[simp] theorem State.countSat_brg (r : Reg) (lo len n : Nat) : (s.countSat r lo len n).brg = s.brg := rfl
@[simp] theorem State.countSat_spt (r : Reg) (lo len n : Nat) : (s.countSat r lo len n).spt = s.spt := rfl
@[simp] theorem State.countSat_drone (r : Reg) (lo len n : Nat) : (s.countSat r lo len n).drone = s.drone := rfl
@[simp] theorem State.countSat_tpc (r : Reg) (lo len n : Nat) : (s.countSat r lo len n).tpc = s.tpc := rfl
@[simp] theorem State.countSat_capo (r : Reg) (lo len n : Nat) : (s.countSat r lo len n).capo = s.capo := rfl
@[simp] theorem State.countSat_sb (r : Reg) (lo len n : Nat) : (s.countSat r lo len n).sb = s.sb := rfl
@[simp] theorem State.countSat_ovt (r : Reg) (lo len n : Nat) : (s.countSat r lo len n).ovt = s.ovt := rfl

/-! ## write -/

@[simp] theorem State.write_pending (a : Nat) (bs : List Byte) : (s.write a bs).pending = s.pending := rfl
@[simp] theorem State.write_now (a : Nat) (bs : List Byte) : (s.write a bs).now = s.now := rfl
@[simp] theorem State.write_freeCtr (a : Nat) (bs : List Byte) : (s.write a bs).freeCtr = s.freeCtr := rfl
@[simp] theorem State.write_outbox (a : Nat) (bs : List Byte) : (s.write a bs).outbox = s.outbox := rfl
@[simp] theorem State.write_ctl (a : Nat) (bs : List Byte) : (s.write a bs).ctl = s.ctl := rfl
@[simp] theorem State.write_pas (a : Nat) (bs : List Byte) : (s.write a bs).pas = s.pas := rfl
@[simp] theorem State.write_clk (a : Nat) (bs : List Byte) : (s.write a bs).clk = s.clk := rfl
@[simp] theorem State.write_rp (a : Nat) (bs : List Byte) : (s.write a bs).rp = s.rp := rfl
@[simp] theorem State.write_net (a : Nat) (bs : List Byte) : (s.write a bs).net = s.net := rfl
@[simp] theorem State.write_st (a : Nat) (bs : List Byte) : (s.write a bs).st = s.st := rfl
@[simp] theorem State.write_brg (a : Nat) (bs : List Byte) : (s.write a bs).brg = s.brg := rfl
@[simp] theorem State.write_spt (a : Nat) (bs : List Byte) : (s.write a bs).spt = s.spt := rfl
@[simp] theorem State.write_drone (a : Nat) (bs : List Byte) : (s.write a bs).drone = s.drone := rfl
@[simp] theorem State.write_tpc (a : Nat) (bs : List Byte) : (s.write a bs).tpc = s.tpc := rfl
@[simp] theorem State.write_capo (a : Nat) (bs : List Byte) : (s.write a bs).capo = s.capo := rfl
@[simp] theorem State.write_sb (a : Nat) (bs : List Byte) : (s.write a bs).sb = s.sb := rfl
@[simp] theorem State.write_ovt (a : Nat) (bs : List Byte) : (s.write a bs).ovt = s.ovt := rfl

/-! ## spoil -/

@[simp] theorem State.spoil_pending (a : Nat) : (s.spoil a).pending = s.pending := rfl
@[simp] theorem State.spoil_now (a : Nat) : (s.spoil a).now = s.now := rfl
@[simp] theorem State.spoil_freeCtr (a : Nat) : (s.spoil a).freeCtr = s.freeCtr := rfl
@[simp] theorem State.spoil_outbox (a : Nat) : (s.spoil a).outbox = s.outbox := rfl
@[simp] theorem State.spoil_ctl (a : Nat) : (s.spoil a).ctl = s.ctl := rfl
@[simp] theorem State.spoil_pas (a : Nat) : (s.spoil a).pas = s.pas := rfl
@[simp] theorem State.spoil_clk (a : Nat) : (s.spoil a).clk = s.clk := rfl
@[simp] theorem State.spoil_rp (a : Nat) : (s.spoil a).rp = s.rp := rfl
@[simp] theorem State.spoil_net (a : Nat) : (s.spoil a).net = s.net := rfl
@[simp] theorem State.spoil_st (a : Nat) : (s.spoil a).st = s.st := rfl
@[simp] theorem State.spoil_host (a : Nat) : (s.spoil a).host = s.host := rfl
@[simp] theorem State.spoil_brg (a : Nat) : (s.spoil a).brg = s.brg := rfl
@[simp] theorem State.spoil_spt (a : Nat) : (s.spoil a).spt = s.spt := rfl
@[simp] theorem State.spoil_drone (a : Nat) : (s.spoil a).drone = s.drone := rfl
@[simp] theorem State.spoil_tpc (a : Nat) : (s.spoil a).tpc = s.tpc := rfl
@[simp] theorem State.spoil_capo (a : Nat) : (s.spoil a).capo = s.capo := rfl
@[simp] theorem State.spoil_sb (a : Nat) : (s.spoil a).sb = s.sb := rfl
@[simp] theorem State.spoil_ovt (a : Nat) : (s.spoil a).ovt = s.ovt := rfl

/-! ## Threads of a PA -/

variable (x : PaState)

@[simp] theorem PaState.setThr_online (t : Thr) (y : Thread) : (x.setThr t y).online = x.online := rfl
@[simp] theorem PaState.setThr_imem (t : Thr) (y : Thread) : (x.setThr t y).imem = x.imem := rfl
@[simp] theorem PaState.setThr_tiles (t : Thr) (y : Thread) : (x.setThr t y).tiles = x.tiles := rfl
@[simp] theorem PaState.setThr_accs (t : Thr) (y : Thread) : (x.setThr t y).accs = x.accs := rfl
@[simp] theorem PaState.setThr_accOvf (t : Thr) (y : Thread) : (x.setThr t y).accOvf = x.accOvf := rfl
@[simp] theorem PaState.setThr_accMi (t : Thr) (y : Thread) : (x.setThr t y).accMi = x.accMi := rfl
@[simp] theorem PaState.setThr_cur (t : Thr) (y : Thread) : (x.setThr t y).cur = x.cur := rfl
@[simp] theorem PaState.setThr_runLen (t : Thr) (y : Thread) : (x.setThr t y).runLen = x.runLen := rfl
@[simp] theorem PaState.setThr_cycle (t : Thr) (y : Thread) : (x.setThr t y).cycle = x.cycle := rfl
@[simp] theorem PaState.setThr_divTo (t : Thr) (y : Thread) : (x.setThr t y).divTo = x.divTo := rfl
@[simp] theorem PaState.setThr_merge (t : Thr) (y : Thread) : (x.setThr t y).merge = x.merge := rfl
@[simp] theorem PaState.setThr_draining (t : Thr) (y : Thread) : (x.setThr t y).draining = x.draining := rfl
@[simp] theorem PaState.setThr_ops (t : Thr) (y : Thread) : (x.setThr t y).ops = x.ops := rfl
@[simp] theorem PaState.setThr_nextOp (t : Thr) (y : Thread) : (x.setThr t y).nextOp = x.nextOp := rfl
@[simp] theorem PaState.setThr_bow (t : Thr) (y : Thread) : (x.setThr t y).bow = x.bow := rfl
@[simp] theorem PaState.setThr_barriers (t : Thr) (y : Thread) : (x.setThr t y).barriers = x.barriers := rfl
@[simp] theorem PaState.setThr_quiesced (t : Thr) (y : Thread) : (x.setThr t y).quiesced = x.quiesced := rfl
@[simp] theorem PaState.setThr_mcPa (t : Thr) (y : Thread) : (x.setThr t y).mcPa = x.mcPa := rfl
@[simp] theorem PaState.setThr_mcBow (t : Thr) (y : Thread) : (x.setThr t y).mcBow = x.mcBow := rfl
@[simp] theorem PaState.setThr_digPa (t : Thr) (y : Thread) : (x.setThr t y).digPa = x.digPa := rfl
@[simp] theorem PaState.setThr_digBow (t : Thr) (y : Thread) : (x.setThr t y).digBow = x.digBow := rfl

@[simp] theorem PaState.modThr_online (t : Thr) (g : Thread → Thread) : (x.modThr t g).online = x.online := rfl
@[simp] theorem PaState.modThr_imem (t : Thr) (g : Thread → Thread) : (x.modThr t g).imem = x.imem := rfl
@[simp] theorem PaState.modThr_tiles (t : Thr) (g : Thread → Thread) : (x.modThr t g).tiles = x.tiles := rfl
@[simp] theorem PaState.modThr_accs (t : Thr) (g : Thread → Thread) : (x.modThr t g).accs = x.accs := rfl
@[simp] theorem PaState.modThr_accOvf (t : Thr) (g : Thread → Thread) : (x.modThr t g).accOvf = x.accOvf := rfl
@[simp] theorem PaState.modThr_accMi (t : Thr) (g : Thread → Thread) : (x.modThr t g).accMi = x.accMi := rfl
@[simp] theorem PaState.modThr_cur (t : Thr) (g : Thread → Thread) : (x.modThr t g).cur = x.cur := rfl
@[simp] theorem PaState.modThr_runLen (t : Thr) (g : Thread → Thread) : (x.modThr t g).runLen = x.runLen := rfl
@[simp] theorem PaState.modThr_cycle (t : Thr) (g : Thread → Thread) : (x.modThr t g).cycle = x.cycle := rfl
@[simp] theorem PaState.modThr_divTo (t : Thr) (g : Thread → Thread) : (x.modThr t g).divTo = x.divTo := rfl
@[simp] theorem PaState.modThr_merge (t : Thr) (g : Thread → Thread) : (x.modThr t g).merge = x.merge := rfl
@[simp] theorem PaState.modThr_draining (t : Thr) (g : Thread → Thread) : (x.modThr t g).draining = x.draining := rfl
@[simp] theorem PaState.modThr_ops (t : Thr) (g : Thread → Thread) : (x.modThr t g).ops = x.ops := rfl
@[simp] theorem PaState.modThr_nextOp (t : Thr) (g : Thread → Thread) : (x.modThr t g).nextOp = x.nextOp := rfl
@[simp] theorem PaState.modThr_bow (t : Thr) (g : Thread → Thread) : (x.modThr t g).bow = x.bow := rfl
@[simp] theorem PaState.modThr_barriers (t : Thr) (g : Thread → Thread) : (x.modThr t g).barriers = x.barriers := rfl
@[simp] theorem PaState.modThr_quiesced (t : Thr) (g : Thread → Thread) : (x.modThr t g).quiesced = x.quiesced := rfl
@[simp] theorem PaState.modThr_mcPa (t : Thr) (g : Thread → Thread) : (x.modThr t g).mcPa = x.mcPa := rfl
@[simp] theorem PaState.modThr_mcBow (t : Thr) (g : Thread → Thread) : (x.modThr t g).mcBow = x.mcBow := rfl
@[simp] theorem PaState.modThr_digPa (t : Thr) (g : Thread → Thread) : (x.modThr t g).digPa = x.digPa := rfl
@[simp] theorem PaState.modThr_digBow (t : Thr) (g : Thread → Thread) : (x.modThr t g).digBow = x.digBow := rfl

/-! ## Reading a part after an update of it -/

theorem State.pa_setPa (p : Pa) (x : PaState) (q : Pa) : (s.setPa p x).pa q = if q = p then x else s.pa q := by
  simp only [State.pa, State.setPa, Vector.getElem_set]
  by_cases h : q = p
  · subst h; simp
  · rw [if_neg (fun h' => h (Fin.ext h'.symm)), if_neg h]

@[simp] theorem State.pa_setPa_same (p : Pa) (x : PaState) : (s.setPa p x).pa p = x := by simp [State.pa_setPa]

theorem State.pa_setPa_ne (p : Pa) (x : PaState) {q : Pa} (h : q ≠ p) : (s.setPa p x).pa q = s.pa q := by
  simp [State.pa_setPa, h]

@[simp] theorem State.pa_modPa_same (p : Pa) (f : PaState → PaState) : (s.modPa p f).pa p = f (s.pa p) := by
  simp [State.modPa]

theorem State.pa_modPa_ne (p : Pa) (f : PaState → PaState) {q : Pa} (h : q ≠ p) : (s.modPa p f).pa q = s.pa q := by
  simp [State.modPa, State.pa_setPa_ne _ _ _ h]

theorem PaState.thr_setThr (t : Thr) (y : Thread) (u : Thr) : (x.setThr t y).thr u = if u = t then y else x.thr u := by
  simp only [PaState.thr, PaState.setThr, Vector.getElem_set]
  by_cases h : u = t
  · subst h; simp
  · rw [if_neg (fun h' => h (Fin.ext h'.symm)), if_neg h]

@[simp] theorem PaState.thr_setThr_same (t : Thr) (y : Thread) : (x.setThr t y).thr t = y := by simp [PaState.thr_setThr]

theorem PaState.thr_setThr_ne (t : Thr) (y : Thread) {u : Thr} (h : u ≠ t) : (x.setThr t y).thr u = x.thr u := by
  simp [PaState.thr_setThr, h]

@[simp] theorem PaState.thr_modThr_same (t : Thr) (g : Thread → Thread) : (x.modThr t g).thr t = g (x.thr t) := by
  simp [PaState.modThr]

theorem PaState.thr_modThr_ne (t : Thr) (g : Thread → Thread) {u : Thr} (h : u ≠ t) : (x.modThr t g).thr u = x.thr u := by
  simp [PaState.modThr, PaState.thr_setThr_ne _ _ _ h]

@[simp] theorem State.thr_modThr_same (p : Pa) (t : Thr) (g : Thread → Thread) :
    (s.modThr p t g).thr p t = g (s.thr p t) := by
  simp [State.thr, State.modThr]

theorem State.thr_modThr_ne (p : Pa) (t : Thr) (g : Thread → Thread) {u : Thr} (h : u ≠ t) :
    (s.modThr p t g).thr p u = s.thr p u := by
  simp [State.thr, State.modThr, PaState.thr_modThr_ne _ _ _ h]

theorem State.pa_modThr_ne (p : Pa) (t : Thr) (g : Thread → Thread) {q : Pa} (h : q ≠ p) :
    (s.modThr p t g).pa q = s.pa q := s.pa_modPa_ne _ _ h

@[simp] theorem State.pa_modThr_same (p : Pa) (t : Thr) (g : Thread → Thread) :
    (s.modThr p t g).pa p = (s.pa p).modThr t g := s.pa_modPa_same _ _

/-! ## Control registers -/

/-- What the control range holds at an offset. -/
theorem State.setReg_at (r : Reg) (v : Word) (o : Nat) :
    sget regReset (s.setReg r v).ctl o = if o = r.off then v else sget regReset s.ctl o := sget_sput ..

@[simp] theorem State.reg_setReg_same (r : Reg) (v : Word) : (s.setReg r v).reg r = v := by
  simp [State.reg, State.setReg_at]

theorem State.reg_setReg_ne (r : Reg) (v : Word) {q : Reg} (h : q.off ≠ r.off) : (s.setReg r v).reg q = s.reg q := by
  simp [State.reg, State.setReg_at, h]

@[simp] theorem State.reg_setPa (p : Pa) (x : PaState) (r : Reg) : (s.setPa p x).reg r = s.reg r := rfl
@[simp] theorem State.reg_modPa (p : Pa) (f : PaState → PaState) (r : Reg) : (s.modPa p f).reg r = s.reg r := rfl
@[simp] theorem State.reg_modThr (p : Pa) (t : Thr) (f : Thread → Thread) (r : Reg) :
    (s.modThr p t f).reg r = s.reg r := rfl
@[simp] theorem State.reg_emit (m : OutMsg) (r : Reg) : (s.emit m).reg r = s.reg r := rfl
@[simp] theorem State.pa_emit (m : OutMsg) (p : Pa) : (s.emit m).pa p = s.pa p := rfl
@[simp] theorem State.pa_setReg (r : Reg) (v : Word) (p : Pa) : (s.setReg r v).pa p = s.pa p := rfl
@[simp] theorem State.thr_setReg (r : Reg) (v : Word) (p : Pa) (t : Thr) : (s.setReg r v).thr p t = s.thr p t := rfl

/-! ## Memory -/

/-- Reading a byte after a write: the byte written, or what was there. -/
theorem State.write_at (a : Nat) (bs : List Byte) (b : Nat) :
    sget noByte (s.write a bs).mem.bytes b =
      if h : a ≤ b ∧ b < a + bs.length then bs[b - a]'(by omega) else sget noByte s.mem.bytes b :=
  sget_putBytes ..

/-- A write keeps the memory's canonical form. -/
theorem State.write_wf (a : Nat) (bs : List Byte) (h : swf noByte s.mem.bytes = true) :
    swf noByte (s.write a bs).mem.bytes = true := swf_putBytes a bs h

end Sys2Proof.Machine
end

