-- ==== Sys2Proof/Laws/Issue.lean ====
section
/-! SUPPORT. What the cycle of an attempt does, once for all instructions: `attempt` of a thread that issues answers its
body's state, bookkept. -/

namespace Sys2Proof.Machine

/-! ## Counting -/

theorem counted_refl (p : Pa) (v : State) : counted p v v := ⟨rfl, fun _ _ => rfl⟩

theorem counted_trans {p : Pa} {a b c : State} (h : counted p a b) (k : counted p b c) : counted p a c := by
  refine ⟨?_, fun o ho => (k.2 o ho).trans (h.2 o ho)⟩
  rw [k.1, h.1]

theorem counted_setReg {p : Pa} (v : State) (r : Reg) (x : Word) (h : counterOf p r.off = true) :
    counted p v (v.setReg r x) := by
  refine ⟨rfl, fun o ho => ?_⟩
  rw [State.setReg_at, if_neg]
  intro h'; subst h'; simp [h] at ho

theorem counted_foldl {α : Type} {p : Pa} (g : State → α → State) (l : List α)
    (h : ∀ s a, counted p s (g s a)) (s : State) : counted p s (l.foldl g s) := by
  induction l generalizing s with
  | nil => exact counted_refl p s
  | cons a r ih => exact counted_trans (h s a) (ih _)

theorem counterOf_iff (p : Pa) (o : Nat) : counterOf p o = true ↔
    let b := 0x403000 + p.val * 0x10000
    o = b + 0x18 ∨ (b + 0x100 ≤ o ∧ o < b + 0x200 ∧ (o - b) % 0x20 = 0x18)
      ∨ (b + 0x200 ≤ o ∧ o < b + 0x268) ∨ (b + 0x400 ≤ o ∧ o < b + 0x800) := by
  simp [counterOf, counterAt, or_assoc, and_assoc]

theorem counter_cycle (p : Pa) : counterOf p (Reg.pa p .ovtCycle).off = true := by
  rw [counterOf_iff]; simp only [Reg.off, PaReg.off]; omega

theorem counter_cnt (p : Pa) (i : Fin 8) : counterOf p (Reg.pa p (.ovtCnt i)).off = true := by
  rw [counterOf_iff]; simp only [Reg.off, PaReg.off]; omega

theorem counter_slot (p : Pa) (c : Fin 13) : counterOf p (Reg.pa p (.ovtSlot c)).off = true := by
  rw [counterOf_iff]; simp only [Reg.off, PaReg.off]; omega

theorem counter_th (p : Pa) (t : Thr) (e : Fin 10) : counterOf p (Reg.pa p (.ovtTh t e)).off = true := by
  rw [counterOf_iff]; simp only [Reg.off, PaReg.off]; omega

theorem counted_event (p : Pa) (e : OvtEvent) (s : State) : counted p s (s.event p e) := by
  unfold State.event
  split
  · refine counted_foldl _ _ (fun s i => ?_) s
    split
    · exact counted_setReg _ _ _ (counter_cnt p i)
    · exact counted_refl p s
  · exact counted_refl p s

theorem counted_bump {p : Pa} (r : PaReg) (h : counterOf p (Reg.pa p r).off = true) (s : State) :
    counted p s (bump s p r) := counted_setReg _ _ _ h

theorem counted_thread (p : Pa) (v s : State) (t : Thr) : counted p s (countThread p v s t) := by
  unfold countThread
  dsimp only
  split
  · exact counted_trans (counted_bump _ (counter_th p t _) s) (counted_event ..)
  · split
    · exact counted_trans (counted_bump _ (counter_th p t _) s) (counted_event ..)
    · split
      · exact counted_trans (counted_bump _ (counter_th p t _) s) (counted_event ..)
      · exact counted_refl p s

theorem counted_busy (p : Pa) (x : PaState) (u : FUnit) (code : Nat) (s : State) :
    counted p s (countBusy p x u code s) := by
  unfold countBusy
  split
  · exact counted_event ..
  · exact counted_refl ..

theorem State.modPa_setReg (s : State) (p : Pa) (f : PaState → PaState) (r : Reg) (v : Word) :
    (s.setReg r v).modPa p f = (s.modPa p f).setReg r v := rfl

/-- The counters of a cycle. -/
theorem counted_events (p : Pa) (c : Fin 13) (v s : State) : counted p s (countEvents p c v s) := by
  unfold countEvents
  dsimp only
  refine counted_trans ?_ (counted_busy ..)
  refine counted_trans ?_ (counted_busy ..)
  refine counted_trans ?_ (counted_busy ..)
  have h : counted p s (((((List.finRange 8).foldl (countThread p v) (bump s p (.ovtSlot c))).event p
      { code := 0x01, amount := 1 }).event p { code := 0x26, amount := (v.pa p).bow.tags.length })) := by
    refine counted_trans ?_ (counted_event ..)
    refine counted_trans ?_ (counted_event ..)
    refine counted_trans (counted_bump _ (counter_slot p c) _) (counted_foldl _ _ (counted_thread p v) _)
  split
  · exact h
  · exact counted_trans h (counted_event ..)

/-- A cycle of a PA: its cycle count, and Overtone's counters. -/
theorem counted_cycle (p : Pa) (c : Fin 13) (s : State) :
    counted p (s.modPa p (cyclePa (c = 0))) (countCycle p c s) := by
  have h0 : ∀ (v : Word) (f : PaState → PaState),
      counted p (s.modPa p f) ((s.setReg (.pa p .ovtCycle) v).modPa p f) := by
    intro v f
    rw [State.modPa_setReg]; exact counted_setReg _ _ v (counter_cycle p)
  unfold countCycle
  dsimp only
  split
  · exact counted_trans (h0 _ _) (counted_events p c s _)
  · exact h0 _ _

theorem counted_issued (p : Pa) (t : Thr) (h : Bool) (s : State) : issuedAs p t s (issued s p t h) := by
  have h1 : counted p (s.modPa p (issuePa t))
      (countCycle p 0 (s.modPa p fun x =>
        { x with cur := t, seeking := false, runLen := if x.cur = t then x.runLen + 1 else 1 })) := by
    have := counted_cycle p 0 (s.modPa p fun x =>
      { x with cur := t, seeking := false, runLen := if x.cur = t then x.runLen + 1 else 1 })
    simpa [State.modPa, State.setPa, State.pa, issuePa] using this
  unfold issued issuedAs
  dsimp only
  split
  · exact counted_trans h1 (counted_trans (counted_bump _ (counter_th p t 0) _) (counted_event ..))
  · exact h1

/-- The attempt of a thread that issues, by what its instruction's body answers. -/
theorem attempt_issues {p : Pa} {t : Thr} {s : State} (body : State → Issue) (h : issues s p t = true) :
    attempt p t body s = match body s with
      | .next s' => issued (s'.modThr p t Thread.advance) p t ((s.thr p t).st = .handler)
      | .jumped s' => issued s' p t ((s.thr p t).st = .handler)
      | .yield s' => (issued (s'.modThr p t Thread.advance) p t ((s.thr p t).st = .handler)).modPa p seek
      | .wait u s' => standAt p t u s'
      | .taken s' => noIssue s' p t id
      | .refuse c d =>
        noIssue (raisePrecise (match d with | some i => poisonReg s p t i | none => s) p t c) p t id := by
  simp only [issues, Bool.and_eq_true, Bool.not_eq_true', decide_eq_true_eq] at h
  obtain ⟨⟨⟨⟨h1, h2⟩, h3⟩, h4⟩, h5⟩ := h
  unfold attempt
  simp only [h1, h2, h3, Bool.not_true, Bool.or_self, Bool.false_eq_true, if_false]
  (rw [if_neg (by omega), if_neg (by omega)]) <;> rfl

/-- An instruction that issues in sequence with effect `v`. -/
theorem attempt_next {p : Pa} {t : Thr} {s v : State} {body : State → Issue} (h : issues s p t = true)
    (hb : body s = .next v) : ranAs p t v (attempt p t body s) := by
  rw [attempt_issues body h, hb]; exact counted_issued ..

/-- An instruction that issues with a pc of its own. -/
theorem attempt_jumped {p : Pa} {t : Thr} {s v : State} {body : State → Issue} (h : issues s p t = true)
    (hb : body s = .jumped v) : issuedAs p t v (attempt p t body s) := by
  rw [attempt_issues body h, hb]; exact counted_issued ..

/-- A row whose word spells it is the attempt of its body. -/
theorem attemptOf_spells {g o : Nat} {p : Pa} {t : Thr} {w : IWord} {body : State → Issue} {s : State}
    (h : spells w g o = true) (hr : reservedWord s w = false) : attemptOf g o p t w body s = attempt p t body s := by
  simp only [attemptOf, h, if_true]
  unfold attempt
  simp [hr]

/-- The meaning of a row whose word spells it, where its body answers in sequence. -/
theorem attemptOf_next {g o : Nat} {p : Pa} {t : Thr} {w : IWord} {s v : State} {body : State → Issue}
    (hw : spells w g o = true) (hr : reservedWord s w = false) (h : issues s p t = true) (hb : body s = .next v) :
    ranAs p t v (attemptOf g o p t w body s) := by
  rw [attemptOf_spells hw hr]; exact attempt_next h hb

theorem attemptOf_jumped {g o : Nat} {p : Pa} {t : Thr} {w : IWord} {s v : State} {body : State → Issue}
    (hw : spells w g o = true) (hr : reservedWord s w = false) (h : issues s p t = true) (hb : body s = .jumped v) :
    issuedAs p t v (attemptOf g o p t w body s) := by
  rw [attemptOf_spells hw hr]; exact attempt_jumped h hb

/-! ## What an issue leaves alone -/

theorem ready_iff {g o : Nat} {p : Pa} {t : Thr} {w : IWord} {rs : List Res} {s : State} : ready g o p t w rs s = true ↔
    spells w g o = true ∧ issues s p t = true ∧ reservedWord s w = false ∧ meets s p t [.regs rs] = true := by
  simp [ready, and_assoc]

theorem unmet_meets {p : Pa} {t : Thr} {l : List Need} {s : State} (h : meets s p t l = true) : unmet s p t l = [] := by
  simp only [meets, List.all_eq_true, Option.isNone_iff_eq_none] at h
  simp only [unmet, List.filter_eq_nil_iff]
  intro n hn; simp [h n hn]

/-- An instruction none of whose needs is unmet goes on. -/
theorem unlessWaits_meets {p : Pa} {t : Thr} {l : List Need} {s : State} {k : Issue} (h : meets s p t l = true) :
    unlessWaits s p t l k = k := by
  simp [unlessWaits, unmet_meets h]

theorem needRegs_ready {p : Pa} {t : Thr} {rs : List Res} {s : State} {k : Issue} (h : meets s p t [.regs rs] = true) :
    needRegs p t rs s k = k := unlessWaits_meets h

theorem thr_modPa_ne (s : State) {p : Pa} (f : PaState → PaState) {q : Pa} (t : Thr) (h : q ≠ p) :
    (s.modPa p f).thr q t = s.thr q t := by
  simp [State.thr, State.pa_modPa_ne _ _ _ h]

section
variable {p : Pa} {t : Thr} {v u : State}
theorem counted_pending (h : counted p v u) : u.pending = v.pending := by rw [h.1]
theorem counted_now (h : counted p v u) : u.now = v.now := by rw [h.1]
theorem counted_freeCtr (h : counted p v u) : u.freeCtr = v.freeCtr := by rw [h.1]
theorem counted_outbox (h : counted p v u) : u.outbox = v.outbox := by rw [h.1]
theorem counted_mem (h : counted p v u) : u.mem = v.mem := by rw [h.1]
theorem counted_pas (h : counted p v u) : u.pas = v.pas := by rw [h.1]
theorem counted_clk (h : counted p v u) : u.clk = v.clk := by rw [h.1]
theorem counted_rp (h : counted p v u) : u.rp = v.rp := by rw [h.1]
theorem counted_net (h : counted p v u) : u.net = v.net := by rw [h.1]
theorem counted_st (h : counted p v u) : u.st = v.st := by rw [h.1]
theorem counted_host (h : counted p v u) : u.host = v.host := by rw [h.1]
theorem counted_brg (h : counted p v u) : u.brg = v.brg := by rw [h.1]
theorem counted_spt (h : counted p v u) : u.spt = v.spt := by rw [h.1]
theorem counted_drone (h : counted p v u) : u.drone = v.drone := by rw [h.1]
theorem counted_tpc (h : counted p v u) : u.tpc = v.tpc := by rw [h.1]
theorem counted_capo (h : counted p v u) : u.capo = v.capo := by rw [h.1]
theorem counted_sb (h : counted p v u) : u.sb = v.sb := by rw [h.1]
theorem counted_ovt (h : counted p v u) : u.ovt = v.ovt := by rw [h.1]

theorem issuedAs_pa_same (h : issuedAs p t v u) : u.pa p = issuePa t (v.pa p) := by
  have h1 : u.pa p = (v.modPa p (issuePa t)).pa p := by unfold State.pa; rw [counted_pas h]
  rw [h1, State.pa_modPa_same]

theorem issuedAs_pa_ne (h : issuedAs p t v u) {q : Pa} (hq : q ≠ p) : u.pa q = v.pa q := by
  have h1 : u.pa q = (v.modPa p (issuePa t)).pa q := by unfold State.pa; rw [counted_pas h]
  rw [h1, State.pa_modPa_ne _ _ _ hq]

theorem issuedAs_thr (h : issuedAs p t v u) (q : Pa) (r : Thr) : u.thr q r = v.thr q r := by
  by_cases hq : q = p
  · subst hq; simp only [State.thr, issuedAs_pa_same h]; rfl
  · simp only [State.thr, issuedAs_pa_ne h hq]

theorem issuedAs_mem (h : issuedAs p t v u) : u.mem = v.mem := by rw [counted_mem (p := p) h]; rfl
theorem issuedAs_outbox (h : issuedAs p t v u) : u.outbox = v.outbox := by rw [counted_outbox (p := p) h]; rfl

theorem ranAs_thr (h : ranAs p t v u) : u.thr p t = (v.thr p t).advance := by
  rw [issuedAs_thr h, State.thr_modThr_same]

theorem ranAs_thr_ne (h : ranAs p t v u) {r : Thr} (hr : r ≠ t) : u.thr p r = v.thr p r := by
  rw [issuedAs_thr h, State.thr_modThr_ne _ _ _ _ hr]

theorem ranAs_pa_ne (h : ranAs p t v u) {q : Pa} (hq : q ≠ p) : u.pa q = v.pa q := by
  rw [issuedAs_pa_ne h hq, State.pa_modThr_ne _ _ _ _ hq]

theorem ranAs_mem (h : ranAs p t v u) : u.mem = v.mem := by
  rw [issuedAs_mem (p := p) (t := t) (v := v.modThr p t Thread.advance) h]; rfl
theorem ranAs_outbox (h : ranAs p t v u) : u.outbox = v.outbox := by
  rw [issuedAs_outbox (p := p) (t := t) (v := v.modThr p t Thread.advance) h]; rfl

end

end Sys2Proof.Machine
end

