-- ==== Sys2Proof/Laws/Track.lean ====
section
/-! SUPPORT. The fields of a descriptor that an operation forms (Table 2.5). -/

namespace Sys2Proof.Machine

/-- The fields of a result stand in their bits. -/
structure Tracked.Fits (r : Tracked) : Prop where
  lgn : r.lgn < 16
  k : 1 ≤ r.k ∧ r.k ≤ 64
  level : r.level < 64
  scheme : r.scheme < 8
  scale : r.scale < 4096
  noise : r.noise < 65536

theorem field_ofNat {n lo len : Nat} (x : Nat) (h : lo + len ≤ n) :
    (field (BitVec.ofNat n x) lo len).toNat = x / 2 ^ lo % 2 ^ len := by
  simp only [field, BitVec.extractLsb'_toNat, BitVec.toNat_ofNat, Nat.shiftRight_eq_div_pow]
  have h1 : x % 2 ^ n / 2 ^ lo = x / 2 ^ lo % 2 ^ (n - lo) := by
    rw [← Nat.mod_mul_right_div_self, ← Nat.pow_add]; congr 3; omega
  rw [h1, Nat.mod_mod_of_dvd]
  exact Nat.pow_dvd_pow 2 (by omega)

section
variable {r : Tracked} (h : r.Fits) (b : Nat)
include h

theorem dLgn_pack : dLgn (r.pack b) = r.lgn := by
  obtain ⟨h1, h2, h3, h4, h5, h6⟩ := h
  have := r.tag.isLt
  rw [dLgn, Tracked.pack, field_ofNat _ (by omega)]
  split <;> split <;> omega

theorem dLimbs_pack : dLimbs (r.pack b) = r.k := by
  obtain ⟨h1, h2, h3, h4, h5, h6⟩ := h
  have := r.tag.isLt
  rw [dLimbs, Tracked.pack, field_ofNat _ (by omega)]
  split <;> split <;> omega

theorem dLevel_pack : dLevel (r.pack b) = r.level := by
  obtain ⟨h1, h2, h3, h4, h5, h6⟩ := h
  have := r.tag.isLt
  rw [dLevel, Tracked.pack, field_ofNat _ (by omega)]
  split <;> split <;> omega

theorem dScheme_pack : dScheme (r.pack b) = r.scheme := by
  obtain ⟨h1, h2, h3, h4, h5, h6⟩ := h
  have := r.tag.isLt
  rw [dScheme, Tracked.pack, field_ofNat _ (by omega)]
  split <;> split <;> omega

theorem dTag_pack : dTag (r.pack b) = r.tag := by
  obtain ⟨h1, h2, h3, h4, h5, h6⟩ := h
  have := r.tag.isLt
  apply BitVec.eq_of_toNat_eq
  rw [dTag, Tracked.pack, field_ofNat _ (by omega)]
  split <;> split <;> omega

theorem dScale_pack : dScale (r.pack b) = r.scale := by
  obtain ⟨h1, h2, h3, h4, h5, h6⟩ := h
  have := r.tag.isLt
  rw [dScale, Tracked.pack, field_ofNat _ (by omega)]
  split <;> split <;> omega

theorem dNoise_pack : dNoise (r.pack b) = r.noise := by
  obtain ⟨h1, h2, h3, h4, h5, h6⟩ := h
  have := r.tag.isLt
  rw [dNoise, Tracked.pack, field_ofNat _ (by omega)]
  split <;> split <;> omega

/-- The footprint of a result depends on neither its scale nor its noise. -/
theorem objBytes_pack (s : State) : objBytes s (r.pack b) =
    if r.tag = 0 then r.k * 2 ^ (12 + r.lgn) * 8
    else if r.scheme = 3 then r.k * (2 ^ (12 + r.lgn) + 512) * 8
    else if r.scheme = 4 then 2 * gswDigits s * 2 * r.k * 2 ^ (12 + r.lgn) * 8
    else 2 * r.k * 2 ^ (12 + r.lgn) * 8 := by
  simp only [objBytes, dN, dPlain, dLgn_pack h, dLimbs_pack h, dScheme_pack h, dTag_pack h, decide_eq_true_eq]

end

end Sys2Proof.Machine
end

