-- ==== Sys2Proof/Tests/Slice0.lean ====
section
/-! SUPPORT. The tests: what the well-formedness check refuses, results with numbers of the spec, and for every statement
with hypotheses a state and operands that meet them. -/

namespace Sys2Proof.Tests

open Sys2Proof Sys2Proof.Machine

set_option Elab.async false

/-! ## Small states and words -/

/-- Powered, out of reset, every PLL locked. -/
def live : State := { State.reset with clk := { live := BitVec.allOnes 27, powered := true } }

/-- PA 0 is online and its thread 0 runs at word 5, with what `f` changes of it and `g` of its PA. -/
def runBy (f : Thread → Thread) (g : PaState → PaState) : State :=
  live.modPa 0 fun x => g ({ x with online := true }.modThr 0 fun y => f { y with st := .run, pc := 5 })

def run (f : Thread → Thread) : State := runBy f id

/-- The state in which an issued instruction leaves a machine. -/
def after (o : Host.Outcome State Fault Refusal) : State :=
  match o with
  | .next u => u
  | _ => State.reset

/-- A word of group `g` and op `o` in format `f`, with its other bits. -/
def word (g o f rest : Nat) : IWord := BitVec.ofNat 128 (o + g * 2 ^ 8 + f * 2 ^ 12 + rest)

/-- Format 0. -/
def w0 (g o rd rs1 rs2 : Nat) : IWord := word g o 0 (rd * 2 ^ 16 + rs1 * 2 ^ 21 + rs2 * 2 ^ 26)

/-- Format 1. -/
def w1 (g o rd rs1 imm : Nat) : IWord := word g o 1 (rd * 2 ^ 16 + rs1 * 2 ^ 21 + imm * 2 ^ 64)

/-- Format 4. -/
def w4 (o rd ab size rc off : Nat) : IWord :=
  word 3 o 4 (rd * 2 ^ 16 + ab * 2 ^ 21 + size * 2 ^ 25 + rc * 2 ^ 29 + off * 2 ^ 64)

/-- Format 5. -/
def w5 (o arg : Nat) : IWord := word 5 o 5 (arg * 2 ^ 16)

/-- A protected datagram of port A's session 7, to its address 5 and the reset UDP port. -/
def hdr : GHdr :=
  { udp := 47240, outerOk := true, port := 0, macsecOk := false, vlan := none, v6 := false, fragment := false, target := 5,
    srcMac := 1, srcIp := 2, sid := 7, seq := 5, authOk := true, bodyOk := true, fence := false, reqId := 9 }

def packet (dst src : BitVec 8) (addr : Word) (len : BitVec 32) (data : List Byte) : Packet :=
  { dst := dst, src := src, ttl := 8, tag := 1, addr := addr, len := len, status := 0, arg := 0, data := data }

/-! ## Well-formed commands -/

theorem test_word_of_its_row : (Instr.add 0 0 (w0 1 0 1 2 3)).wf = true := by decide +kernel
/-- A word of another op, of another group, and one with ext set. -/
theorem test_word_of_another_row :
    (Instr.add 0 0 (w0 1 1 1 2 3)).wf = false ∧ (Instr.add 0 0 (w0 2 0 1 2 3)).wf = false
      ∧ (Instr.add 0 0 (w0 1 0 1 2 3 ||| BitVec.ofNat 128 (2 ^ 15))).wf = false := by decide +kernel
/-- The rows of SCVT are told apart by mode. -/
theorem test_scvt_mode : (Instr.slotin 0 0 (word 10 8 7 0)).wf = true ∧ (Instr.coefout 0 0 (word 10 8 7 0)).wf = false := by
  decide +kernel
theorem test_hello_lengths :
    (Instr.hello hdr.toDatagram 0 0 (List.replicate 32 1) (List.replicate 32 2) (List.replicate 1184 3)).wf = true
      ∧ (Instr.hello hdr.toDatagram 0 0 (List.replicate 31 1) (List.replicate 32 2) (List.replicate 1184 3)).wf = false
      ∧ (Instr.hello hdr.toDatagram 0 0 (List.replicate 32 1) (List.replicate 33 2) (List.replicate 1184 3)).wf = false
      ∧ (Instr.hello hdr.toDatagram 0 0 (List.replicate 32 1) (List.replicate 32 2) (List.replicate 1183 3)).wf = false := by
  decide +kernel
theorem test_finish_lengths :
    (Instr.finish hdr.toDatagram 1 true (List.replicate 32 1) (List.replicate 1952 2) true).wf = true
      ∧ (Instr.finish hdr.toDatagram 1 true (List.replicate 31 1) (List.replicate 1952 2) true).wf = false
      ∧ (Instr.finish hdr.toDatagram 1 true (List.replicate 32 1) (List.replicate 1951 2) true).wf = false := by decide +kernel
theorem test_register_list_lengths :
    (Instr.regRead hdr [0]).wf = true ∧ (Instr.regRead hdr []).wf = false
      ∧ (Instr.regRead hdr (List.replicate 64 0)).wf = true ∧ (Instr.regRead hdr (List.replicate 65 0)).wf = false
      ∧ (Instr.regWrite hdr []).wf = false ∧ (Instr.regWrite hdr (List.replicate 65 (0, 0))).wf = false := by
  decide +kernel
/-- A seq of 2⁴⁰. -/
theorem test_seq_range :
    (Instr.ping { hdr with seq := 2 ^ 40 - 1 }).wf = true ∧ (Instr.ping { hdr with seq := 2 ^ 40 }).wf = false := by
  decide +kernel
theorem test_data_length :
    (Instr.memWrite hdr 0 0 (List.replicate 8192 1)).wf = true ∧ (Instr.memWrite hdr 0 0 (List.replicate 8193 1)).wf = false
      ∧ (Instr.keyWrite hdr 0 0 (List.replicate 8193 1)).wf = false
      ∧ (Instr.answerData hdr 0 0 (List.replicate 8193 1)).wf = false := by decide +kernel
theorem test_attest_nonce :
    (Instr.attest hdr (List.replicate 32 0)).wf = true ∧ (Instr.attest hdr (List.replicate 33 0)).wf = false := by
  decide +kernel
theorem test_macsec_lengths :
    (Instr.macsecKey hdr 0 0 0 (List.replicate 32 0) 0 (List.replicate 12 0)).wf = true
      ∧ (Instr.macsecKey hdr 0 0 0 (List.replicate 16 0) 0 (List.replicate 12 0)).wf = false
      ∧ (Instr.macsecKey hdr 0 0 0 (List.replicate 32 0) 0 []).wf = false := by decide +kernel
theorem test_packet_length :
    (Instr.wr 0 (packet 1 2 0 8 (List.replicate 4096 1))).wf = true
      ∧ (Instr.wr 0 (packet 1 2 0 8 (List.replicate 4097 1))).wf = false := by decide +kernel
theorem test_block_length :
    (Instr.reductionBlock 0 ⟨0, 0, false, 0, List.replicate 512 0, 0⟩ false).wf = true
      ∧ (Instr.reductionBlock 0 ⟨0, 0, false, 0, List.replicate 511 0, 0⟩ false).wf = false := by decide +kernel
theorem test_access_length :
    (Instr.remoteSpmAccess (.threads 0) 1 0 (.read 1) [] {}).wf = true ∧ (Instr.remoteSpmAccess (.threads 0) 1 0 (.read 0) [] {}).wf = false
      ∧ (Instr.sliceRequest (.threads 0) .scratch 0 (.read 8193) ⟨0, none⟩).wf = false
      ∧ (Instr.farTierAccess (.threads 0) 0 (.write []) false).wf = false := by decide +kernel
theorem test_control_address :
    (Instr.registerWrite 0x3F0000000000 0 0).wf = true ∧ (Instr.registerWrite 0x3F0000000004 0 0).wf = false
      ∧ (Instr.registerWrite 0x3F0002000000 0 0).wf = false ∧ (Instr.rwpWriteComplete 0x3EFFFFFFFFF8).wf = false := by
  decide +kernel

/-! ## Time and reset -/

theorem witness_EmptyQueueTicks : live.pending = [] ∧ counterOf 0 0 = false := by decide +kernel
/-- A tick counts a PA cycle of 500 ps in a PA whose clock runs. -/
theorem test_tick : (after (step (run id))).now = 4 ∧ ((after (step (run id))).pa 0).cycle = 1
    ∧ ((after (step (run id))).pa 1).cycle = 0 := by decide +kernel
theorem witness_StepKeepsMemoryCanonical :
    Memory.wf (run id).mem.bytes = true ∧ step (run id) = .next (after (step (run id))) := ⟨by decide +kernel, rfl⟩

/-! ## Scalar instructions -/

def aluOps : List Nat := [0, 1, 2, 3, 4, 5, 6, 7, 8, 9, 10, 11, 12, 13, 0x10, 0x11, 0x12, 0x14, 0x15, 0x16, 0x17]

/-- Registers 2 and 3 hold the operands. -/
def operands (x y : Word) : State := run fun z => { z with s := (z.s.set 2 x).set 3 y }

/-- Registers and an immediate; and s0 as the destination. -/
theorem witness_ScalarResults : ∀ o ∈ aluOps, ready 1 o 0 0 (w0 1 o 1 2 3) (aluRegs (w0 1 o 1 2 3)) (run id) = true
    ∧ ready 1 o 0 0 (w1 1 o 0 2 7) (aluRegs (w1 1 o 0 2 7)) (run id) = true
    ∧ formOk [0, 1] (w0 1 o 1 2 3) = true ∧ formOk [0, 1] (w1 1 o 0 2 7) = true := by decide +kernel
theorem witness_ScalarResults_divide : ready 1 0x14 0 0 (w0 1 0x14 1 2 3) (aluRegs (w0 1 0x14 1 2 3)) (run id) = true
    ∧ ((run id).pa 0).divTo ≤ ((run id).pa 0).cycle := by decide +kernel
/-- A fmt that is not listed, a reserved bit, and for AMOV and AGET a second source. -/
theorem witness_ScalarFormRefusals :
    (∀ o ∈ aluOps, let w := word 1 o 2 0; ready 1 o 0 0 w [] (run id) = true ∧ formOk [0, 1] w = false)
    ∧ (let w := word 1 0 0 (2 ^ 40); ready 1 0 0 0 w [] (run id) = true ∧ formOk [0, 1] w = false)
    ∧ (let w := word 2 0 7 0; ready 2 0 0 0 w [] (run id) = true ∧ formOk [0, 1] w = false)
    ∧ (∀ o ∈ [1, 2], (let w := word 2 o 1 0; ready 2 o 0 0 w [] (run id) = true ∧ formOk [0] w = false)
      ∧ (let w := w0 2 o 1 2 3; ready 2 o 0 0 w [] (run id) = true ∧ wRs2 w ≠ 0)) := by decide +kernel
theorem test_immediate_form_of_amov_is_illegal :
    ((after (exec (.amov 0 0 (word 2 1 1 0)) (run id))).thr 0 0).exc.code = 1 := by decide +kernel
theorem witness_ScalarFrame : exec (.add 0 0 (w0 1 0 1 2 3)) (run id) = .next (after (exec (.add 0 0 (w0 1 0 1 2 3)) (run id))) :=
  rfl

/-- Register 1 after the row `i` of op `o` on operands `x` and `y` (Tables 4.10 and 4.11). -/
def aluRun (i : Pa → Thr → IWord → Instr) (o : Nat) (x y : Word) : Word :=
  ((after (exec (i 0 0 (w0 1 o 1 2 3)) (operands x y))).thr 0 0).rs 1

theorem test_add_wraps : aluRun .add 0 0xFFFFFFFFFFFFFFFF 2 = 1 := by decide +kernel
theorem test_sub_wraps : aluRun .sub 1 1 2 = 0xFFFFFFFFFFFFFFFF := by decide +kernel
theorem test_shift_count_is_mod_64 : aluRun .shl 5 1 65 = 2 := by decide +kernel
theorem test_sra_signed : aluRun .sra 7 0x8000000000000000 63 = 0xFFFFFFFFFFFFFFFF := by decide +kernel
theorem test_slt_signed : aluRun .slt 8 0xFFFFFFFFFFFFFFFF 0 = 1 ∧ aluRun .sltu 9 0xFFFFFFFFFFFFFFFF 0 = 0 := by decide +kernel
theorem test_min_max : aluRun .minS 0xA 0xFFFFFFFFFFFFFFFF 0 = 0xFFFFFFFFFFFFFFFF ∧ aluRun .maxu 0xD 0xFFFFFFFFFFFFFFFF 0 = 0xFFFFFFFFFFFFFFFF := by
  decide +kernel
theorem test_mulh : aluRun .mulh 0x12 0xFFFFFFFFFFFFFFFF 0xFFFFFFFFFFFFFFFF = 0
    ∧ aluRun .mulhu 0x11 0xFFFFFFFFFFFFFFFF 0xFFFFFFFFFFFFFFFF = 0xFFFFFFFFFFFFFFFE := by decide +kernel
/-- Division by zero, and the most negative number by -1. -/
theorem test_div_corners : aluRun .divu 0x14 5 0 = 0xFFFFFFFFFFFFFFFF ∧ aluRun .rem 0x17 5 0 = 5
    ∧ aluRun .divS 0x16 0x8000000000000000 0xFFFFFFFFFFFFFFFF = 0x8000000000000000
    ∧ aluRun .rem 0x17 0x8000000000000000 0xFFFFFFFFFFFFFFFF = 0 := by decide +kernel
/-- Quotients truncate toward zero. -/
theorem test_div_truncates : aluRun .divS 0x16 0xFFFFFFFFFFFFFFF9 2 = 0xFFFFFFFFFFFFFFFD
    ∧ aluRun .rem 0x17 0xFFFFFFFFFFFFFFF9 2 = 0xFFFFFFFFFFFFFFFF := by decide +kernel

/-- Two registers, and an immediate. -/
theorem witness_AddressRegisterResults :
    (let w := w0 2 0 15 14 3;
      ready 2 0 0 0 w ([.a (fa (wRd w)), .a (fa (wRs1 w))] ++ if wFmt w = 0 then [.s (fs (wRs2 w))] else []) (run id) = true
      ∧ formOk [0, 1] w = true ∧ wRd w < 16 ∧ wRs1 w < 16)
    ∧ (let w := w1 2 0 0 1 8;
      ready 2 0 0 0 w ([.a (fa (wRd w)), .a (fa (wRs1 w))] ++ if wFmt w = 0 then [.s (fs (wRs2 w))] else []) (run id) = true
      ∧ formOk [0, 1] w = true)
    ∧ (let w := w0 2 1 15 31 0;
      ready 2 1 0 0 w [.a (fa (wRd w)), .s (fs (wRs1 w))] (run id) = true ∧ formOk [0] w = true ∧ wRs2 w = 0 ∧ wRd w < 16)
    ∧ (let w := w0 2 2 31 15 0;
      ready 2 2 0 0 w [.s (fs (wRd w)), .a (fa (wRs1 w))] (run id) = true ∧ formOk [0] w = true ∧ wRs2 w = 0 ∧ wRs1 w < 16) := by
  decide +kernel

/-! ## Control flow -/

/-- Format 2: condition, rs1, rs2 and target. -/
def wB (c x y target : Nat) : IWord := word 0 2 2 (c * 2 ^ 16 + x * 2 ^ 21 + y * 2 ^ 26 + target * 2 ^ 64)

/-- A branch taken and one not taken; jumps to the last word; s0 as link register. -/
theorem witness_BranchesAndJumps :
    (∀ c ∈ [0, 1, 5], let w := wB c 1 2 16383;
      ready 0 2 0 0 w [.s (fs (wRs1 w)), .s (fs (wRs2 w))] (run id) = true ∧ formOk [2] w = true ∧ wCond w ≤ 5)
    ∧ (∀ rd ∈ [0, 1], let w := w1 0 3 rd 0 16383;
      ready 0 3 0 0 w [.s (fs (wRd w))] (run id) = true ∧ formOk [1] w = true ∧ (wImm64 w).toNat < 16384)
    ∧ (∀ rd ∈ [0, 2], let w := w0 0 4 rd 2 0;
      ready 0 4 0 0 w [.s (fs (wRd w)), .s (fs (wRs1 w))] (operands 16383 0) = true ∧ formOk [0] w = true
      ∧ (((operands 16383 0).thr 0 0).rs (wRs1 w)).toNat < 16384) := by decide +kernel
theorem test_jr_links_after_reading : ((after (exec (.jr 0 0 (w0 0 4 2 2 0)) (operands 100 0))).thr 0 0).pc = 100
    ∧ ((after (exec (.jr 0 0 (w0 0 4 2 2 0)) (operands 100 0))).thr 0 0).rs 2 = 6 := by decide +kernel

/-- The LOOP word of chapter 4's example: rd 4, end 5, count register. -/
theorem test_loop_example_word : wRd (0x00000000000001050000000000043008 : IWord) = 4
    ∧ spells (0x00000000000001050000000000043008 : IWord) 0 8 = true
    ∧ wTarget (0x00000000000001050000000000043008 : IWord) = 0x105 := by decide +kernel

/-- Format 3: register, immediate select, end word and count. -/
def wL (r src target n : Nat) : IWord := word 0 8 3 (r * 2 ^ 16 + src * 2 ^ 21 + target * 2 ^ 64 + n * 2 ^ 96)

/-- Nested in a loop that ends at the same word, three deep. -/
def nested : State := run fun y => { y with loops := List.replicate 3 ⟨4, 9, 2, 0⟩ }

theorem witness_LoopEntry : ∀ e ∈ [(wL 0 1 9 0xFFFFFFFF, nested), (wL 0 1 9 0, nested), (wL 2 0 6 0, run id),
      (wL 2 0 16383 0, operands 1 0)],
    let w := e.1;
    let y := e.2.thr 0 0;
    ready 0 8 0 0 w (if wLoopSrc w then [] else [.s (fs (wRd w))]) e.2 = true ∧ formOk [3] w = true
      ∧ (if wLoopSrc w then wLoopImm w else (y.rs (wRd w)).toNat) ≤ 0xFFFFFFFF ∧ y.st = .run ∧ y.pc < wTarget w
      ∧ y.loops.length < 4 ∧ (y.loops.all fun l => wTarget w ≤ l.last) = true := by decide +kernel
/-- A register count beyond 32 bits, an end at pc, a fifth loop, and an end beyond the innermost loop's. -/
theorem witness_LoopEntry_refused :
    (let w := wL 2 0 9 0; ready 0 8 0 0 w [.s (fs (wRd w))] (operands 0x100000000 0) = true ∧ formOk [3] w = true
      ∧ 0xFFFFFFFF < (((operands 0x100000000 0).thr 0 0).rs (wRd w)).toNat)
    ∧ (let w := wL 0 1 5 1; ready 0 8 0 0 w [] (run id) = true ∧ formOk [3] w = true ∧ wTarget w ≤ ((run id).thr 0 0).pc)
    ∧ (let s := run fun y => { y with loops := List.replicate 4 ⟨4, 9, 2, 0⟩
       }; ready 0 8 0 0 (wL 0 1 9 1) [] s = true ∧ 4 ≤ (s.thr 0 0).loops.length)
    ∧ (ready 0 8 0 0 (wL 0 1 10 1) [] nested = true ∧ ∃ l, (nested.thr 0 0).loops.head? = some l ∧ l.last < wTarget (wL 0 1 10 1)) :=
  ⟨by decide +kernel, by decide +kernel, by decide +kernel, by decide +kernel, ⟨4, 9, 2, 0⟩, by decide +kernel, by decide +kernel⟩
theorem test_loop_counts_zero_skips : ((after (exec (.loop 0 0 (wL 0 1 9 0)) (run id))).thr 0 0).pc = 10 := by decide +kernel

/-- At the end word with a count left and with the last, off it, and in a handler. -/
theorem witness_LoopStep : ∀ e ∈ [((⟨4, 5, 2, 0⟩ : Loop), ThState.run), (⟨4, 5, 1, 0⟩, .run), (⟨4, 6, 1, 0⟩, .run),
      (⟨4, 5, 2, 0⟩, .handler)],
    (({ st := e.2, pc := 5, loops := [e.1] } : Thread).loops = e.1 :: []) := by decide +kernel

/-- Thread 1 of PA 0 idle; threads 0 and 2 run. -/
def twoRun : State := (run id).modThr 0 2 fun y => { y with st := .run, pc := 7 }

theorem witness_ThreadCommands :
    ready 0 0 0 0 (w0 0 0 0 0 0) [] (run id) = true ∧ formOk [0] (w0 0 0 0 0 0) = true
    ∧ ready 0 0x12 0 0 (w0 0 0x12 0 0 0) [] twoRun = true ∧ formOk [0] (w0 0 0x12 0 0 0) = true
    ∧ (let w := w1 0 0x11 0 2 16383;
      ready 0 0x11 0 0 w [.s (fs (wRs1 w))] (operands 1 0) = true ∧ formOk [1] w = true
      ∧ (((operands 1 0).thr 0 0).rs (wRs1 w)).toNat = (1 : Thr).val ∧ ((operands 1 0).thr 0 1).st = .idle)
    ∧ ready 0 0x10 0 0 (w0 0 0x10 0 0 0) [] (run id) = true ∧ formOk [0] (w0 0 0x10 0 0 0) = true := by decide +kernel
theorem test_yield_moves_issue : holder (after (exec (.yield 0 0 (w0 0 0x12 0 0 0)) twoRun)) 0 = some 2 := by decide +kernel

/-- A thread that issued TEND; a PA whose thread has issued for 256 cycles, with and without another that is ready. -/
theorem witness_ThreadEndAndQuantum :
    endReady ((run fun y => { y with ending := true }).pa 0) 0 = true
    ∧ 256 ≤ ((twoRun.modPa 0 fun x => { x with runLen := 256 }).pa 0).runLen
    ∧ nextReady (twoRun.modPa 0 fun x => { x with runLen := 256 }) 0 = some 2
    ∧ otherReady ((run id).modPa 0 fun x => { x with runLen := 256 }) 0 = false := by decide +kernel

/-- In a handler, with the exception pc at a loop's end. -/
def handling : State := run fun y => { y with st := .handler, exc := { epc := 9 }, loops := [⟨4, 9, 2, 0⟩], held := [3] }

theorem witness_HandlerReturns : ready 0 0x18 0 0 (w0 0 0x18 0 0 0) [] handling = true ∧ formOk [0] (w0 0 0x18 0 0 0) = true
    ∧ ready 0 0x19 0 0 (w0 0 0x19 0 0 0) [] handling = true ∧ formOk [0] (w0 0 0x19 0 0 0) = true
    ∧ (handling.thr 0 0).st = .handler := by decide +kernel
theorem test_eret_at_a_loop_end : ((after (exec (.eret 0 0 (w0 0 0x18 0 0 0)) handling)).thr 0 0).pc = 9
    ∧ ((after (exec (.eretn 0 0 (w0 0 0x19 0 0 0)) handling)).thr 0 0).pc = 4 := by decide +kernel

/-- Every selector's word reads at its number. -/
theorem witness_SpecialReads : ∀ k ∈ [0, 1, 2, 3, 4, 5, 6, 8, 9, 10, 11, 12, 13, 14, 15, 16, 17, 7, 18],
    let w := w1 0 0x20 1 0 k;
    ready 0 0x20 0 0 w [.s (fs (wRd w))] (run id) = true ∧ formOk [1] w = true ∧ (wImm64 w).toNat = k := by decide +kernel
theorem test_srd_exception_word :
    ((after (exec (.srd 0 0 (w1 0 0x20 1 0 4)) (run fun y => { y with exc := { code := 0x15, deferred := true } }))).thr 0 0).rs 1
      = excWord { code := 0x15, deferred := true } := by decide +kernel

/-! ## Descriptors, handles, queues and masks -/

/-- A descriptor: lgn 0, with limbs, level, scheme, form, tag, scale and noise. -/
def desc (base k level scheme : Nat) (eval : Bool) (tag : BitVec 48) (scale noise : Nat) : Desc :=
  ({ lgn := 0, k := k, level := level, scheme := scheme, eval := eval, tag := tag, scale := scale, noise := noise,
     unreliable := false } : Tracked).pack base

/-- The moduli of chapter 2's example: three limbs of 60, 50 and 50 bits, one special limb; a key, a channel and a
combining queue. -/
def prog (f : Thread → Thread) : State :=
  let s := run f
  { s with
    rp := { s.rp with
      modcfg := 0x010103
      modTab := [(2 ^ 60 - 2 ^ 14 + 1, 3, 17), (2 ^ 50 - 2 ^ 14 + 1, 3, 17), (2 ^ 50 - 2 ^ 15 + 1, 3, 17), (2 ^ 60 - 2 ^ 15 + 1, 3, 17)]
      keys := [{ kind := 0, seeded := false, lgn := 0, dnum := 1, limbs := 3, special := 1, lweN := 0, galois := 0, tagIn := 1,
                 tagOut := 1, knoise := 0, seed := [], base := 0x10000000 }] }
    net := { s.net with
      chans := [{ multicast := false, yx := false, drop := false, spa := 0, sthr := 0, rthr := 0, rlog := 12, roff := 0, maxp := 512,
                  rmask := 0 }]
      cqs := [{ op := 0, mi := 0, words := 8, hpa := 0, hthr := 0, roff := 0, cnt := 1 }] } }

/-- c1 holds a ciphertext in HBM of level 2, a1 the base 0x20000, and handle and queue register 1 are valid. -/
def ct : State := prog fun y =>
  { y with c := y.c.set 1 (desc 0x10000 3 2 0 true 5 0x320 0x1600), a := y.a.set 1 0x20000,
           k := y.k.set 1 (some 0), q := y.q.set 1 (some 0), m := y.m.set 1 5, s := y.s.set 2 9 }

theorem witness_HandleMoves_descriptors :
    (let w := w0 4 0 15 1 0;
      ready 4 0 0 0 w [.c (fa (wRd w)), .c (fa (wRs1 w))] ct = true ∧ formOk [0] w = true ∧ wRd w < 16 ∧ wRs1 w < 16
      ∧ malformed ct ((ct.thr 0 0).rc (wRs1 w)) = false ∧ dPoisoned ((ct.thr 0 0).rc (wRs1 w)) = false)
    ∧ (∀ k ∈ [0, 9], let w := w1 4 1 2 1 k;
      ready 4 1 0 0 w [.s (fs (wRd w)), .c (fa (wRs1 w))] ct = true ∧ formOk [1] w = true ∧ wRs1 w < 16
      ∧ (cgetField ((ct.thr 0 0).rc (wRs1 w)) (wImm64 w).toNat).isSome = true)
    ∧ (let w := w0 4 2 1 1 0;
      ready 4 2 0 0 w [.c (fa (wRd w)), .a (fa (wRs1 w))] ct = true ∧ formOk [0] w = true
      ∧ (((ct.thr 0 0).ra (wRs1 w)).setWidth 48).toNat % 4096 = 0
      ∧ populated ct (((ct.thr 0 0).ra (wRs1 w)).setWidth 48).toNat (objBytes ct ((ct.thr 0 0).rc (wRd w))) false = true) := by
  decide +kernel
theorem witness_HandleMoves_registers :
    (let w := w1 4 8 7 0 0;
      ready 4 8 0 0 w [.k (Fin.ofNat 8 (wRd w))] ct = true ∧ formOk [1] w = true ∧ wRd w < 8
      ∧ (wImm64 w).toNat < ct.rp.keys.length ∧ (wImm64 w).toNat < 4096)
    ∧ (let w := w0 4 9 7 1 0;
      ready 4 9 0 0 w [.k (Fin.ofNat 8 (wRd w)), .k (Fin.ofNat 8 (wRs1 w))] ct = true ∧ formOk [0] w = true ∧ wRd w < 8
      ∧ wRs1 w < 8 ∧ ((ct.thr 0 0).k.toArray.getD (wRs1 w) none).isSome = true)
    ∧ (∀ i ∈ [0, 1024], let w := w1 4 0x10 7 0 i;
      ready 4 0x10 0 0 w [.q (Fin.ofNat 8 (wRd w))] ct = true ∧ formOk [1] w = true ∧ wRd w < 8
      ∧ ((i < ct.net.chans.length ∧ i < 1024) ∨ (1024 ≤ i ∧ i < 1024 + ct.net.cqs.length ∧ i < 1088)))
    ∧ (let w := w0 4 0x11 7 1 0;
      ready 4 0x11 0 0 w [.q (Fin.ofNat 8 (wRd w)), .q (Fin.ofNat 8 (wRs1 w))] ct = true ∧ formOk [0] w = true ∧ wRd w < 8
      ∧ wRs1 w < 8 ∧ ((ct.thr 0 0).q.toArray.getD (wRs1 w) none).isSome = true)
    ∧ (∀ rd ∈ [0, 3], let w := w0 4 0x18 rd 2 0;
      ready 4 0x18 0 0 w [.m (Fin.ofNat 4 (wRd w)), .s (fs (wRs1 w))] ct = true ∧ formOk [0] w = true ∧ wRd w < 4)
    ∧ (∀ rs ∈ [0, 3], let w := w0 4 0x19 2 rs 0;
      ready 4 0x19 0 0 w [.s (fs (wRd w)), .m (Fin.ofNat 4 (wRs1 w))] ct = true ∧ formOk [0] w = true ∧ wRs1 w < 4) := by
  decide +kernel
theorem test_m0_reads_all_ones : ((after (exec (.mget 0 0 (w0 4 0x19 2 0 0)) ct)).thr 0 0).rs 2 = BitVec.allOnes 64 := by decide +kernel
theorem test_cget_scale : ((after (exec (.cget 0 0 (w1 4 1 2 1 7)) ct)).thr 0 0).rs 2 = 0x320 := by decide +kernel

/-! ## Scalar memory -/

/-- a1 points into the own SPM, to its last descriptor, or elsewhere; two bytes and a word lie there. -/
def atAddr (a : Word) : State :=
  let s := prog fun y => { y with a := y.a.set 1 a, s := (y.s.set 2 0x1122334455667788).set 3 7, c := y.c.set 1 (desc 0x10000 3 2 0 true 5 0x320 0x1600) }
  { s with mem := s.mem.write a.toNat [0x80, 0xFF] }

def spmLast : Word := 0x020000BFFFE0
def spmMid : Word := 0x020000001000

theorem witness_OwnSpmAccess_shape : ∀ a ∈ [spmMid.toNat, spmLast.toNat], ∀ e ∈ [(w4 0 2 1 0 0 0, 1), (w4 0 2 1 1 0 0, 2), (w4 1 2 1 2 0 0, 4),
      (w4 1 2 1 3 0 0, 8), (w4 2 1 1 4 0 0, 32), (w4 3 1 1 4 0 0, 32)],
    let s := atAddr (BitVec.ofNat 64 a);
    let x := memAddr (s.thr 0 0) e.1;
    addrOk x = true ∧ region s x.toNat = .spm 0 (x.toNat - spmBase) ∧ x.toNat % e.2 = 0 ∧ x.toNat - spmBase + e.2 ≤ spmSize
      ∧ formOk [4] e.1 = true ∧ footprintsFull (s.pa 0) 0 = false
      ∧ meets s 0 0 (spmNeeds [(x.toNat - spmAddr 0 0, e.2)] [] false) = true := by decide +kernel
theorem witness_OwnSpmAccess_clauses :
    let s := atAddr spmMid;
    (let w := w4 0 2 1 3 0 0;
      ready 3 0 0 0 w [.a (wMemAb w), .s (fs (wRd w))] s = true ∧ wMemRc w = 0 ∧ wMemSize w = 3 ∧ badAt s spmMid.toNat 8 = none)
    ∧ (let w := w4 1 2 1 0 0 0;
      ready 3 1 0 0 w [.a (wMemAb w), .s (fs (wRd w))] s = true ∧ wMemRc w = 0 ∧ wMemSize w = 0 ∧ mergeFits s spmMid.toNat 1 = true)
    ∧ (let w := w4 2 15 1 4 0 0;
      ready 3 2 0 0 w [.a (wMemAb w), .c (fa (wRd w))] s = true ∧ wMemRc w = 0 ∧ wMemSize w = 4 ∧ wRd w < 16
      ∧ badAt s spmMid.toNat 32 = none)
    ∧ (let w := w4 3 1 1 4 0 0;
      ready 3 3 0 0 w [.a (wMemAb w), .c (fa (wRd w))] s = true ∧ wMemRc w = 0 ∧ wMemSize w = 4 ∧ wRd w < 16
      ∧ malformed s ((s.thr 0 0).rc (wRd w)) = false ∧ dPoisoned ((s.thr 0 0).rc (wRd w)) = false
      ∧ mergeFits s spmMid.toNat 32 = true) := by decide +kernel

/-- Instruction 0 of PA 0 completes, its reads corrected nothing. -/
def done (s : State) : State := after (execInstructionCompletion 0 0 [] s)

/-- Register 2 after a load of PA 0. -/
def loadRun (w : IWord) (s : State) : Word := ((done (after (exec (.ld 0 0 w) s))).thr 0 0).rs 2

/-- Little-endian, with and without sign. -/
theorem test_load_sign : loadRun (w4 0 2 1 1 0 0) (atAddr spmMid) = 0xFF80
    ∧ loadRun (w4 0 2 1 1 0 0 ||| BitVec.ofNat 128 (2 ^ 28)) (atAddr spmMid) = 0xFFFFFFFFFFFFFF80 := by decide +kernel
/-- A negative offset. -/
theorem test_load_offset : loadRun (w4 0 2 1 0 0 (2 ^ 48 - 1)) ((atAddr spmMid).modThr 0 0 fun y => { y with a := y.a.set 1 (spmMid + 1) }) = 0x80 := by
  decide +kernel
/-- A misaligned store raises EXC_ALIGN and writes nothing. -/
theorem test_store_misaligned :
    ((after (exec (.st 0 0 (w4 1 2 1 3 0 1)) (atAddr spmMid))).thr 0 0).exc.code = 0x23
      ∧ (after (exec (.st 0 0 (w4 1 2 1 3 0 1)) (atAddr spmMid))).mem = (atAddr spmMid).mem := by decide +kernel

/-- HBM, another PA's SPM, and a control register. -/
theorem witness_AccessTravels : ∀ n ∈ [0x40000000, 0x3F0000000000],
    let a := BitVec.ofNat 64 n;
    let s := atAddr a;
    ownSpm 0 (memAddr (s.thr 0 0) (w4 0 2 1 3 0 0)).toNat 8 = false
    ∧ meets s 0 0 (awayNeeds s 0 { addr := n, size := 8, kind := .load 2 false }) = true
    ∧ (let w := w4 0 2 1 3 0 0;
      formOk [4] w = true ∧ ready 3 0 0 0 w [.a (wMemAb w), .s (fs (wRd w))] s = true ∧ wMemRc w = 0 ∧ wMemSize w ≤ 3
      ∧ pickCause (accessCauses s 0 w a (2 ^ wMemSize w) false) = none) := by decide +kernel
theorem witness_AccessTravels_clauses :
    let a := (0x40000000 : Word);
    let s := atAddr a;
    let goes := fun (n : Nat) (k : MemKind) => meets s 0 0 (awayNeeds s 0 { addr := a.toNat, size := n, kind := k });
    (let w := w4 1 2 1 0 0 0;
      formOk [4] w = true ∧ ready 3 1 0 0 w [.a (wMemAb w), .s (fs (wRd w))] s = true ∧ wMemRc w = 0 ∧ wMemSize w ≤ 3
      ∧ pickCause (accessCauses s 0 w a 1 true) = none ∧ goes 1 (.store 0x1122334455667788) = true)
    ∧ (let w := w4 2 1 1 4 0 0;
      formOk [4] w = true ∧ ready 3 2 0 0 w [.a (wMemAb w), .c (fa (wRd w))] s = true ∧ wMemRc w = 0 ∧ wMemSize w = 4 ∧ wRd w < 16
      ∧ pickCause (accessCauses s 0 w a 32 false) = none ∧ goes 32 (.loadDesc 1) = true)
    ∧ (let w := w4 3 1 1 4 0 0;
      formOk [4] w = true ∧ ready 3 3 0 0 w [.a (wMemAb w), .c (fa (wRd w))] s = true ∧ wMemRc w = 0 ∧ wMemSize w = 4 ∧ wRd w < 16
      ∧ malformed s ((s.thr 0 0).rc (wRd w)) = false ∧ dPoisoned ((s.thr 0 0).rc (wRd w)) = false
      ∧ pickCause (accessCauses s 0 w a 32 true) = none ∧ goes 32 (.storeDesc ((s.thr 0 0).rc (wRd w))) = true)
    ∧ ∀ o ∈ [8, 9, 10, 11], let w := w4 o 2 1 3 3 0;
      formOk [4] w = true ∧ ready 3 o 0 0 w [.a (wMemAb w), .s (fs (wRd w)), .s (fs (wMemRc w))] s = true ∧ wMemSize w = 3
      ∧ atomicIllegal a = false ∧ pickCause (accessCauses s 0 w a 8 true) = none ∧ goes 8 (.amo .add 7 2) = true := by decide +kernel

theorem witness_AtomicResults : ∀ o ∈ [8, 9, 10, 11], ∀ rd ∈ [0, 2], let w := w4 o rd 1 3 3 0;
    let s := atAddr spmMid;
    ready 3 o 0 0 w [.a (wMemAb w), .s (fs (wRd w)), .s (fs (wMemRc w))] s = true ∧ formOk [4] w = true ∧ wMemSize w = 3
      ∧ addrOk (memAddr (s.thr 0 0) w) = true ∧ region s (memAddr (s.thr 0 0) w).toNat = .spm 0 0x1000
      ∧ footprintsFull (s.pa 0) 0 = false ∧ meets s 0 0 (spmNeeds [(0x1000, 8)] [] false) = true ∧ badAt s spmMid.toNat 8 = none ∧ mergeFits s spmMid.toNat 8 = true := by
  decide +kernel
/-- The comparison is with the old destination register. -/
theorem test_amocas_fails : (after (exec (.amocas 0 0 (w4 10 2 1 3 3 0)) (atAddr spmMid))).word spmMid.toNat = 0xFF80 := by
  decide +kernel
theorem test_amomaxu : (after (exec (.amomaxu 0 0 (w4 11 2 1 3 3 0)) (atAddr spmMid))).word spmMid.toNat = 0xFF80 := by decide +kernel

/-! ## Fences and barriers -/

/-- Thread 1 waits at the barrier of threads 0 and 1. -/
def atBarrier : State := twoRun.modPa 0 fun x =>
  { x.modThr 1 fun y => { y with st := .run, pc := 3, wait := .barpa 3 } with barriers := [(3, 2)] }

/-- Package barrier 31 counts two; thread 0 has no release, or holds one. -/
def pkg (f : Thread → Thread) : State :=
  let s := run f
  { s with rp := { s.rp with barrCount := s.rp.barrCount.set 31 2 } }

theorem witness_FencesAndBarriers_fence : ∀ arg ∈ [0, 15], let w := w5 0 arg;
    ready 5 0 0 0 w [] (run id) = true ∧ formOk [5] w = true ∧ wArg w ≤ 15 ∧ fenceHolds ((run id).pa 0) 0 (wArg w) = true ∧ wArg (w5 0 0) = 0 := by
  decide +kernel
theorem witness_FencesAndBarriers_local :
    let w := w5 1 3;
    (ready 5 1 0 0 w [] atBarrier = true ∧ formOk [5] w = true ∧ bit (BitVec.ofNat 8 (wArg w)) 0 = true
      ∧ fenceSpm (atBarrier.pa 0) 0 = true
      ∧ ((maskThreads (BitVec.ofNat 8 (wArg w))).all fun v => (atBarrier.thr 0 v).st ≠ .ended ∧ (atBarrier.thr 0 v).st ≠ .faulted) = true
      ∧ arrivedAt (atBarrier.pa 0) 3 ||| bitAt 8 0 true = 3)
    ∧ (ready 5 1 0 0 w [] (run id) = true ∧ fenceSpm ((run id).pa 0) 0 = true ∧ arrivedAt ((run id).pa 0) 3 ||| bitAt 8 0 true ≠ 3
      ∧ ((run id).pa 0).barriers.length < 4) := by decide +kernel
theorem witness_FencesAndBarriers_package :
    let w := w5 2 31;
    ready 5 2 0 0 w [] (pkg fun y => { y with held := [31] }) = true ∧ formOk [5] w = true ∧ wArg w = (31 : Fin 32).val
    ∧ (pkg id).rp.barrCount[31] ≠ 0 ∧ nmem ((pkg fun y => { y with held := [31] }).thr 0 0).held 31 = true
    ∧ ready 5 2 0 0 w [] (pkg id) = true ∧ nmem ((pkg id).thr 0 0).held 31 = false ∧ ((pkg id).thr 0 0).arrivals.any (·.1 = 31) = false
    ∧ fenceMem ((pkg id).pa 0) 0 = true ∧ isReleased ((pkg fun y => { y with released := some 5 }).thr 0 0) = true := by decide +kernel
/-- The waiter's own BARPA issues at its next attempt. -/
theorem test_last_arrival_releases : let u := after (exec (.barpa 0 0 (w5 1 3)) atBarrier);
    (u.thr 0 1).wait = .none ∧ (u.thr 0 1).pc = 3 ∧ isReleased (u.thr 0 1) = true ∧ (u.pa 0).barriers = [] := by decide +kernel

/-- Both arrivals stand at package barrier 31. -/
def pkgFull : State :=
  let s := pkg fun y => { y with arrivals := [(31, 5)], wait := .barpkg 31 }
  { s with rp := { s.rp with barrArrived := s.rp.barrArrived.set 31 [(0, 0), (0, 1)] } }

theorem witness_PackageBarrierRelease : pkgFull.rp.barrCount[31] ≠ 0
    ∧ pkgFull.rp.barrCount[31] ≤ (pkgFull.rp.barrArrived[31]).length
    ∧ (∀ e ∈ pkgFull.rp.barrArrived[31], arrivalCome pkgFull 31 e = true) ∧ (pkgFull.thr 0 0).wait = .barpkg 31 := by decide +kernel

/-! ## Instructions in flight and exceptions -/

/-- An instruction of thread 0 in flight that writes register 2, or descriptor register 2. -/
def inFlight (w : Wr) (f : Thread → Thread) : State :=
  (run f).modPa 0 fun x => { x with ops := [{ id := 4, thr := 0, fpc := 3, unit := .cells, uses := [], defs := [], writes := [w], poison := some 2 }] }

theorem witness_Completion : ∀ w ∈ [(Wr.s 0 7 : Wr), .s 2 7, .c 2 7],
    (((inFlight w id).pa 0).ops.find? (·.id = 4)).isSome = true
    ∧ (((inFlight w id).pa 0).ops.all fun o => o.answeredAll && o.bad = none && o.keyed = none && o.keyCmd = none
      && o.acc = none && (o.writes.all fun x => x.line? 0 = none) && decide (o.writes = [w])) = true := by decide +kernel
/-- Part of a line of the own SPM. -/
theorem witness_Completion_memory : ∀ bs ∈ [[7, 8], [(9 : Byte)]],
    (((inFlight (.mem spmMid.toNat bs) id).pa 0).ops.all fun o => o.answeredAll && decide (o.writes = [.mem spmMid.toNat bs])) = true
    ∧ ownSpm 0 spmMid.toNat bs.length = true ∧ 0 < bs.length ∧ spmMid.toNat % 4096 + bs.length ≤ 4096
    ∧ mergeRoom ((inFlight (.mem spmMid.toNat bs) id).pa 0) ((spmMid.toNat - spmAddr 0 0) / 4096) = true := by decide +kernel

/-- Running, running but with an exception latched, in a handler, and stalled. -/
theorem witness_DeferredExceptions : ∀ f ∈ [(id : Thread → Thread), fun y => { y with undelivered := true },
      fun y => { y with st := .handler }, fun y => { y with needs := [.slot] }],
    (((inFlight (.s 2 7) f).pa 0).ops.find? (·.id = 4)).isSome = true
    ∧ (((inFlight (.s 2 7) f).pa 0).ops.all (·.keyed = none)) = true
    ∧ ((inFlight (.s 2 7) f).thr 0 0).wait = .none := by decide +kernel
theorem witness_DeferredExceptions_latched : ((inFlight (.s 2 7) id).thr 0 0).needs = [] ∧ ((inFlight (.s 2 7) id).thr 0 0).st = .run
    ∧ ((inFlight (.s 2 7) fun y => { y with st := .handler }).thr 0 0).st ≠ .run := by decide +kernel
theorem test_deferred_then_delivered :
    let s := after (exec (.deferredException 0 4 .ecc 0x40) (inFlight (.s 2 7) fun y => { y with handlerOn := true, handlerPc := 100 }));
    (s.thr 0 0).exc.fpc = 3 ∧ (s.thr 0 0).exc.epc = 5 ∧ ((after (exec (.nop 0 0 (w0 0 0 0 0 0)) s)).thr 0 0).pc = 100 := by decide +kernel

/-- A group beyond 12, ext set, an op that is not listed; a pc beyond IMEM; in a handler; and with a handler enabled. -/
theorem witness_IllegalInstructionTaken :
    ([word 13 0 0 0, word 15 0 0 0, word 0 0 8 0, word 0 1 0 0].all unlistedWord) = true
    ∧ (∀ f ∈ [(id : Thread → Thread), fun y => { y with pc := 16384 }, fun y => { y with st := .handler },
        fun y => { y with handlerOn := true }], let s := run f;
      mayAttempt s 0 0 = true ∧ (s.thr 0 0).undelivered = false ∧ (s.thr 0 0).cancelled = false
      ∧ (s.thr 0 0).holdTo ≤ (s.pa 0).cycle)
    ∧ 16384 ≤ ((run fun y => { y with pc := 16384 }).thr 0 0).pc := by decide +kernel

/-! ## Compute instructions -/

/-- Format 7. -/
def w7 (g o mode d s1 s2 s3 type cnt mi imm : Nat) : IWord :=
  word g o 7 (mode * 2 ^ 18 + d * 2 ^ 22 + s1 * 2 ^ 30 + s2 * 2 ^ 38 + s3 * 2 ^ 46 + 5 * 2 ^ 56 + type * 2 ^ 61 + cnt * 2 ^ 64
    + mi * 2 ^ 82 + imm * 2 ^ 98)

/-- a1 to a3 point into the own SPM; tile 1 and tile 2 start with `x` and `y`. -/
def vec (x y : Word) : State :=
  (prog fun z => { z with a := ((z.a.set 1 0x020000000000).set 2 0x020000100000).set 3 0x020000200000 }).modPa 0 fun z =>
    { z with tiles := [(4096, x), (8192, y)] }

/-- A word has its plan, nothing refuses it and its unit is free. -/
def planMeets (plan : Pa → Thr → IWord → State → Option VPlan) (g o : Nat) (w : IWord) (s : State) : Bool :=
  match plan 0 0 w s with
  | some v => ready g o 0 0 w v.regs s && planRuns 0 0 (vFields w) v s
  | none => false

/-- Tiles, SPM vectors with an index tensor, and a limb in place. -/
theorem witness_PlannedWorkRuns_limbs :
    planMeets (limbPlan .mad [1, 2, 3, 4, 5] [1, 2, 3, 4, 5]) 6 0x10 (w7 6 0x10 0 96 97 98 165 0 64 0 0) (vec 1 2) = true
    ∧ planMeets (limbPlan .mul [1, 2, 3, 4, 5] [0]) 6 0x11 (w7 6 0x11 0 33 34 35 0 0 64 63 0) (vec 1 2) = false
    ∧ planMeets (limbPlan .mul [1, 2, 3, 4, 5] [0]) 6 0x11 (w7 6 0x11 0 33 34 35 0 0 64 3 0) (vec 1 2) = true
    ∧ planMeets (limbPlan .add [1, 2, 3, 4, 5] [0]) 6 0x12 (w7 6 0x12 0 96 97 128 0 0 64 0 0) (vec 1 2) = true
    ∧ planMeets (limbPlan .sub [1, 2, 3, 4, 5] [0]) 6 0x13 (w7 6 0x13 0 33 97 98 0 0 64 0 0) (vec 1 2) = true
    ∧ planMeets (limbPlan .neg [0] [0]) 6 0x14 (w7 6 0x14 0 96 34 0 0 0 64 0 0) (vec 1 2) = true
    ∧ planMeets (lnttPlan nttOp) 7 0x10 (w7 7 0x10 0 33 34 0 0 0 4096 0 0) (vec 1 2) = true
    ∧ planMeets (lnttPlan inttOp) 7 0x11 (w7 7 0x11 0 33 34 0 0 0 4096 0 0) (vec 1 2) = true
    ∧ planMeets lautPlan 7 0x12 (w7 7 0x12 1 33 34 0 0 0 4096 0 8191) (vec 1 2) = true := by decide +kernel
theorem witness_PlannedWorkRuns_accumulators :
    planMeets (baccPlan false) 8 0 (w7 8 0 0 131 97 33 0 0 0 0 4095) (vec 1 2) = true
    ∧ planMeets (baccPlan true) 8 1 (w7 8 1 0 128 97 33 0 0 0 63 0) (vec 1 2) = true
    ∧ planMeets (fun _ _ => aclrPlan) 8 2 (w7 8 2 0 128 0 0 0 0 0 1 0) (vec 1 2) = true
    ∧ planMeets aredqPlan 9 0x3A (w7 9 0x3A 0 96 128 0 0 0 64 0 0) (vec 1 2) = true
    ∧ planMeets aovfPlan 9 0x3B (w7 9 0x3B 0 162 128 0 0 0 64 0 0) (vec 1 2) = true := by decide +kernel
theorem witness_PlannedWorkRuns_elements :
    planMeets vmovPlan 9 0 (w7 9 0 0 96 132 0 0 0 64 0 0) (vec 1 2) = true
    ∧ planMeets (veuArith (· + ·)) 9 1 (w7 9 1 4 96 97 98 0 3 64 0 0) (vec 1 2) = true
    ∧ planMeets (veuArith (· - ·)) 9 2 (w7 9 2 0 33 34 35 0 7 65536 0 0) (vec 1 2) = true
    ∧ planMeets (veuArith (· * ·)) 9 3 (w7 9 3 0 96 97 162 0 0 0 0 0) (vec 1 2) = true
    ∧ planMeets (veuPlan [1, 2, 3, 5] [1, 2, 3, 5] [0] (fun f => (f.mode = 0 || f.mode = 4) && f.imm = 0)
        (fun f a b _ => (highProduct f.type a b, 0))) 9 4 (w7 9 4 4 96 97 98 0 5 1 0 0) (vec 1 2) = true
    ∧ ([(5, veuTwo fun ty a b => typeOut ty (min (typeIn ty a) (typeIn ty b))),
        (6, veuTwo fun ty a b => typeOut ty (max (typeIn ty a) (typeIn ty b))),
        (8, veuTwo fun ty a b => typeOut ty ((a &&& b).toNat : Nat)), (9, veuTwo fun ty a b => typeOut ty ((a ||| b).toNat : Nat)),
        (10, veuTwo fun ty a b => typeOut ty ((a ^^^ b).toNat : Nat)), (11, veuTwo fun ty a b => typeOut ty ((a &&& ~~~b).toNat : Nat)),
        (0x18, veuTwo fun ty a b => boolWord (typeIn ty a = typeIn ty b)),
        (0x19, veuTwo fun ty a b => boolWord (typeIn ty a < typeIn ty b))].all fun e =>
        planMeets e.2 9 e.1 (w7 9 e.1 0 96 97 98 0 3 64 0 0) (vec 1 2)) = true := by decide +kernel
theorem witness_PlannedWorkRuns_shifts :
    planMeets (shiftPlan true fun f a k => shiftLeft f.type (satMode f) a k) 9 0x10 (w7 9 0x10 5 96 97 0 0 5 64 0 255) (vec 1 2) = true
    ∧ planMeets (shiftPlan false fun f a k => (shiftRight f.type a k, 0)) 9 0x11 (w7 9 0x11 0 96 97 98 0 5 64 0 0) (vec 1 2) = true
    ∧ planMeets (shiftPlan false fun f a k => (shiftArith f.type a k, 0)) 9 0x12 (w7 9 0x12 1 96 97 0 0 5 64 0 1) (vec 1 2) = true
    ∧ planMeets vselPlan 9 0x1A (w7 9 0x1A 0 96 97 98 99 0 64 0 0) (vec 1 2) = true
    ∧ planMeets vmskrPlan 9 0x1B (w7 9 0x1B 0 162 97 0 0 0 4096 0 63) (vec 1 2) = true
    ∧ planMeets vtrnPlan 9 0x20 (w7 9 0x20 0 96 97 0 0 0 4096 0 0) (vec 1 2) = true
    ∧ planMeets vredPlan 9 0x28 (w7 9 0x28 2 162 97 0 0 5 64 0 0) (vec 1 2) = true
    ∧ planMeets vredPlan 9 0x28 (w7 9 0x28 1 96 97 0 0 5 64 0 508) (vec 1 2) = true
    ∧ planMeets fdotPlan 9 0x30 (w7 9 0x30 2 162 97 98 0 2 64 0 0) (vec 1 2) = true := by decide +kernel
theorem witness_PlannedWorkRuns_slots :
    planMeets (sfftPlan false) 10 0 (w7 10 0 0 33 34 0 0 0 2048 0 0) (vec 1 2) = true
    ∧ planMeets (sfftPlan true) 10 1 (w7 10 1 0 33 34 0 0 0 65536 0 0) (vec 1 2) = true
    ∧ planMeets slotinPlan 10 8 (w7 10 8 0 33 97 0 0 5 2048 0 0) (vec 1 2) = true
    ∧ planMeets coefoutPlan 10 8 (w7 10 8 1 33 34 0 0 0 4096 0 0x1900) (vec 1 2) = true
    ∧ planMeets coefinPlan 10 8 (w7 10 8 2 33 34 0 0 0 4096 0 0x1900) (vec 1 2) = true
    ∧ planMeets slotoutPlan 10 8 (w7 10 8 3 33 34 0 0 4 1 0 0x8000) (vec 1 2) = true
    ∧ planMeets convertPlan 10 8 (w7 10 8 4 33 97 0 0 2 64 0 0x50000) (vec 1 2) = true
    ∧ planMeets sqntPlan 10 9 (w7 10 9 0 33 97 0 0 6 64 0 0x20000) (vec 1 2) = true
    ∧ planMeets sstatPlan 10 10 (w7 10 10 0 33 97 98 0 2 64 0 0x20000) (vec 1 2) = true := by decide +kernel

/-- The state after the row's instruction, the PA's first, has completed. -/
def ranTo (i : Pa → Thr → IWord → Instr) (w : IWord) (s : State) : State := done (after (exec (i 0 0 w) s))

/-- VSHR by 1 of the s32 number -2, and a wrapped and a clamped u8 sum (Tables 5.12 and 5.13). -/
theorem test_vshr_signed_type :
    tileAt ((ranTo .vshr (w7 9 0x11 1 96 97 0 0 5 1 0 1) (vec 0xFFFFFFFFFFFFFFFE 0)).pa 0) 0 0 = 0x7FFFFFFF := by decide +kernel
theorem test_vadd_u8 :
    (let u := ranTo .vadd (w7 9 1 0 96 97 98 0 0 1 0 0) (vec 0x1FF 2); tileAt (u.pa 0) 0 0 = 1 ∧ (u.thr 0 0).rs 5 = 2)
    ∧ (let u := ranTo .vadd (w7 9 1 4 96 97 98 0 0 1 0 0) (vec 0x1FF 2); tileAt (u.pa 0) 0 0 = 255 ∧ (u.thr 0 0).rs 5 = 1) := by
  decide +kernel
/-- An empty reduction sets EMPTY; the smallest signed byte is its maximum. -/
theorem test_vred_empty :
    let u := ranTo .vred (w7 9 0x28 2 162 97 0 0 1 0 0 2) (vec 1 2);
    (u.thr 0 0).rs 5 = 4 ∧ (u.thr 0 0).rs 2 = 0xFFFFFFFFFFFFFF80 := by decide +kernel
/-- FP32 infinity by zero. -/
theorem test_fdot_invalid :
    let u := ranTo .fdot (w7 9 0x30 2 162 97 98 0 4 1 0 0) (vec 0x7F800000 0);
    (u.thr 0 0).rs 5 = 0x40 ∧ (u.thr 0 0).rs 2 = 0x7FC00000 := by decide +kernel
/-- The LSUB word of chapter 5: group 6, op 0x13, tile 1 minus an SPM vector into tile 2, count 1,281. -/
theorem test_lsub_example_word : spells (0x0000000005010000 <<< 64 ||| 0x2AEA8A407613 : IWord) 6 0x13 = true := by decide +kernel

theorem witness_TileLanes :
    (limbPlan .mad [1, 2, 3, 4, 5] [1, 2, 3, 4, 5] 0 0 (w7 6 0x10 0 96 97 98 165 0 64 0 0) (vec 1 2)).isSome = true
    ∧ (veuArith (· + ·) 0 0 (w7 9 1 4 103 97 98 0 3 4096 0 0) (vec 1 2)).isSome = true
    ∧ ((veuArith (· + ·) 0 0 (w7 9 1 4 103 97 98 0 3 4096 0 0) (vec 1 2)).all fun v => pickCause v.causes = none) = true
    ∧ Operand.of (vFields (w7 9 1 4 103 97 98 0 3 4096 0 0)).d = some (.tile 7)
    ∧ (shiftPlan true (fun f a k => shiftLeft f.type (satMode f) a k) 0 0 (w7 9 0x10 5 96 97 0 0 5 64 0 255) (vec 1 2)).isSome = true
    ∧ (vselPlan 0 0 (w7 9 0x1A 0 96 97 98 99 0 64 0 0) (vec 1 2)).isSome = true := by decide +kernel
theorem witness_IntegerResultsFit : fitInt 1 true (-129) = (0xFFFFFFFFFFFFFF80, flSat) ∧ fitInt 7 false (2 ^ 63) = (0x8000000000000000, flWrap)
    ∧ fitInt 6 false (2 ^ 64 - 1) = (0xFFFFFFFFFFFFFFFF, 0) := by decide +kernel
/-- The least modulus, and a product of two 60-bit numbers. -/
theorem witness_CellArithmetic : cellOp .sub 2 false 0 1 1 = 1 ∧ cellOp .mad (2 ^ 60 - 2 ^ 14 + 1) false (2 ^ 60 - 2 ^ 14) (2 ^ 60 - 2 ^ 14) 0 = 1 := by
  decide +kernel
theorem witness_AccumulatorRows :
    (let w := w7 8 0 0 131 97 33 0 0 0 0 4095;
      (baccPlan false 0 0 w (vec 1 2)).isSome = true ∧ accDest (vFields w).d = some 3 ∧ Operand.of (vFields w).s1 = some (.tile 1)
      ∧ Operand.of (vFields w).s2 = some (.vec 1))
    ∧ (let w := w7 8 2 0 128 0 0 0 0 0 1 0; (aclrPlan w (vec 1 2)).isSome = true ∧ accDest (vFields w).d = some 0)
    ∧ (let w := w7 9 0x3A 0 96 132 0 0 0 64 0 0;
      ((aredqPlan 0 0 w (vec 1 2)).map fun v => pickCause v.causes) = some none ∧ Operand.of (vFields w).d = some (.tile 0)
      ∧ accSource (vFields w).s1 = some 0 ∧ 63 < countOf (vFields w) ((vec 1 2).thr 0 0))
    ∧ (∀ i ∈ [160, 191], let w := w7 9 0x3B 0 i 128 0 0 0 64 0 0;
      (aovfPlan 0 0 w (vec 1 2)).isSome = true ∧ (Operand.of (vFields w).d).isSome = true ∧ accSource (vFields w).s1 = some 0) := by
  decide +kernel
/-- One product into row 0, column 0. -/
theorem test_bacc : accAt ((ranTo .bacc (w7 8 0 0 128 97 33 0 0 0 0 0)
    { vec 3 0 with mem := (vec 3 0).mem.write 0x020000000000 [5] }).pa 0) 0 0 = 15 := by decide +kernel

/-! ## Descriptor operations and tracking -/

/-- Format 6. -/
def w6 (g o ip cd cs1 cs2 as2 kh imm : Nat) : IWord :=
  word g o 6 (ip * 2 ^ 16 + cd * 2 ^ 18 + cs1 * 2 ^ 22 + cs2 * 2 ^ 26 + 4 * 2 ^ 30 + 3 * 2 ^ 34 + 1 * 2 ^ 38 + as2 * 2 ^ 42
    + kh * 2 ^ 60 + imm * 2 ^ 64)

/-- c1 a ciphertext and c2 a plaintext of level 2 in evaluation form, c3 an accumulator of their product, c4 a ciphertext in
coefficient form; windows at a1 to a3, results at a4. -/
def descs : State :=
  prog fun y => { y with
    c := (((y.c.set 1 (desc 0x10000 3 2 0 true 5 0x320 0x1600)).set 2 (desc 0x100000 3 2 0 true 0 0x320 0)).set 3
      (desc 0x200000 3 2 0 true 5 0x640 0x1600)).set 4 (desc 0x300000 3 2 0 false 5 0x320 0x1600)
    a := (((y.a.set 1 0x020000000000).set 2 0x020000100000).set 3 0x020000200000).set 4 0x40000000 }

def descMeets (o : Nat) (op : State → Pa → Thr → PFields → DescOp) (two : Bool) (w : IWord) : Bool :=
  let f := pFields w
  wFmt w = 6 && !f.rsvd && f.comp ≠ 3 && f.kh = 0 && f.imm = 0 && ready 6 o 0 0 w (descRegs f two) descs
    && descRuns 0 0 f (op descs 0 0 f) descs

theorem witness_DescriptorOperationsRun :
    descMeets 0 (addOp .add) true (w6 6 0 0 5 1 1 2 0 0) = true ∧ descMeets 1 (addOp .sub) true (w6 6 1 0 5 1 1 2 0 0) = true
    ∧ (descMeets 2 negOp false (w6 6 2 0 5 1 0 0 0 0) = true ∧ (pFields (w6 6 2 0 5 1 0 0 0 0)).cs2 = 0 ∧ (pFields (w6 6 2 0 5 1 0 0 0 0)).as2 = 0)
    ∧ descMeets 3 mulpOp true (w6 6 3 0 5 1 2 2 0 0) = true
    ∧ (descMeets 4 macOp true (w6 6 4 1 3 1 2 2 0 0) = true ∧ (pFields (w6 6 4 1 3 1 2 2 0 0)).ip = true)
    ∧ (descMeets 5 rescaleOp false (w6 6 5 0 5 3 0 2 0 0) = true ∧ (pFields (w6 6 5 0 5 3 0 2 0 0)).cs2 = 0) := by decide +kernel
theorem witness_DescriptorOperationsRun_limbs : ∀ e ∈ [(0, 4, 0), (1, 1, 0), (2, 2, 8191)],
    let w := w6 7 e.1 0 5 e.2.1 0 0 0 e.2.2;
    let f := pFields w;
    let y := descs.thr 0 0;
    let o := if e.1 = 2 then autDescOp y f else transformOp (e.1 = 1) y f;
    wFmt w = 6 ∧ f.rsvd = false ∧ f.comp ≠ 3 ∧ f.kh = 0 ∧ (e.1 < 2 → f.imm = 0) ∧ f.lazy = false ∧ f.cs2 = 0 ∧ f.as2 = 0
      ∧ ready 7 e.1 0 0 w (descRegs f false) descs = true ∧ descRuns 0 0 f o descs = true := by decide +kernel
/-- The CMACP word of chapter 5. -/
theorem test_cmacp_example_word : spells (0x002021D9508D6604 : IWord) 6 4 = true ∧ (pFields (0x002021D9508D6604 : IWord)).ip = true := by
  decide +kernel

/-- The noise constants of chapter 2's example: kmul 1, kks 30, krs 3, precision 20. -/
def traced : State := (descs.setReg (.pa 0 (.nconst 0)) 0x0000_0300_1E00_0100).setReg (.pa 0 .ncfg) 0x0000_0014_0000_0000

theorem witness_TrackingResults :
    pickCause (trackMulp descs 0 (desc 0x10000 3 2 0 true 5 0x320 0x1600) (desc 0x100000 3 2 0 true 0 0x320 0)).2 = none
    ∧ pickCause (trackMul descs 0 0x1E00 (desc 0x10000 3 2 0 true 5 0x320 0x1600) (desc 0x10000 3 2 0 true 5 0x320 0x1600)).2 = none
    ∧ pickCause (trackRescale descs 0 (desc 0x10000 3 2 0 true 5 0x640 0x1600)).2 = none ∧ modLpl descs < 3 := by decide +kernel
/-- Table 2.9, step by step. -/
theorem test_field_trace :
    let d0 := desc 0x10000 3 2 0 true 5 0x320 0x1600;
    let r1 := (trackMul traced 0 0x1E00 d0 d0).1;
    let r2 := (trackRescale traced 0 (r1.pack 0)).1;
    let r3 := (trackMul traced 0 0x1E00 (r2.pack 0) (r2.pack 0)).1;
    let r4 := (trackRescale traced 0 (r3.pack 0)).1;
    (r1.scale, r1.noise) = (0x640, 0x4A01) ∧ (r2.level, r2.scale, r2.noise) = (1, 0x320, 0x1802)
      ∧ (r3.scale, r3.noise) = (0x640, 0x4C03) ∧ (r4.level, r4.scale, r4.noise) = (0, 0x320, 0x1A04)
      ∧ ((pickCause (trackMul traced 0 0x1E00 (r4.pack 0) (r4.pack 0)).2).map (·.exc)) = some .level := by decide +kernel
/-- lse of equal numbers adds one bit. -/
theorem test_lse : lse 0x4800 0x4800 = 0x4900 ∧ lse 0x4A00 0x1E00 = 0x4A01 := by decide +kernel

/-! ## Chord, scheme switching and exports -/

def key (kind galois lweN : Nat) (tagOut : BitVec 48) : KeyHdr :=
  { kind := kind, seeded := false, lgn := 0, dnum := 1, limbs := 1, special := if kind = 5 ∨ kind = 6 then 0 else 1, lweN := lweN, galois := galois,
    tagIn := 5, tagOut := tagOut, knoise := 0x100, seed := [], base := 0x10000000 }

/-- A descriptor of one limb, level 0 and scheme `sch`. -/
def one (lgn sch : Nat) (eval : Bool) (tag : BitVec 48) (scale : Nat) : Desc :=
  ({ lgn := lgn, k := 1, level := 0, scheme := sch, eval := eval, tag := tag, scale := scale, noise := 0x100, unreliable := false } : Tracked).pack 0x10000

/-- The registers of a member: BFV ciphertexts c1 (evaluation form), c4 and c5 (coefficient form, of dimensions 2^12 and 2^13), a
plaintext c2, a ring-GSW ciphertext c6, LWE ciphertexts c7 and, unreliable, c9, and the keys of kinds 1, 2, 3, 5, 6 and 7. -/
def member (q : Pa) (y : Thread) : Thread :=
  { y with
    st := .run, pc := 5
    c := ((((((y.c.set 1 (one 0 1 true 5 0x20)).set 2 (one 0 1 false 0 0x20)).set 4 (one 0 1 false 5 0x20)).set 5 (one 1 1 false 5 0x20)).set 6
      (one 0 4 true 5 0)).set 7 (one 0 3 false 5 0x20)).set 9 (one 0 3 false 5 0x20 ||| BitVec.ofNat 256 (2 ^ 145))
    a := (((y.a.set 1 (BitVec.ofNat 64 (spmAddr q 0))).set 2 (BitVec.ofNat 64 (spmAddr q 0x100000))).set 3 (BitVec.ofNat 64 (spmAddr q 0x200000))).set 4
      0x40000000
    k := (((((y.k.set 0 (some 0)).set 1 (some 1)).set 2 (some 2)).set 3 (some 3)).set 4 (some 4)).set 5 (some 5) }

/-- PAs 0 and 1 are group 1. -/
def group : State :=
  let s := (prog (member 0)).modPa 1 fun x => { x with online := true }.modThr 0 (member 1)
  { s with rp := { s.rp with
      modcfg := 0x1010103
      keys := [key 1 0 0 5, key 2 5 0 5, key 3 8191 0 5, key 5 0 600 9, key 6 0 600 5, key 7 2049 0 5]
      groups := s.rp.groups.set 1 { mask := 3, scratch := 0x800000, size := 0x80000 } } }

/-- The word of a keyed instruction with its handle and immediate, and the entry that the handle names. -/
def keyedWord (op : KeyedOp) : IWord :=
  match op with
  | .cmul => w6 6 0x20 0 8 1 1 2 0 0
  | .chord => w6 6 0x21 0 8 1 0 0 0 0
  | .crot => w6 6 0x22 0 8 1 0 0 1 5
  | .cconj => w6 6 0x23 0 8 1 0 0 2 0

def keyedEntry (op : KeyedOp) : Nat :=
  match op with
  | .crot => 1
  | .cconj => 2
  | _ => 0

def headerAt (s : State) (e : Nat) : KeyHdr := (s.rp.keys[e]?).getD (key 1 0 0 5)

/-- PA 1 has issued the instruction and waits. -/
def half (op : KeyedOp) : State := chordWaiting group 1 (keyedIssue op group 1 0 (keyedWord op) (keyedEntry op) (headerAt group (keyedEntry op)))

def keyedMeets (op : KeyedOp) (s : State) : Bool :=
  let w := keyedWord op
  let f := pFields w
  wFmt w = 6 && keyedForm op f && ready 6 op.code 0 0 w (.k f.kh :: descRegs f (op = .cmul)) s
    && keyedRuns op 0 0 w 1 (keyedEntry op) (headerAt s (keyedEntry op)) s

/-- The first member issues, and the last. -/
theorem witness_KeyedInstructionsStart : ([KeyedOp.cmul, .chord, .crot, .cconj].all fun op =>
    let i := keyedIssue op group 0 0 (keyedWord op) (keyedEntry op) (headerAt group (keyedEntry op))
    let j := keyedIssue op (half op) 0 0 (keyedWord op) (keyedEntry op) (headerAt group (keyedEntry op))
    let s1 := chordWaiting (half op) 1 j
    keyedMeets op group && !chordComplete (chordWaiting group 1 i) 1 i && keyedMeets op (half op) && chordComplete s1 1 j
      && allAgree (firstIssues s1 1)) = true := by decide +kernel

/-- Both members' issues of a CHORD: member 0 owns the chain limb, member 1 owns none. -/
def bothIssues : List ChordIssue :=
  [keyedIssue .chord group 0 0 (keyedWord .chord) 0 (headerAt group 0), keyedIssue .chord group 1 0 (keyedWord .chord) 0 (headerAt group 0)]

theorem witness_KeyedMembersInFlight : bothIssues.head?.map (·.entry) = some 0 ∧ (group.rp.keys[0]?).isSome = true
    ∧ (bothIssues.map (·.pa)).Nodup ∧ dLimbs (one 0 1 true 5 0x20) = 1 ∧ teamSize 2 (1 + modK group) = 1
    ∧ bothIssues.map (·.d1) = [one 0 1 true 5 0x20, one 0 1 true 5 0x20] := by decide +kernel
/-- One member waits; and the thread is in run state. -/
theorem witness_ChordTimeout : firstIssues group 1 = [] ∧ firstIssues (half .chord) 1 ≠ []
    ∧ (firstIssues (half .chord) 1).length ≠ (members (half .chord) 1).length ∧ ((half .chord).thr 1 0).st = .run := by decide +kernel

def swMeets (o immMax : Nat) (two keyed : Bool) (op : State → Pa → Thread → PFields → Option SwOp) (w : IWord) : Bool :=
  let f := pFields w
  match op group 0 (group.thr 0 0) f with
  | some v => wFmt w = 6 && swForm f immMax two keyed && ready 6 o 0 0 w (.k f.kh :: descRegs f two) group && swRuns 0 0 f v group
  | none => false

theorem witness_SchemeSwitchingRuns :
    swMeets 0x28 7 false false csplitOp (w6 6 0x28 0 8 5 0 0 0 1) = true ∧ swMeets 0x29 7 false false cmergeOp (w6 6 0x29 0 8 4 0 0 0 1) = true
    ∧ swMeets 0x2A 0x1FFFF false false cextOp (w6 6 0x2A 0 8 4 0 0 0 4095) = true
    ∧ swMeets 0x2B 0 false true lksOp (w6 6 0x2B 0 8 7 0 0 3 0) = true
    ∧ swMeets 0x2D 0 true false cxpOp (w6 6 0x2D 0 8 4 6 2 0 0) = true ∧ swMeets 0x2E 15 false true cpackOp (w6 6 0x2E 0 8 7 0 0 5 1) = true := by
  decide +kernel
/-- CBR of c9 by c2 under the key of kind 6; the scale of its result is a free value. -/
def cbrF : PFields := pFields (w6 6 0x2C 0 8 9 2 2 4 0)

/-- Of an unreliable operand, whether an operation runs does not depend on its result's scale. -/
theorem swRuns_scale (s : State) (p : Pa) (t : Thr) (f : PFields) (o : SwOp) (hu : o.unreliable = true) (h : o.result.Fits) :
    swRuns p t f o s = swRuns p t f { o with result := { o.result with scale := 0 } } s := by
  have h0 : ({ o.result with scale := 0 } : Tracked).Fits := ⟨h.lgn, h.k, h.level, h.scheme, by simp, h.noise⟩
  simp only [swRuns, swCauses, hu, noiseCause, budget, if_true, objBytes_pack h, objBytes_pack h0]

theorem witness_SchemeSwitchingRuns_bootstrap : ∃ o, cbrOp group 0 (group.thr 0 0) cbrF = some o
    ∧ swForm cbrF 0 true true = true ∧ swRuns 0 0 cbrF o group = true := by
  obtain ⟨o, ho⟩ := Option.isSome_iff_exists.mp (show (cbrOp group 0 (group.thr 0 0) cbrF).isSome = true by decide +kernel)
  have h1 : (cbrOp group 0 (group.thr 0 0) cbrF).all (fun o => o.unreliable && decide (o.result.lgn < 16 ∧ (1 ≤ o.result.k ∧ o.result.k ≤ 64)
      ∧ o.result.level < 64 ∧ o.result.scheme < 8 ∧ o.result.noise < 65536)) = true := by decide +kernel
  have h2 : (cbrOp group 0 (group.thr 0 0) cbrF).all (fun o =>
      swRuns 0 0 cbrF { o with result := { o.result with scale := 0 } } group) = true := by decide +kernel
  have h3 : o.result.scale < 4096 := by
    have : (cbrOp group 0 (group.thr 0 0) cbrF).map (·.result.scale) = some ((freeWords group 0 1).sum % 4096) := rfl
    rw [ho] at this
    have h := Option.some.inj this
    dsimp only at h
    rw [h]; exact Nat.mod_lt _ (by omega)
  rw [ho] at h1 h2
  simp only [Option.all_some, Bool.and_eq_true, decide_eq_true_eq] at h1 h2
  exact ⟨o, ho, by decide +kernel, (swRuns_scale _ _ _ _ o h1.1 ⟨h1.2.1, h1.2.2.1, h1.2.2.2.1, h1.2.2.2.2.1, h3, h1.2.2.2.2.2⟩).trans h2⟩
theorem witness_SchemeSwitchingRuns_word :
    let w := w6 6 0x2C 0 8 9 2 2 4 0;
    wFmt w = 6 ∧ ready 6 0x2C 0 0 w (.k cbrF.kh :: descRegs cbrF true) group = true := by decide +kernel
/-- Two words in two parts; and coefficient 0 of a limb of two, whose second word wraps and is negated. -/
theorem witness_SplitMergeExtract : takeEvery 1 1 [10, 11, 12, 13] = [11, 13] ∧ extractAt 17 2 0 0 [3, 5] = 3 ∧ extractAt 17 2 0 1 [3, 5] = 12 := by
  decide +kernel

/-- An export of c4, once before it opens and once after it has ended. -/
theorem witness_ExportsOpenAndEnd :
    let w := w6 6 0x30 0 8 4 0 0 0 0x1FF;
    let v := w &&& ~~~ BitVec.ofNat 128 (3 * 2 ^ 34 + 1 * 2 ^ 38);
    let f := pFields v;
    wFmt v = 6 ∧ cxptForm f = true ∧ ready 6 0x30 0 0 v (cxptRegs f) group = true ∧ findExport group (BitVec.ofNat 8 f.imm) = none
      ∧ isReleased (group.thr 0 0) = false ∧ pickCause (cxptCauses group (group.thr 0 0) f) = none
      ∧ ready 6 0x30 0 0 v (cxptRegs f) (group.modThr 0 0 fun y => { y with released := some y.pc }) = true
      ∧ ((findExport (openExport group (newExport group 0 0 f)) 255).map (·.timeoutMs)) = some 1 := by decide +kernel

/-! ## The Bow -/

/-- A window or part command: descriptor, home register, staging register and immediate. -/
def wB6 (o cs1 ab ad imm kh : Nat) : IWord := word 11 o 6 (cs1 * 2 ^ 22 + ab * 2 ^ 30 + ad * 2 ^ 34 + kh * 2 ^ 60 + imm * 2 ^ 64)

/-- A format 7 command of the Bow. -/
def wB7 (o mode ad as1 ar rl mi len : Nat) : IWord :=
  word 11 o 7 (mode * 2 ^ 18 + ad * 2 ^ 22 + as1 * 2 ^ 26 + ar * 2 ^ 30 + rl * 2 ^ 34 + mi * 2 ^ 40 + len * 2 ^ 64)

/-- Table 8.7: two 8-byte elements from HBM to the own SPM. -/
def moveWords : List Word :=
  [0x40000000 ||| 0x3000000000000, 0x020000200000, 2, 0, 2, 0, 8, 0, 8, 0, 0, 0, 0, 0, 0, 0]

/-- The group, with a move descriptor at a2's window, four rows in s3, and an index tensor of two entries at a5. -/
def bows : State :=
  let s := group.modThr 0 0 fun y => { y with s := y.s.set 3 4, a := (y.a.set 5 0x020000300000).set 6 (BitVec.ofNat 64 (spmAddr 1 0x400000)) }
  { s with mem := (s.mem.write 0x020000100000 (wordBytes moveWords)).write 0x020000300000 [1, 0, 0, 0, 9] }

def bowMeets (o : Nat) (plan : Pa → Thr → IWord → State → Option BowPlan) (w : IWord) : Bool :=
  match plan 0 0 w bows with
  | some b => ready 11 o 0 0 w b.regs bows && bowRuns 0 0 b bows && b.units ≠ []
  | none => false

theorem witness_BowCommandsQueue :
    bowMeets 0 (windowPlan false) (wB6 0 1 0 3 0 0) = true ∧ bowMeets 1 (windowPlan true) (wB6 1 1 4 3 0 0) = true
    ∧ bowMeets 2 (partPlan false) (wB6 2 1 0 3 0x4080 0) = true ∧ bowMeets 3 (partPlan true) (wB6 3 1 4 3 0 0) = true
    ∧ bowMeets 8 bkeyPlan (wB6 8 1 0 0 0 0) = true ∧ bowMeets 0x10 bcpyPlan (wB7 0x10 0 3 4 0 0 0 4104) = true := by decide +kernel
theorem witness_BowCommandsQueue_tensors :
    bowMeets 0x11 bmovtPlan (wB7 0x11 0 0 0 2 0 0 0) = true ∧ bowMeets 0x12 bgathPlan (wB7 0x12 0 3 4 5 3 0 2) = true
    ∧ bowMeets 0x13 bscatPlan (wB7 0x13 2 4 3 5 3 0 2) = true
    ∧ ((bcpyPlan 0 0 (wB7 0x10 0 3 4 0 0 0 0) bows).map fun b => (b.units, bowRuns 0 0 b bows)) = some ([], true) := by decide +kernel
/-- BCAN without a unit in flight, and with one. -/
theorem witness_BowCommandsQueue_cancel :
    let w := wB7 0x18 0 0 0 0 0 0 0;
    ready 11 0x18 0 0 w [] bows = true ∧ wFmt w = 7 ∧ field w 16 112 = 0 ∧ (bows.pa 0).bow.tags.any (·.thr = 0) = false
      ∧ ready 11 0x18 0 0 w [] (bows.modPa 0 fun x => { x with bow := { x.bow with tags := [{ cmd := 0, thr := 0, unit := { pieces := [], fetch := true, cls := .scratch } }] } }) = true := by
  decide +kernel
/-- A gather's index beyond the table reads the last row; BMOVT moves two elements. -/
theorem test_gather_clamps : ((bgathPlan 0 0 (wB7 0x12 0 3 4 5 3 0 2) bows).map fun b =>
    (b.clp, (b.units.flatMap (·.pieces)).map fun k => (k.src, k.dst, k.len))) =
      some (true, [(.mem 0x40000008, 0x020000200000, 8), (.mem 0x40000018, 0x020000200008, 8)]) := by decide +kernel
theorem test_move_elements : ((bmovtPlan 0 0 (wB7 0x11 0 0 0 2 0 0 0) bows).map fun b =>
    (b.units.flatMap (·.pieces)).map fun k => (k.src, k.dst, k.len)) =
      some [(.mem 0x40000000, 0x020000200000, 8), (.mem 0x40000008, 0x020000200008, 8)] := by decide +kernel
/-- A copy is cut at the destination's line. -/
theorem witness_CopyPieces : copyPieces 0x40000000 4090 10 =
    [{ src := .mem 0x40000000, dst := 4090, len := 6 }, { src := .mem 0x40000006, dst := 4096, len := 4 }]
    ∧ (bowUnitsOf bows 0 .scratch (copyPieces 0x40000000 4090 10)).length = 2 := by decide +kernel

/-- A fetch of one unit is queued; requested; the same pair stands in the reuse table; and an egress is requested. -/
def queued (w : IWord) : State := after (.next (match bcpyPlan 0 0 w bows with
  | some b => bowSend bows 0 0 b
  | none => bows))
def requested (w : IWord) : State :=
  match nextUnit (queued w) 0 with
  | some (c, _) => requestUnit (queued w) 0 c []
  | none => queued w
def fetchW : IWord := wB7 0x10 0 3 4 0 0 0 4096
/-- Between the own SPM and that of PA 1. -/
def comeW : IWord := wB7 0x10 0 3 6 0 0 0 8
def goW : IWord := wB7 0x10 0 6 3 0 0 0 8
def reusing : State :=
  ((queued fetchW).modPa 0 fun x => { x with bow := { x.bow with reuse := [(0x200, 0x40000)] } }).putRegField (.pa 0 .bowCfg) 16 1 1
/-- An egress awaits its turn at the read ports that its line lies at. -/
def portsTaken : State := (queued goW).modPa 0 fun x => { x with asks := [], grants := [(.read0, 0x200), (.read1, 0x200)] }

theorem witness_BowUnits_request : nextUnit bows 0 = none
    ∧ ((nextUnit (queued fetchW) 0).map fun e => (reuseHit (queued fetchW) 0 e.1 e.2, sourceLine 0 e.2)) = some (none, none)
    ∧ ((nextUnit reusing 0).map fun e => reuseHit reusing 0 e.1 e.2) = some (some (0x200, 0x40000))
    ∧ ((nextUnit (queued goW) 0).map fun e => (reuseHit (queued goW) 0 e.1 e.2, sourceLine 0 e.2,
        (askRead (.egress e.1.id) 0x200 ((queued goW).pa 0)).1.isSome)) = some (none, some 0x200, true)
    ∧ ((nextUnit portsTaken 0).map fun e => (reuseHit portsTaken 0 e.1 e.2, sourceLine 0 e.2,
        (askRead (.egress e.1.id) 0x200 (portsTaken.pa 0)).1.isSome)) = some (none, some 0x200, false) := by decide +kernel
theorem witness_BowUnits_landing : ([(comeW, true), (goW, false)].all fun e =>
    let s := requested e.1
    match tagOf s 0 ((s.pa 0).bow.nextId - 1) e.2 with
    | some g => !g.cancelled && !g.lost && g.unit.cls ≠ .key && g.unit.bad = [] && unitAnswered s 0 g && unitArrives s 0 g
        && match passAll 0 g.id g.unit.cls (if e.2 then readAsks 0 g.unit else writeAsks s g.unit) s with
          | (some s1, _) => (takeWrite s1 g.unit).1.isSome && (g.unit.pieces.all fun k => k.down s1 = none)
              && g.unit.pieces.flatMap (pieceBad s1 (failingWords s1 none)) = []
          | (none, _) => false
    | none => false) = true := by decide +kernel
/-- An egress carries its bytes; a fetch of given bytes; and a cancelled fetch is one that writes nothing. -/
theorem witness_BowUnits_clauses :
    (match tagOf (requested goW) 0 1 false with
      | some g => g.unit.pieces.all fun k => k.op = .write && region (requested goW) k.dst = .spm 1 0x400000
          && ownSpm 1 k.dst 8 && !homeDown (requested goW) k.dst && (match k.src with | .lit _ => true | _ => false)
      | none => false) = true
    ∧ ownSpm 0 0x020000200000 8 = true
    ∧ ((tagOf ((requested fetchW).modPa 0 (cancelBow 0)) 0 1 true).map (·.cancelled)) = some true := by decide +kernel

/-! ## Channels, combining queues and the Fretboard -/

/-- A word of group 12. -/
def wQ (o q as rs rd lsrc rel len : Nat) : IWord :=
  word 12 o 7 (q * 2 ^ 16 + as * 2 ^ 19 + rs * 2 ^ 23 + rd * 2 ^ 28 + lsrc * 2 ^ 33 + rel * 2 ^ 34 + len * 2 ^ 64)

def msg (off : Nat) (seq : BitVec 32) (words : List Word) : ChMsg := { off := off, bytes := 8 + 8 * words.length, pad := false, seq := seq, words := words }

/-- From thread 0 of PA 0 to thread 0 of PA 1, or back; rings of 256 bytes. -/
def chanOf (p q : Pa) (r : ChRecv) (f : Chan → Chan) : Chan :=
  f { multicast := false, yx := false, drop := false, spa := p, sthr := 0, rthr := 0, rlog := 8, roff := 0x700000, maxp := 248, rmask := 0,
      recvs := [{ r with pa := q }] }

/-- A combining queue of two contributors, its home thread 0 of PA 1. -/
def cqOf (f : Cq → Cq) : Cq := f { op := 2, mi := 0, words := 2, hpa := 1, hthr := 0, roff := 0x710000, cnt := 2 }

/-- PAs 0 and 1 with a channel each way and a combining queue, in queue registers 1, 2 and 3. -/
def talk (r : ChRecv) (f : Chan → Chan) (g : Cq → Cq) : State :=
  let s := { group with net := { group.net with chans := [chanOf 0 1 r f, chanOf 1 0 r f], cqs := [cqOf g] } }
  let put := fun (y : Thread) => { y with q := ((y.q.set 1 (some 0)).set 2 (some 1)).set 3 (some 1024), s := (y.s.set 2 24).set 3 5 }
  let s1 := (s.modThr 0 0 put).modThr 1 0 put
  { s1 with mem := s1.mem.write (spmAddr 0 0) (wordBytes [7, 8, 9]) }

def quiet : State := talk { pa := 0 } id id

def sendMeets (w : IWord) (s : State) : Bool :=
  let f := qFields w
  let y := s.thr 0 0
  sendForm w && ready 12 0x00 0 0 w (sendRegs f) s && match handleChan s (qOf y f.q) with
       | some (i, c) => i = 0 && pickCause (sendCauses 0 0 y f c) = none
           && meets s 0 0 (spmNeeds [((y.ra f.as.val).toNat - spmAddr 0 0, sendLen y f)] [] false ++ if f.rel then [.fence 2] else [])
       | none => false

/-- The sender has placed 240 of the 256 bytes. -/
def ringFull : State := talk { pa := 0, usedSeen := 240 } (fun c => { c with wp := 240 }) id

/-- With length from the word or a register, with and without release; the shortest; and with no room. -/
theorem witness_ChannelInstructions_send :
    ([wQ 0 1 1 0 0 0 0 24, wQ 0 1 1 2 0 1 1 0, wQ 0 1 1 0 0 0 1 8].all fun w => sendMeets w quiet) = true
    ∧ chanPlace (chanOf 0 1 { pa := 0 } id) 32 = some (0, 0)
    ∧ sendMeets (wQ 0 1 1 0 0 0 0 24) ringFull = true
    ∧ (ringFull.chan? 0).map (fun c => chanPlace c 32) = some none := by decide +kernel

def recvMeets (o : Nat) (w : IWord) (s : State) : Bool :=
  let f := qFields w
  (if o = 3 then rfreeForm w else recvForm w) && ready 12 o 1 0 w (if o = 3 then [.q f.q] else [.q f.q, .a f.as, .s f.rs, .s f.rd]) s
    && match handleChan s (qOf (s.thr 1 0) f.q) with
       | some (i, c) => i = 0 && (receiverOf c 1 0).isSome && !c.broken && ((receiverOf c 1 0).all fun r => decide (r.held < 16))
       | none => false

/-- With a message after a pad marker; with none, the receiver live or dropped. -/
theorem witness_ChannelInstructions_receive : ([1, 2].all fun o => [2, 0].all fun rd => [2, 3].all fun rs =>
    [{ pa := 0, arrived := [{ msg 248 0 [] with pad := true }, msg 0 0 [5]] }, { pa := 0 }, { pa := 0, live := false }].all fun r =>
      recvMeets o (wQ o 1 2 rs rd 0 0 0) (talk r id id)) = true
    ∧ (skipPads { pa := 0, arrived := [{ msg 248 0 [] with pad := true }, msg 0 0 [5]] }).arrived = [msg 0 0 [5]] := by decide +kernel
theorem witness_ChannelInstructions_free : recvMeets 3 (wQ 3 1 0 0 0 0 0 0) (talk { pa := 0, taken := [msg 0 0 [5], msg 16 1 [6]] } id id) = true := by
  decide +kernel
/-- Table 10.7. -/
theorem test_ring_wrap : placeAt 16384 15040 6016 9024 3008 = some (0, 1344) ∧ placeAt 16384 3008 6016 13376 3008 = some (3008, 0)
    ∧ placeAt 16384 6016 6016 16384 3008 = none ∧ placeAt 16384 6016 9024 13376 3008 = some (6016, 0) := by decide +kernel
/-- A message travels: sent, delivered with its header, received. -/
theorem test_message :
    let s1 := after (exec (.send 0 0 (wQ 0 1 1 0 0 0 0 24)) quiet);
    let s2 := deliverMessage s1 0 1 {};
    let s3 := after (exec (.recv 1 0 (wQ 1 1 5 4 6 0 0 0)) s2);
    s2.words (spmAddr 1 0x700000) 4 = [24, 7, 8, 9] ∧ (s3.thr 1 0).ra 5 = BitVec.ofNat 64 (spmAddr 1 0x700008) ∧ (s3.thr 1 0).rs 4 = 24
      ∧ (s3.thr 1 0).rs 6 = 0 := by decide +kernel

def cqMeets (o : Nat) (p : Pa) (w : IWord) (s : State) : Bool :=
  let f := qFields w
  (if o = 8 then cqaddForm w else cqwaitForm w) && ready 12 o p 0 w [.q f.q, .a f.as] s
    && match handleCq s (qOf (s.thr p 0) f.q) with
       | some (j, c) => j = 0 && !c.lost && c.hpa = 1 && c.hthr = 0 && (o = 9 || (pickCause (cqaddCauses p (s.thr p 0) f c) = none
           && badPayload s ((s.thr p 0).ra f.as.val).toNat c.words = []
           && meets s p 0 (spmNeeds [(((s.thr p 0).ra f.as.val).toNat - spmAddr p 0, 8 * c.words)] [] false
             ++ if f.rel then [.fence 2] else [])))
       | none => false

theorem witness_CombiningInstructions :
    ([0, 1].all fun rel => [quiet, talk { pa := 0 } id fun c => { c with sent := [(0, 2)] }].all fun s =>
      cqMeets 8 0 (wQ 8 3 1 0 0 0 rel 0) s) = true
    ∧ ([0, 2].map fun n => cqHeld (cqOf fun c => { c with sent := [(0, n)] }) 0 0) = [false, true]
    ∧ ([0, 1].all fun n => cqMeets 9 1 (wQ 9 3 5 0 0 0 0 0) (talk { pa := 0 } id fun c => { c with written := n })) = true
    ∧ ([0, 1].map fun n => roundWritten (cqOf fun c => { c with written := n }) 0) = [false, true] := by decide +kernel
/-- R296: the smaller word of the two contributions; the round is written once both have come. -/
theorem test_combining :
    let s := talk { pa := 0 } id fun c => { c with flying := [{ id := 0, round := 0, words := [7, 8], count := 1 }, { id := 1, round := 0, words := [3, 9], count := 1 }] };
    let s1 := arriveContribution s 0 0 {};
    let s2 := arriveContribution s1 0 0 {};
    (s1.net.cqs.map (·.written)) = [0] ∧ (s2.net.cqs.map (·.written)) = [1] ∧ s2.words (spmAddr 1 0x710000) 2 = [7, 9] := by decide +kernel

/-- A delivery with a pad marker, with a message alone, and a credit. -/
theorem witness_ChannelEvents :
    ([[msg 0 0 [5]], [{ msg 248 0 [] with pad := true }, msg 0 0 [5]]].all fun l =>
      let s := talk { pa := 0, flying := l } id id
      (nextDelivery l).1 = l && (match s.chan? 0 with
        | some c => (c.recv? 1).isSome && itemsFit s c 1 l && mayArrive s (messageFlow 0 l) (messageDest s c 1)
        | none => false)) = true
    ∧ (let s := talk { pa := 0, credits := [16], creditNo := 1 } id id;
      (s.chan? 0).map (fun c => (c.recv? 1).map (·.credits)) = some (some [16])
        ∧ mayArrive s (.credit 0 1 0) (destOf (routed s (paPath 1 0 false))) = true)
    ∧ (let k : CqPart := { id := 3, round := 0, words := [1, 2], count := 1 };
      let s := talk { pa := 0 } id fun c => { c with flying := [k] };
      s.net.cqs.map (fun c => (c.flying[0]?, c.flying.find? (·.id = 3))) = [(some k, some k)]
        ∧ (s.net.cqs.all fun c => mayArrive s (.part 0 3) (cqDest c)) = true) := by decide +kernel

/-- PA 1's ring is full and PA 2's has room; and both threads are blocked on each other. -/
def blocked (f : Chan → Chan) : State :=
  let s := talk { pa := 0, usedSeen := 256 } (fun c => f { c with want := 16, wp := 0 }) id
  let put := fun (i : Nat) (y : Thread) => { y with needs := [.ring i 16] }
  ((s.modThr 0 0 (put 0)).modThr 1 0 (put 1)).modChan 1 fun c => { c with want := 16 }
theorem witness_ChannelEvents_drop :
    let s := blocked fun c => { c with multicast := true, drop := true, recvs := c.recvs ++ [{ pa := 2 }] };
    (s.chan? 0).map (fun c => mayDrop s 0 c 1) = some true := by decide +kernel
theorem witness_ChannelEvents_mutual : blockedBy (blocked id) 0 0 1 0 = true ∧ blockedBy (blocked id) 1 0 0 0 = true
    ∧ ((0, 0) : Pa × Thr) ≠ (1, 0) := by decide +kernel
/-- R298: both threads receive the exception. -/
theorem test_mutual_block : let s := detectBlock (blocked id) 0 0 1 0; (s.thr 0 0).exc.code = (s.thr 1 0).exc.code
    ∧ (s.thr 0 0).exc.code ≠ 0 ∧ (s.thr 0 0).needs = [] := by decide +kernel

/-- An access of PA 0 to PA 1's SPM. -/
def reading : State :=
  group.modPa 0 fun x => { x with ops := [{ id := 4, thr := 0, fpc := 3, unit := .mem, uses := [], defs := [], writes := [], acc := some { addr := spmAddr 1 0, size := 8, kind := .load 2 false } }] }
theorem witness_FretboardEvents :
    (∃ x, (1000, some x) ∈ ({ group with net := { group.net with arbs := [(3, some { credit := [] }), (1000, some { credit := [] })] } } : State).net.arbs)
    ∧ (setFreeze group (.stop 31) true).regBit (freezeReg (.stop 31)) 0 = true
    ∧ ((reading.pa 0).ops.find? (·.id = 4)).isSome = true ∧ ownSpm 0 (spmAddr 1 0) 8 = false
    ∧ ((reading.pa 0).ops.all (·.keyed = none)) = true := ⟨⟨{ credit := [] }, by simp⟩, by decide +kernel⟩
/-- R280: the row first, or the column first. -/
theorem test_route_xy : (paPath 0 5 false).map (fun h => (h.router.val, h.out.val)) = [(0, 2), (1, 3), (17, 0)]
    ∧ (paPath 0 5 true).map (fun h => (h.router.val, h.out.val)) = [(0, 3), (16, 2), (17, 0)] := by decide +kernel

/-! ## Homes, the package cache and the memories -/

/-- PA 0 online, port 0 of CXL mapped with 256 MiB, memory with bytes. -/
def homes : State :=
  let s := run id
  { s with
    mem := ((s.mem.write (spmAddr 0 0xBFFFF8) (leBytes 8 5)).write 0x1000 (leBytes 8 7)).write 0x100000000100 [1, 2, 3]
    st := { s.st with cxl := s.st.cxl.set 0 { linkUp := true, ready := true, mapped := true, cap := 1 } } }

/-- The last word of the own SPM; one past it; a PA that is not online. -/
theorem witness_HomeAccesses_remote : requesterPa (.host 0) = none ∧ requesterPa .soundpost = none
    ∧ 0xBFFFF8 + 8 ≤ spmSize ∧ (homes.pa 0).online = true ∧ badAt homes (spmAddr 0 0xBFFFF8) 8 = none
    ∧ mergeFits homes (spmAddr 0 0xBFFFF8) 8 = true ∧ spmSize < 0xBFFFF9 + 8 ∧ (homes.pa 1).online = false
    ∧ homeDown homes (spmAddr 0 0xBFFFF8) = false
    ∧ ((fun s : State => let ask := SpmAsk.remote (.host 0) 0xBFFFF8 (.read 8);
        (readPort (s.pa 0) (0xBFFFF8 / 4096) (raisedAsk (s.pa 0) ask) (readersBefore (s.pa 0) ask)).isSome) <$>
      [homes, homes.modPa 0 fun x => { x with grants := [(.read0, 0xBFF), (.read1, 0xBFF)] }]) = [true, false] := by decide +kernel
theorem witness_HomeAccesses_far : region homes 0x100000000100 = .far 0 0x100 ∧ populated homes 0x100000000100 3 false = true
    ∧ populated homes 0x100000000100 3 true = true ∧ homeDown homes 0x100000000100 = false ∧ badAt homes 0x100000000100 3 = none := by
  decide +kernel

/-- A line of unit 1 of hub die 0's slice with its first sector, and a fill of it. -/
def lined : State := homes.modSlice 0 fun x =>
  { x with lines := [(16, some { unit := 1, cls := .scratch, count := 1, valid := 1, dirty := 0, last := 0 })] }
def filling : State := homes.modSlice 0 fun x =>
  { x with fills := [{ rq := .host 0, cls := .scratch, addr := 0x1000, acc := some (.read 8) }] }

theorem witness_HomeAccesses_slice :
    ([homes, lined].all fun s => sliceTakes s (.host 0) 0x1000 (.read 8) && sliceTakes s (.bridge 7) 0x1000 (.write [1, 2])
      && (offer s (.host 0) (requestClass (.host 0) .scratch) 0x1000 (.read 8)).1.isSome
      && (offer s (.bridge 7) (requestClass (.bridge 7) .scratch) 0x1000 (.write [1, 2])).1.isSome
      && !readHeld s 0 0x1000 (.read 8)) = true
    ∧ sliceUnit 0x1000 = 1 ∧ hbmHub 0x1000 = 0
    ∧ (lineOf (lined.slice 0) 1).map (fun e => holds e.2 0x1000 8) = some true ∧ hitLine homes 0 0x1000 (.read 8) = none
    ∧ homeDown homes 0x1000 = false ∧ badAt homes 0x1000 8 = none
    ∧ writeWaits homes 0x1000 = false ∧ writeWaits filling 0x1000 = true
    ∧ sliceTakes filling (.bridge 7) 0x1000 (.write [1, 2]) = true := by decide +kernel
/-- A request that its stop does not take: the output there is frozen. -/
theorem witness_HomeAccesses_stop :
    (offer (setFreeze homes (.stop 7) true) (.bridge 7) .scratch 0x1000 (.read 8)).1.isSome = false := by decide +kernel
theorem witness_HomeAccesses_fill : ((filling.slice 0).fills[0]?).map (fun f => (f.addr, f.acc)) = some (0x1000, some (.read 8))
    ∧ (filling.slice 0).waiting = [] ∧ (0x1000 : Nat) % 4096 + 8 ≤ 4096 ∧ 0x1000 < hbmEnd := by decide +kernel
/-- R257's example: the stack, and the slice, of an address. -/
theorem test_hbm_decode : hbmStack 0x40000000 = 16 ∧ hbmUnit 0x40000000 = 10922 ∧ hbmHub 0x40000000 = 2 := by decide +kernel
/-- A write in the slot waits for the fill, and is committed after it. -/
theorem test_waiting_write :
    let s := requestSlice filling (.bridge 7) .scratch 0x1000 (.write [9]) ⟨0, none⟩;
    s.bytes 0x1000 1 = [7] ∧ (after (exec (.cacheFill 0 0) s)).bytes 0x1000 1 = [9] := by decide +kernel

/-- A tracker that may fetch unit 5. -/
def tracking : State :=
  (homes.modSlice 0 fun x => { x with trackers := x.trackers.set 3 (some { rq := .host 0, cls := .plaintext, lastDemand := 4, next := 5, issued := 0, used := 0 }) }).putRegField
    (.slice 0 .cfg) 0 8 0x11
theorem witness_MemoryEvents_prefetch :
    ((tracking.slice 0).trackers[3]).map (fun x => prefetches tracking 0 x.rq x.cls && decide (x.next ≤ x.lastDemand + prefetchDepth tracking 0)
      && decide (unitAddr 0 x.next + 4096 ≤ hbmEnd) && !retired tracking (unitAddr 0 x.next) 4096 && allocates (tracking.slice 0) x.next
      && decide (x.issued < 255) && !hasUnit (tracking.slice 0) x.next) = some true
    ∧ (∀ i, i < 32 → (chanQueue tracking.st.hbms[(hbmStack (unitAddr 0 5)).val] i false).length < 32)
    ∧ (admitAt (stopReq (prefetchStop 0 5) 5 (.host 0) (unitAddr 0 5) (.read 4096)) tracking).1.isSome = true := by decide +kernel

def bankOf (b : BankState) : State := homes.modSlice 0 fun x => { x with banks := x.banks.set 15 b }
theorem witness_MemoryEvents_banks :
    ([(BankState.on), .off, .draining, .forced].all fun b => ((bankOf b).slice 0).banks[15] = b && ((bankOf b).slice 0).waiting = []) = true := by
  decide +kernel
theorem witness_MemoryEvents_hbm : hbmStack 0x1000 = 1 ∧ (homes.slice (hbmHub 0x1000)).fills = []
    ∧ ([3, 4].all fun n => sget (fun _ => 0) (({ (homes.st.hbms[1]) with postponed := [(64, n)] }) : Hbm).postponed 64 = n) = true := by
  decide +kernel
/-- R270: the states of a stack's temperature, from state 0. -/
theorem test_hbm_temperature : ([81, 110].map fun n => ((after (exec (.hbmTempReport 0 (BitVec.ofNat 8 n)) homes)).st.hbms[0]).therm) = [0, 3] := by
  decide +kernel
/-- A retirement write that Tailpiece has begun. -/
theorem witness_MemoryEvents_retire :
    let s := { homes with tpc := { homes.tpc with active := [{ off := (Reg.hbm 23 (.ret 63)).off, value := 0x1000005 }] } };
    s.tpc.active.find? (·.off = (Reg.hbm 23 (.ret 63)).off) = some { off := (Reg.hbm 23 (.ret 63)).off, value := 0x1000005 }
      ∧ s.tpc.waiting = [] := by decide +kernel
theorem witness_MemoryEvents_cxl : homes.regBit (.cxl .cfg) (1 + 1) = true ∧ homes.rp.prog = none
    ∧ (homes.putRegField (.cxl .cfg) 1 2 0).regBit (.cxl .cfg) (1 + 1) = false := by decide +kernel

/-- An entry of the merge buffer, written last in cycle 0, with a request to drain or without one, in cycle `n`. -/
def merging (due : Bool) (n : Nat) : State := homes.modPa 0 fun x =>
  { x with merge := [{ line := 3, mask := 0xFF, due := due }], cycle := n, asks := if due then [{ ask := .drain 3, since := 0 }] else [] }
theorem witness_MemoryEvents_merge : mergeIdleLimit homes 0 = 256
    ∧ ((merging false 256).pa 0).merge[0]? = some { line := 3, mask := 0xFF } ∧ ((merging false 256).pa 0).cycle = 256
    ∧ mergeIdleLimit (homes.putRegField (.pa 0 .spmCfg) 0 9 0) 0 = 0
    ∧ drainNext ((merging true 9).pa 0) = some { line := 3, mask := 0xFF, due := true }
    ∧ (drainPorts { line := 3, mask := 0xFF, due := true } ((merging true 9).pa 0)).isSome = true
    ∧ (merging true 9).regBit (.pa 0 .ctrl) 0 = false ∧ drainNext ((merging false 9).pa 0) = none
    ∧ drainNext (drainAll ((merging false 9).pa 0)) = some { line := 3, mask := 0xFF, due := true } := by decide +kernel
/-- A correction waits for the write port of the last line, which is free, or taken. -/
theorem witness_MemoryEvents_ports : ∀ l ∈ [([] : List (SpmPort × Nat)), [(.write, 3071)]],
    let s := homes.modPa 0 fun x => { x with asks := [{ ask := .correct 1572863, since := 0 }], grants := l };
    (s.pa 0).asks[0]? = some { ask := .correct 1572863, since := 0 }
      ∧ portFree (s.pa 0) .write (8 * 1572863 / 4096) (raisedAsk (s.pa 0) (.correct 1572863)) = decide (l = []) := by decide +kernel
theorem witness_MemoryEvents_quiesce :
    let s := homes.putRegField (.pa 1 .ctrl) 0 1 1;
    s.regBit (.pa 1 .ctrl) 0 = true ∧ (s.pa 1).ops = [] ∧ (s.pa 1).merge = []
      ∧ (s.thr 1 7).cancelled = false ∧ ((List.finRange 8).all fun t => !(s.thr 1 t).cancelled && !(s.thr 1 t).undelivered) = true := by decide +kernel

/-! ## Registers and clocks -/

def ctlAddr (r : Reg) : BitVec 48 := BitVec.ofNat 48 (ctlBase + r.off)

/-- A register without RWP bits, one with; a write under way at the latter, and eight elsewhere. -/
def busyTpc (l : List Nat) : State := { live with tpc := { live.tpc with active := l.map fun o => { off := o, value := 1 } } }

theorem witness_RegisterWrites_plain :
    ([Reg.hif .evt, .peg .evt, .hif .cfg].all fun r => plainReg r && Reg.at? r.off = some r && region live (ctlAddr r).toNat = .ctl r.off) = true
    ∧ (Reg.hif .evt).spec.rwp = 0 ∧ (Reg.hif .cfg).spec.rwp ≠ 0 ∧ live.tpc.waiting = []
    ∧ mayAccept live (Reg.hif .cfg).off = true ∧ mayAccept (busyTpc [(Reg.hif .cfg).off]) (Reg.hif .cfg).off = false
    ∧ mayAccept (busyTpc (upFrom 0 8)) (Reg.hif .cfg).off = false ∧ mayAccept (busyTpc (upFrom 0 7)) (Reg.hif .cfg).off = true := by decide +kernel
theorem witness_RegisterWrites_nowhere :
    region live (0x3F0001FFFFF8 : BitVec 48).toNat = .ctl 0x1FFFFF8 ∧ (Reg.at? 0x1FFFFF8).isNone = true ∧ region live 0x40000000 = .hbm := by
  decide +kernel
theorem witness_RegisterWrites_fields :
    ([Reg.pa 127 (.thHandler 7), .pa 127 (.thExc 7), .glb .clkStat].all fun r => region live (ctlAddr r).toNat = .ctl r.off && Reg.at? r.off = some r) = true
    ∧ bit (0x400 : Word) 10 = true := by decide +kernel
/-- One write under way, alone or with another waiting behind it. -/
theorem witness_RegisterWrites_complete : ([([] : List RwpWrite), [{ off := (Reg.hif .cfg).off, value := 7 }]].all fun l =>
    let s := { busyTpc [(Reg.hif .cfg).off] with tpc := { (busyTpc [(Reg.hif .cfg).off]).tpc with waiting := l } };
    s.tpc.active.find? (·.off = (Reg.hif .cfg).off) = some { off := (Reg.hif .cfg).off, value := 1 } && s.tpc.active.length ≤ 8
      && s.tpc.waiting = l && (ctlAddr (.hif .cfg)).toNat = ctlBase + (Reg.hif .cfg).off) = true := by decide +kernel
theorem witness_RegisterWrites_pll : live.clk.live.getLsbD 26 = true ∧ live.clk.powered = true ∧ live.clk.inReset = false
    ∧ (after (exec (.pllLossOfLock 26) live)).clk.live.getLsbD 26 = false ∧ (after (exec (.pllLossOfLock 26) live)).clk.stopped.getLsbD 26 = false
    ∧ Reg.at? (Reg.brg 7 .cfg).off = some (.brg 7 .cfg) ∧ mayAccept live (Reg.brg 7 .cfg).off = true := by decide +kernel
/-- R38: a write of one clears a sticky bit, unless hardware sets it in that cycle (R15), and the live bit stays. -/
theorem test_sticky_bits :
    let s := after (exec (.pllLossOfLock 3) live);
    let u := registerWrite s (ctlAddr (.glb .clkStat)).toNat (BitVec.ofNat 64 (2 ^ 35));
    s.clk.sticky = 8 ∧ (u 0).clk.sticky = 0 ∧ (u (BitVec.ofNat 64 (2 ^ 35))).clk.sticky = 8 ∧ (u 0).clk.live = s.clk.live := by decide +kernel

/-! ## Ethernet and the handshake -/

/-- A second of service: Soundpost and the Drone run, both ports are up with an address, and port A's slot 0 has session 7. -/
def hosts (f : Session → Session) : State :=
  let sess : Session := { sid := 7, control := true, entry := none, okm := [], top := 0, seen := [0], tx := 1 }
  let port : EthPort := { linkUp := true }
  let cfg : Word := BitVec.ofNat 64 (1 + 2 ^ 14 + 2 ^ 15)
  let s := group
  { s with
    spt := { s.spt with ready := true, idOk := true, droneOk := true }
    drone := { s.drone with selfTest := true }
    host := { s.host with eth := #v[port, port], sessions := s.host.sessions.set 0 (some (f sess)) }
    tpc := { s.tpc with stored := [((Reg.hif (.portCfg 0)).off, cfg), ((Reg.hif (.portCfg 1)).off, cfg), ((Reg.hif (.ip4 0)).off, 5)] } }

def server : State := hosts id

def frame (v6 : Bool) (target : BitVec 128) : Frame :=
  { port := 0, macsecOk := false, vlan := none, v6 := v6, fragment := false, target := target, srcMac := 9, srcIp := 8 }

/-- Longest echo, its own address, another one. -/
theorem witness_Handshakes_frames :
    ([frame false 5, frame true 0].all fun f => frameTaken server f && ownAddress server f && echoFits f (List.replicate 100 1)) = true
    ∧ echoFits (frame false 5) (List.replicate 8293 1) = false ∧ ownAddress server (frame false 6) = false
    ∧ ethClocked server 1 = true ∧ ethClocked server 0 = true := by decide +kernel

/-- Four handshakes at port B. -/
def knocking (control : Bool) : State :=
  let h := fun n : Nat => ({ port := 1, control := control, sid := BitVec.ofNat 32 (20 + n), th := [], okm := [] } : Handshake)
  { server with host := { server.host with handshakes := [h 0, h 1, h 2, h 3] } }

/-- A key whose coefficients are all 0. -/
def kemKey : List Byte := List.replicate 1184 0

theorem leNat_zeros : ∀ n : Nat, leNat (List.replicate n (0 : Byte)) = 0
  | 0 => rfl
  | n + 1 => by
    have h := leNat_zeros n
    show (0 : Byte).toNat + 256 * leNat (List.replicate n 0) = 0
    rw [h]; rfl

theorem coef12_zeros (n i : Nat) : coef12 (List.replicate n 0) i = 0 := by
  rw [coef12, List.drop_replicate, List.take_replicate, leNat_zeros, Nat.zero_div]

theorem kemKey_ok : kemKeyOk kemKey = true := by
  rw [kemKeyOk, List.all_eq_true]
  intro i _
  rw [kemKey, coef12_zeros]; rfl

theorem helloStatus_kemKey (s : State) (e : EPort) (role : BitVec 8) :
    helloStatus s e role 0 (List.replicate 32 1) (List.replicate 32 2) kemKey =
      if role ≠ 1 ∧ role ≠ 2 then 3 else if 4 ≤ s.host.handshakes.length then 2
      else if (if role = 1 then 1 else 7) ≤ roleCount s e (role = 1) then 1 else 0 := by
  have h : kemKey.length = 1184 := List.length_replicate
  rw [helloStatus, kemKey_ok, h]
  simp only [List.length_replicate, ne_eq, not_true_eq_false, or_false, Bool.not_true, Bool.false_eq_true]

theorem witness_Handshakes_hello : datagramTaken server hdr.toDatagram = true ∧ datagramTaken server { hdr.toDatagram with port := 1, target := 0 } = true
    ∧ datagramTaken server { hdr.toDatagram with fragment := true } = false ∧ hdr.outerOk = true ∧ handshakesServed server = true
    ∧ helloStatus server 1 1 0 (List.replicate 32 1) (List.replicate 32 2) kemKey = 0
    ∧ helloStatus server 0 1 0 (List.replicate 32 1) (List.replicate 32 2) kemKey = 1
    ∧ helloStatus (knocking false) 1 2 0 (List.replicate 32 1) (List.replicate 32 2) kemKey = 2
    ∧ helloStatus server 1 3 0 (List.replicate 32 1) (List.replicate 32 2) kemKey = 3 := by
  simp only [helloStatus_kemKey]; decide +kernel

/-- Entry 7 admits observers only. -/
def closed : State :=
  let s := knocking true
  { s with tpc := { s.tpc with stored := ((Reg.hif (.hostRole 7)).off, 1) :: s.tpc.stored } }

/-- Under open mode every host is admitted; and no host with control. -/
theorem witness_Handshakes_finish :
    ([knocking false, closed].all fun s => (s.host.handshakes.find? fun h => h.sid = 23 && h.port = 1).isSome && datagramTaken s { hdr.toDatagram with port := 1, target := 0 }
      && freeSlot s 1 = some 8 && soundpostUp s && seqsLeft s && s.rp.exports = []) = true := by decide +kernel
theorem witness_Handshakes_finish_admission (d : List Byte) :
    admission (knocking false) false d = some none ∧ admission closed true d = none := by
  have h : openMode (knocking false) = true ∧ openMode closed = false := by decide +kernel
  have k : ∀ i : Fin 8, (bit (closed.rwp (.hif (.hostRole i))) 0 && bit (closed.rwp (.hif (.hostRole i))) 1) = false := by decide +kernel
  refine ⟨by simp [admission, h.1], ?_⟩
  have n : admitting closed true d = none := by
    simp only [admitting, List.find?_eq_none]
    intro i _ g
    have := k i
    simp only [Bool.and_eq_true, Bool.or_eq_true, Bool.not_true, Bool.false_eq_true, false_or] at g
    rw [g.1.1, g.2] at this; exact absurd this (by decide)
  simp [admission, h.2, n]

/-- FIPS 202's digest of the empty message. -/
theorem test_sha3 : (sha3_384 []).take 4 = [0x0C, 0x63, 0xA7, 0x5B] := by decide +kernel
theorem witness_Handshakes_timeouts :
    let s := { server with host := { server.host with peg := server.host.peg.set 63 1 } };
    (s.sess 0).map (·.control) = some true ∧ slotPort 0 = 0 ∧ pegOwner s.host.peg[63] = portOwner 0 := by decide +kernel

/-! ## Host requests -/

/-- The request of header `hdr` runs. -/
def runs (b : GhtBody) (s : State) : Bool :=
  match s.sess 0 with
  | some x => hosted s hdr b 0 x
  | none => false

/-- Its access is taken. -/
def takes (b : GhtBody) (c : StreamClass) (a : Nat) (acc : Access) (s : State) : Bool :=
  match s.sess 0 with
  | some x => hostTakes (received s hdr b 0 x) 0 c a acc
  | none => false

def asked : Asker := { port := 0, sid := 7, control := true }

theorem witness_HostRequests_refused : datagramTaken live hdr.toDatagram = false
    ∧ (match server.sess 0 with | some x => arrives server hdr 0 x | none => false) = true
    ∧ (GhtBody.regRead []).fits = false ∧ (GhtBody.regRead [0]).fits = true ∧ (GhtBody.progCancel).fits = true
    ∧ (let s := hosts fun x => { x with control := false };
       (match s.sess 0 with | some x => arrives s hdr 0 x && !(x.control || GhtBody.observer .progCancel) | none => false) = true) := by
  decide +kernel
theorem witness_HostRequests_registers :
    let l := [Reg.hif .evt, .peg .evt, .drn .cnt].map fun r => (BitVec.ofNat 64 (ctlBase + r.off), r);
    runs (.regRead (l.map (·.1))) server = true ∧ (l.all fun e => hostReads asked e.1 e.2) = true
    ∧ runs (.regRead (l.map (·.1) ++ 4 :: [8])) server = true ∧ (4 : Word).toNat % 8 ≠ 0 ∧ (8 : Word).toNat < ctlBase
    ∧ ctlBase + 0x2000000 ≤ (0x3F0002000000 : Word).toNat ∧ (0x3F0002000000 : Word).toNat % 8 = 0
    ∧ runs (.regWrite (l.map fun e => (e.1, 1))) server = true ∧ server.tpc.active = [] ∧ server.tpc.waiting = []
    ∧ (l.all fun e => hostWrites asked e.1 e.2 && e.2.spec.rwp = 0) = true
    ∧ (let r := Reg.hif .cfg; let a := BitVec.ofNat 64 (ctlBase + r.off);
       runs (.regWrite [(a, 1)]) server = true ∧ hostWrites asked a r = true ∧ r.spec.rwp ≠ 0 ∧ r.off = a.toNat - ctlBase) := by decide +kernel

/-- An uncorrectable word at 0x2008. -/
def spoiled : State := { server with mem := { server.mem with unc := [0x2008] } }

theorem witness_HostRequests_memory :
    ([(0x1000, 8, 0), (0x1000, 8192, 3), (0x1000, 0, 0), (0x1000, 8200, 0), (0x1000, 12, 0), (0x1000, 8, 4), (0x1004, 8, 0)].all fun e =>
      runs (.memRead (BitVec.ofNat 64 e.1) (BitVec.ofNat 32 e.2.1) (BitVec.ofNat 8 e.2.2)) server) = true
    ∧ memRefusal server 0x1004 8 false = some .align ∧ memRefusal server (hbmEnd - 8) 16 false = some .window
    ∧ takes (.memRead (BitVec.ofNat 64 (hbmEnd - 8)) 8 0) .scratch (hbmEnd - 8) (.read 8) server = true ∧ badAt server 0x1000 8192 = none
    ∧ runs (.memRead 0x2000 16 0) spoiled = true ∧ takes (.memRead 0x2000 16 0) .scratch 0x2000 (.read 16) spoiled = true ∧ badAt spoiled 0x2000 16 = some 0x2008
    ∧ runs (.memWrite 0x1000 3 (leBytes 8 5)) server = true ∧ memRefusal server 0x1004 8 true = some .align
    ∧ takes (.memWrite 0x1000 3 (leBytes 8 5)) .plaintext 0x1000 (.write (leBytes 8 5)) server = true
    ∧ takes (.memWrite (BitVec.ofNat 64 (spmAddr 1 0xBFFFF8)) 0 (leBytes 8 5)) .scratch (spmAddr 1 0xBFFFF8) (.write (leBytes 8 5)) server = true := by decide +kernel
theorem witness_HostRequests_keys :
    runs (.keyWrite 0x1000 0 [1]) server = true ∧ runs (.keyWrite 0x1000 0x1000 [1]) server = true ∧ keyDetail [1] ≠ 0
    ∧ region server 0x2000 = .hbm ∧ populated server 0x2000 1 true = true ∧ takes (.keyWrite 0x1000 0x1000 [1]) .key 0x2000 (.write [1]) server = true := by decide +kernel
/-- DOORBELL, WATCH and the requests of the session. -/
theorem witness_HostRequests_words :
    ([.doorbell 0x1000 5, .watch 0x1000 15, .unwatch 15, .eventAck 3, .macsecKey 1 0 0 (List.replicate 32 1) 0 (List.replicate 12 0),
      .macsecKey 0 0 0 (List.replicate 32 1) 0 (List.replicate 12 0), .macsecKey 2 0 0 (List.replicate 32 1) 0 (List.replicate 12 1),
      .attest (List.replicate 32 7), .ping, .close].all fun b => runs b server) = true
    ∧ takes (.doorbell 0x1000 5) .scratch 0x1000 (.atomic .add 5) server = true ∧ badAt server 0x1000 8 = none
    ∧ takes (.watch 0x1000 15) .scratch 0x1000 (.read 8) server = true ∧ region server 0x1000 = .hbm ∧ watchCount server 0 15 < 64
    ∧ allZero (List.replicate 12 0) = true ∧ findSid server 7 = some 0 ∧ slotPort 0 = 0 := by decide +kernel
/-- A watch with a value to send, of a session with 0 or 64 events. -/
theorem witness_HostRequests_events : ([0, 64].all fun n =>
    let s := hosts fun x => { x with watches := x.watches.set 15 (some { addr := 0x1000, due := some 9 }),
                                     events := List.replicate n { eseq := 4, code := 1, args := [] } }
    match s.sess 0 with
    | some x => (x.watches[15]).map (·.due) = some (some 9) && x.events.length = n && (n = 0 || (x.events.find? (·.eseq = 4)).isSome) && seqsLeft s && x.tx < 2 ^ 40
    | none => false) = true := by decide +kernel
/-- DOORBELL answers the old value; a repeat of the read reads again. -/
theorem test_doorbell :
    let s := { server with mem := server.mem.write 0x1000 (leBytes 8 37) };
    let u := after (exec (.doorbell hdr 0x1000 5) s);
    u.word 0x1000 = 42 ∧ u.outbox.getLast?.map (fun m => match m with | .response _ _ _ i st _ d => (i, st, d.take 2) | _ => (0, .busy, [])) = some (9, Status.ok, [37, 0]) := by
  decide +kernel
/-- R318: a list of reads stops at the first that fails, and its index is the detail. -/
theorem test_read_list :
    (readList asked [BitVec.ofNat 64 (ctlBase + (Reg.peg .evt).off), 4] 0 server []).st = .align
    ∧ (readList asked [BitVec.ofNat 64 (ctlBase + (Reg.peg .evt).off), 4] 0 server []).detail = 1 := by decide +kernel

/-! ## Programs and exports -/

/-- Table 4.1: an image of four sections that starts thread 3 of PA 0 with s1 = 0x11, at 0x100000; its digest was computed
from FIPS 202. -/
def imageHead : List Word :=
  [0x474D4953494E4F57, 0x400010001, 0x0, 0x5000, 0x1, 0x0, 0x0, 0x0, 0x2768596672CE726D, 0xBE6E04C6B2C60EF7, 0xB6A0C81D397D8520,
   0x6714686A71D58B10, 0xE384AC6DB48724A4, 0xB851123F2B8A17BC, 0x0, 0x0]
def imageTable : List Word :=
  [0xFFFFFFFF00000001, 0x1000, 0x10, 0x0, 0x2, 0x2000, 0x20, 0x0, 0x3, 0x3000, 0x20, 0x0, 0x4, 0x4000, 0x28, 0x0]

/-- Session 7 has asked for the load of the image, whose modulus table has `q` as its one modulus. -/
def loading (q : Word) : State :=
  let s := server
  let m1 := (s.mem.write 0x100000 (wordBytes (imageHead ++ imageTable))).write 0x102000 (wordBytes [0x1010001, q, 14353607, 12])
  { s with
    mem := m1.write 0x104000 (wordBytes [1, 0x10300, 0x11, 0x22, 0x33])
    rp := { s.rp with load := some { sid := 7, reqId := 9, addr := 0x100000, timeoutS := 0 } } }

theorem witness_ProgramRequests_load :
    server.rp.prog = none ∧ server.rp.load = none ∧ runs (.progLoad 0x100000 0) server = true ∧ runs (.progLoad 0x100000 0) (loading 0) = true
    ∧ (loading 0).rp.load.isSome = true ∧ (loading 0).rp.prog = none ∧ (loading 0).pas.all paQuiet = true ∧ soundpostUp (loading 0) = true
    ∧ (loading 0).spt.restart = none := by decide +kernel

/-- The code that stops a load, 0 for none. -/
def loadCode (s : State) : Nat :=
  match (runLoad s 0x100000).res with
  | .ok _ => 0
  | .error f => f.code

/-- The image as it is; with another modulus its digest is not that of its content. -/
theorem witness_ProgramRequests_loaded : loadCode (loading 16801793) = 0 := by decide +kernel
theorem witness_ProgramRequests_stopped : loadCode { loading 0 with mem := {} } = 2 := by decide +kernel

/-- A resident program on PA 0, with a cancel that waits. -/
def resident (st : Completion) (waits : List CancelWait) : State :=
  { server with rp := { server.rp with prog := some { mask := 1, faultStop := false, digest := [], timeoutS := 5, status := st, waits := waits } } }

theorem witness_ProgramRequests_cancel :
    ([server, loading 0, resident .running [], resident .ended []].all fun s => runs .progCancel s && runs .progUnload s) = true
    ∧ (resident .running []).rp.load = none ∧ ((resident .running []).thr 0 0).active = true
    ∧ (resident .running []).regBit (.pa 0 .ctrl) 0 = false := by decide +kernel
theorem witness_ProgramRequests_complete : ([true, false].all fun b =>
    let s := (resident .running [{ sid := 7, reqId := 9, unload := b }]).modThr 0 0 fun y => { y with st := .ended }
    match s.rp.prog with
    | some q => quietProgram s q && q.waits ≠ [] && (findSid s 7).isSome && seqsLeft s
    | none => false) = true := by decide +kernel

/-- Export 255 of c4 to 0x50000000; unbound, bound to slot 0 with an answer, covered or not, or bound elsewhere. -/
def exporting (f : Export → Export) : State :=
  let e : Export := { chan := 255, pa := 0, thr := 0, fpc := 5, cd := 8, desc := one 0 1 false 5 0x20, ab := 0x50000000, timeoutMs := 1, altTag := none }
  let s := server.modThr 0 0 fun y => { y with wait := .exporting 255 }
  { s with rp := { s.rp with exports := [f e] } }

def answer : Desc := one 0 1 false 5 0x30

theorem witness_ProgramRequests_resend : runs (.exportResend 255 0x10 0x2000) (exporting id) = true
    ∧ 0x10 + 0x2000 ≤ objBytes (exporting id) (one 0 1 false 5 0x20)
    ∧ exportPieces (0x2000 / 8192 + 1) 0x10 0x2000 = [(0x10, 0x2000)]
    ∧ badAt (exporting id) (dBase (one 0 1 false 5 0x20) + 0x10) 0x2000 = none
    ∧ region (exporting id) (dBase (one 0 1 false 5 0x20) + 0x10) = .hbm := by decide +kernel
theorem witness_ProgramRequests_begin :
    runs (.answerBegin 255 answer) (exporting id) = true ∧ runs (.answerBegin 254 answer) (exporting id) = true
    ∧ (findExport (exporting id) 254).isNone = true
    ∧ runs (.answerBegin 255 answer) (exporting fun e => { e with bound := some 3 }) = true
    ∧ (findExport (exporting id) 255).map (fun e => answerFits (exporting id) e answer) = some true
    ∧ (findExport (exporting id) 255).map (fun e => answerFits (exporting id) e (one 0 1 false 6 0x30)) = some false := by decide +kernel
theorem witness_ProgramRequests_answer :
    let s := exporting fun e => { e with bound := some 0, answer := some answer };
    let t := exporting fun e => { e with bound := some 0, answer := some answer, covered := [(0, 0x10000)] };
    runs (.answerData 255 0xFFFF [1]) s = true ∧ objBytes s answer = 0x10000 ∧ region s (0x50000000 + 0xFFFF) = .hbm
    ∧ runs (.answerEnd 255) s = true ∧ runs (.answerEnd 255) t = true ∧ runs (.decline 255) s = true ∧ runs (.decline 255) (exporting id) = true
    ∧ (findExport s 255).map (fun e => coversAll (e.covered.length + 1) e.covered (objBytes s answer) 0) = some false
    ∧ (findExport t 255).map (fun e => coversAll (e.covered.length + 1) e.covered (objBytes t answer) 0) = some true := by decide +kernel

/-! ## The Bridge -/

/-- Device `own` of a cascade of `n`, every port as `x`. -/
def cascade (own n : Nat) (x : Bridge) : State :=
  { group with brg := { group.brg with ports := Vector.replicate 8 x, devaddr := BitVec.ofNat 9 (256 + own), sysCount := n } }

def up : Bridge := { st := .up, width := 2 }

def linked (st : BrgState) : State := cascade 1 4 { st := st, width := 1 }

/-- The port enabled or not, in each of its states. -/
theorem witness_BridgeLinks_states :
    brgAlive live 7 = true ∧ (live.brg.ports[7]).st = .down
    ∧ brgAlive { live with tpc := { live.tpc with stored := [((Reg.brg 7 .cfg).off, 0)] } } 7 = false
    ∧ bit (live.rwp (.brg 7 .cfg)) 1 = true ∧ bit (({ live with tpc := { live.tpc with stored := [((Reg.brg 7 .cfg).off, 1)] } } : State).rwp (.brg 7 .cfg)) 1 = false
    ∧ ([BrgState.down, .training, .ident, .up, .retrain].all fun st => (linked st).brg.ports[7].st = st) = true := by decide +kernel
/-- A wrong peer, a right one. -/
theorem witness_BridgeLinks_wiring :
    let id1 := fun port : BitVec 3 => (after (exec (.bridgeIdent 2 9 port 0 true) (linked .ident))).brg.ports[2];
    (id1 3).miswired = false ∧ (id1 6).miswired = true := by decide +kernel

def flit (crc : Bool) (seq : BitVec 12) (ty : BitVec 4) (nak : Bool) : Flit :=
  let f := sealed { crc := 0, seq := seq, ack := 4, ackV := true, nak := nak, vc := 0, ftype := ty, side := 0, payload := zeroBytes 256 }
  if crc then f else { f with crc := ~~~ f.crc }

/-- The check value of CRC-32C, that of the nine digits. -/
theorem test_crc : crc32c [0x31, 0x32, 0x33, 0x34, 0x35, 0x36, 0x37, 0x38, 0x39] = 0xE3069283 := by decide +kernel
set_option maxRecDepth 20000 in
/-- A failed CRC, a gap, one that came before, the next in order with the sequence number at its top, an idle flit. -/
theorem witness_BridgeLinks_flits : (seqGap 4095 0 < 2048) ∧ 2048 ≤ seqGap 4095 4094
    ∧ ([flit false 4095 1 false, flit true 0 1 false, flit true 4094 1 false, flit true 4095 1 false, flit true 0 0 false, flit true 0 0 true].map
        fun f => (f.crcOk, decide (f.ftype = 0), decide (f.seq = 4095), f.nak)) =
      [(false, false, true, false), (true, false, false, false), (true, false, false, false), (true, false, true, false), (true, true, false, false),
       (true, true, false, true)] := by decide +kernel
set_option maxRecDepth 20000 in
/-- R340: an acknowledgement of flit 4 frees flits up to it and keeps flit 5; a nak sends flit 5 again. -/
theorem test_flit_replay :
    let s := cascade 1 4 { up with replay := [flit true 3 1 false, flit true 4 1 false, flit true 5 1 false], fails := 15 };
    let u := receiveFlit s 0 (flit true 0 0 true) 3;
    (u.brg.ports[0]).replay.map (·.seq) = [5] ∧ (u.brg.ports[0]).st = .up ∧ u.outbox.length = s.outbox.length + 1 := by decide +kernel

def tok (addr status : Nat) (arg : Word) : Packet := token addr status arg

theorem xor_one_ne (x : Word) : x ^^^ 1 ≠ x := by
  intro h
  have := congrArg (fun y => y ^^^ x) h
  rw [BitVec.xor_comm x 1, BitVec.xor_assoc, BitVec.xor_self] at this
  exact absurd this (by decide)

/-- A master or not, with a program or without, in each phase. -/
def enumAt (phase : EnumPhase) (master : Bool) (st1 : BrgState) : State :=
  let s := cascade 0 1 up
  { s with brg := { s.brg with enumPhase := phase, mstrPin := master, ports := s.brg.ports.set 1 { st := st1 } } }
theorem witness_Enumeration_start :
    ([true, false].all fun m => isMaster (enumAt .none m .up) = m) = true ∧ (enumAt .none true .up).brg.enumPhase = .none
    ∧ programHere (enumAt .none true .up) = false ∧ ((enumAt .none true .down).brg.ports[1]).st ≠ .up
    ∧ programHere { enumAt .none true .up with rp := (resident .running []).rp } = true
    ∧ portUsable (enumAt .none true .up) 1 = true ∧ (enumAt .none true .up).brg.autoEnumDone = false
    ∧ bit (({ enumAt .none true .up with tpc := { live.tpc with stored := [((Reg.sys .cfg).off, 0)] } } : State).rwp (.sys .cfg)) 1 = false
    ∧ bit ((enumAt .none true .up).rwp (.sys .cfg)) 1 = true := by decide +kernel
theorem witness_Enumeration_tokens :
    asleep (enumAt .none false .up) = false ∧ ([0, 1].all fun n : Nat => ((enumAt .none false .up).brg.ports.toList[n]?).map (·.st) = some .up) = true
    ∧ ((enumAt .assigning true .up).brg.enumPhase = .assigning) ∧ ((enumAt .committing true .up).brg.enumPhase = .committing)
    ∧ (enumAt .assigning true .up).brg.enumAddr = none ∧ portUsable (enumAt .assigning true .up) 0 = true := by decide +kernel
/-- Another device's token, and the device's own. -/
theorem witness_Enumeration_owner : (tok 255 0 (Config.serial ^^^ 1)).arg ≠ Config.serial ∧ (tok 256 0 Config.serial).arg = Config.serial :=
  ⟨xor_one_ne _, rfl⟩
/-- R345: a device with a program sets error bit 0 and takes the address of the token. -/
theorem test_assign :
    let s := { enumAt .none false .up with rp := (resident .running []).rp };
    let u := takeAssign s (tok 255 0 5);
    u.brg.enumAddr = some 255 ∧ (takeAssign s (tok 256 0 5)).brg.enumAddr = none
      ∧ u.outbox.getLast? = some (.packet 1 (PktKind.assign).code (token 256 1 5)) := by decide +kernel

/-! ## Remote windows -/

/-- Device 1 of 4; window 3 grants devices 2 and 3 one page of HBM, at offset 0x5000 of its Bridge window. -/
def windowed (f : State → State) : State :=
  let s := cascade 1 4 up
  f (((s.setReg (.sys (.winBase 3)) 0x40000000).setReg (.sys (.winLim 3)) 5).setReg (.sys (.winCtl 3)) 0x30207)

/-- The same window with its enable clear. -/
def shut (s : State) : State := s.setReg (.sys (.winCtl 3)) 0x30206

theorem witness_RemoteWindows_packets :
    portUsable (windowed id) 2 = true ∧ asleep (windowed id) = false ∧ ownAddr (windowed id) = some 1
    ∧ (packet 1 2 0x5000 16 []).dst.toNat = 1 ∧ (packet 3 2 0x5000 16 []).dst.toNat ≠ 1
    ∧ portUsable (windowed id) (routeOn 1 3 2) = true ∧ portUsable (windowed id) (routeOut (windowed id) 1 2) = true := by decide +kernel
/-- Granted at both ends of the window, and not one byte beyond, nor to device 1. -/
theorem witness_RemoteWindows_grants :
    winGrant (windowed id) 2 0x5000 4096 false = some 0x40000000 ∧ winGrant (windowed id) 3 0x5FFF 1 true = some 0x40000FFF
    ∧ winGrant (windowed id) 2 0x5FFF 2 false = none ∧ winGrant (windowed id) 1 0x5000 1 true = none
    ∧ populated (windowed id) 0x40000000 4096 false = true ∧ homeDown (windowed id) 0x40000000 = false
    ∧ badAt (windowed id) 0x40000000 4096 = none ∧ mergeFits (windowed id) 0x40000FFF 1 = true
    ∧ populated (windowed id) 0x40000FFF 1 true = true
    ∧ (badAt (windowed fun s => { s with mem := { s.mem with unc := [0x40000008] } }) 0x40000000 16).isSome = true := by decide +kernel

/-- No request is owed; a read that is granted waits while the hub stop before its home is frozen. -/
theorem witness_RemoteWindows_held :
    let s := windowed fun s => setFreeze s (.stop 23) true;
    (windowed id).brg.owed = [] ∧ homeTakes (windowed id) (.bridge 2) .scratch 0x40000000 (.read 16) = true
    ∧ homeTakes (windowed id) (.bridge 2) .scratch 0x40000FFF (.write [7]) = true
    ∧ ([(false, Access.read 16), (true, .write [7])].all fun e => match serveNow 64 (.bridge 2) .scratch
        { s with brg := { s.brg with owed := [⟨2, e.1, packet 1 2 0x5000 16 [7], 0x40000000⟩] } } 0x40000000 e.2 with
      | .held _ => true
      | _ => false) = true := by decide +kernel

/-- PA 0's instruction 4 waits for the answer to tag 1. -/
def waitingWin : State :=
  let s := cascade 1 4 up
  let m : MemAcc := { addr := 0x403000005000, size := 8, kind := .load 2 false }
  let s1 := s.modPa 0 fun x => { x with ops := [{ id := 4, thr := 0, fpc := 3, unit := .mem, uses := [], defs := [], writes := [], acc := some m }] }
  { s1 with brg := { s1.brg with winReqs := [{ tag := 1, pa := 0, op := 4 }] } }
theorem witness_RemoteWindows_responses :
    waitingWin.brg.withdrawing = [] ∧ (waitingWin.brg.winReqs.find? (·.tag = (packet 1 3 0 8 []).tag)).map (·.op) = some 4
    ∧ (waitingWin.brg.winReqs.find? fun r => r.pa = 0 && r.op = 4).isSome = true ∧ (packet 1 3 0 8 []).status = 0
    ∧ (((waitingWin.pa 0).ops.find? (·.id = 4)).bind (·.acc)).isSome = true ∧ ownAddr waitingWin = some (packet 1 3 0 8 []).dst.toNat := by decide +kernel
theorem witness_RemoteWindows_own :
    winOn (windowed shut) 3 = false ∧ ((windowed shut).brg.windows[3]).closing = false ∧ winOk (windowed shut) 3 = true
    ∧ winOk (windowed fun s => (shut s).setReg (.sys (.winBase 3)) 0x3F0000000000) 3 = false
    ∧ winPeers (windowed shut) 3 = [2, 3] ∧ winOn (windowed id) 3 = true
    ∧ ([2, 3].all fun a => portUsable (windowed id) (routeOut (windowed id) 1 a)) = true := by decide +kernel
/-- A peer's window that is withdrawn; an acknowledgement that is the last, or not, of an opening or a closing. -/
theorem witness_RemoteWindows_peers :
    let s := { waitingWin with brg := { waitingWin.brg with winReqs := [], peers := [{ owner := 2, index := 7, off := 0x1000, size := 0x1000, rd := true, wr := false }] } };
    s.brg.withdrawing = [] ∧ (s.brg.peers.find? fun w => w.owner = 2 && w.index = 7).isSome = true ∧ underEntry s 2 0x1000 0x1000 = false
    ∧ ([([2], true), ([2, 3], false)].all fun e =>
        let v := setWindow (windowed id) 3 { closing := e.2, waiting := e.1 }
        v.brg.windows[3] = { closing := e.2, waiting := e.1 } && ownAddr v = some 1) = true := by decide +kernel
/-- R347: opening asks both peers. -/
theorem test_open_window :
    let u := openWindow (windowed shut) 3;
    (u.brg.windows[3]).isOpen = false ∧ (u.brg.windows[3]).waiting = [2, 3] ∧ u.outbox.length = (windowed shut).outbox.length + 2 := by decide +kernel

/-! ## Reduction -/

/-- Device `own` of `n` with context 3 in tree A: one ciphertext of a limb, its result elsewhere, two restarts; the
reduction stands as `f` says. -/
def reducing (own n : Nat) (f : RedCtx → RedCtx) : State :=
  let s := cascade own n up
  let d : Desc := ({ lgn := 0, k := 1, level := 0, scheme := 0, eval := true, tag := 5, scale := 0x20, noise := 0x100, unreliable := false } : Tracked).pack 0x10000000
  let s1 := ((((s.setReg (.sys (.rcCfg 3)) 0x2500).setReg (.sys (.rcTab 3)) 0x20000000).setReg (.sys (.rcRes 3)) 0x30000000).setReg (.sys (.rcArm 3)) 0x40000000).setReg
    (.sys (.rcRtab 3)) 0x38000000
  let s2 := { s1 with mem := s1.mem.write 0x20000000 (leBytes 32 d.toNat), rp := { s1.rp with prog := (resident .running []).rp.prog } }
  s2.modRed 3 f

/-- A leaf with a table, a context whose table is misplaced, a running one, and one that is off. -/
theorem witness_ReductionRounds_arm :
    rcEnabled (reducing 1 4 id) 3 = true ∧ (reducing 1 4 id).rp.prog.isSome = true ∧ ((reducing 1 4 id).red 3).running = false
    ∧ BitVec.ofNat 32 (1 : Word).toNat = ((reducing 1 4 id).red 3).round + 1
    ∧ localCheck (reducing 1 4 id) 3 = 0 ∧ redChildren (reducing 1 4 id) 3 = [3] ∧ ((reducing 1 4 id).red 3).hdrs = []
    ∧ localCheck ((reducing 1 4 id).setReg (.sys (.rcTab 3)) 1) 3 = 1
    ∧ ((reducing 1 4 fun c => { c with phase := .blocks }).red 3).running = true ∧ ((reducing 1 4 fun c => { c with phase := .blocks }).red 3).held = none
    ∧ rcEnabled ((reducing 1 4 id).setReg (.sys (.rcCfg 3)) 0) 3 = false ∧ field (BitVec.ofNat 64 (2 ^ 32)) 32 32 ≠ 0 := by decide +kernel

def entry (n : Nat) : RoundEntry :=
  { lgn := 0, limbs := 0, level := 0, scheme := 0, form := true, tag := 5, scale := 0x20, noise := BitVec.ofNat 16 n, count := 1, unreliable := false }

/-- A header of the child on port 3, right, with another fingerprint; merged with this device's own; before the round; from above. -/
theorem witness_ReductionRounds_header :
    let s := reducing 1 4 fun c => { c with phase := .headers };
    treePlace 3 = some (false, 1) ∧ treePlace 2 = some (false, 0) ∧ (s.red 3).phase = .headers ∧ redChildren s 3 = [3] ∧ rcRound s 3 = 1
    ∧ isRoot s = false ∧ usedTrees s 3 = [false] ∧ portUsable s (treePort false 0) = true
    ∧ mergeEntries ((rcDescs s 3).map entryOfDesc) [entry 0x200] = some [{ entry 0x200 with count := 2 }]
    ∧ fingerprint s ≠ 0 ∧ asleep s = false ∧ ((reducing 1 4 id).red 3).phase ≠ .headers
    ∧ (false ∉ ((reducing 1 4 fun c => { c with phase := .blocks }).red 3).finals) := by decide +kernel

def ones : RoundBlock :=
  { ctx := 3, attempt := 0, treeB := false, index := 1, words := List.replicate 512 1, checksum := BitVec.ofNat 64 (checksum (modQ group 0) (List.replicate 512 1)) }

/-- A block from above, right or wrong, and one from below. -/
theorem witness_ReductionRounds_blocks :
    let s := reducing 1 4 fun c => { c with phase := .blocks };
    (s.red 3).phase = .blocks ∧ ones.words.length = 512 ∧ ones.attempt = (s.red 3).attempts ∧ blockTree s 3 1 = false
    ∧ redBlockAt s 3 1 = some { src := 0x10001000, dst := 0x30001000, q := modQ s 0 }
    ∧ checksumOk (modQ s 0) ones = true ∧ checksumOk (modQ s 0) { ones with checksum := 0 } = false ∧ s.regBit (.sys .rerr) 37 = false
    ∧ mayRestart s 3 = true ∧ blockChildren s false = [3] ∧ (s.red 3).parts = [] ∧ (1 ∉ (s.red 3).sent) ∧ (1 ∉ (s.red 3).written)
    ∧ badAt s 0x10001000 4096 = none ∧ 0 < modQ s 0 ∧ modQ s 0 < 2 ^ 64 := by decide +kernel
/-- A ciphertext of one limb, of two polynomials, has 16 blocks. -/
theorem test_blocks_of_a_limb : (redBlockAt (reducing 1 4 id) 3 15).isSome = true ∧ (redBlockAt (reducing 1 4 id) 3 16).isSome = false := by decide +kernel

/-- Live with restarts left, at its last attempt, aborting, failing; with no children. -/
theorem witness_ReductionRounds_aborts :
    let s := reducing 1 4 fun c => { c with phase := .blocks };
    (s.red 3).live = true ∧ (2 ∈ redParents s 3 ++ redChildren s 3) ∧ mayRestart s 3 = true
    ∧ mayRestart (reducing 1 4 fun c => { c with phase := .blocks, attempts := 2 }) 3 = false
    ∧ redChildren (reducing 3 4 fun c => { c with phase := .blocks }) 3 = [] ∧ redParents (reducing 3 4 fun c => { c with phase := .blocks }) 3 = [2]
    ∧ mayRestart (reducing 3 4 fun c => { c with phase := .blocks }) 3 = true ∧ isRoot (reducing 3 4 id) = false
    ∧ ((reducing 1 4 fun c => { c with phase := .aborting }).red 3).phase = .aborting ∧ treePlace 2 = some (false, 0) ∧ (2 ∈ redParents s 3)
    ∧ ((reducing 1 4 id).red 3).live = false := by decide +kernel
/-- Failing; whole; and neither. -/
theorem witness_ReductionRounds_done :
    let whole := reducing 3 4 fun c => { c with phase := .blocks, finals := [false], written := upFrom 0 16 };
    roundWhole whole 3 = true ∧ (whole.red 3).held = none ∧ ((reducing 1 4 fun c => { c with phase := .failing }).red 3).phase = .failing
    ∧ roundWhole (reducing 3 4 fun c => { c with phase := .blocks, finals := [false], written := upFrom 0 15 }) 3 = false := by decide +kernel
/-- R355's example: 14.0 bits of noise over 256 devices; R358's: round 41 fails with code 5. -/
theorem test_reduction_words : 0xE00 + ceilLog2 256 = 0x1600 ∧ doneWord 41 5 = 0x8000000500000029 ∧ doneWord 41 0 = 41 := by decide +kernel
/-- The blocks of two devices add modulo the limb's modulus. -/
theorem test_add_blocks : addBlocks 17 [16, 3, 20] [16, 4, 1] = [15, 7, 4] := by decide +kernel

/-! ## Soundpost -/

/-- Port A's mailbox runs command `c` with these arguments; service commands have started. -/
def boxed (c : Nat) (args : Vector Word 4) (f : State → State) : State :=
  f (server.setBox 0 (some { cmd := BitVec.ofNat 8 c, args := args, started := c ≠ 1 }))

theorem witness_SoundpostCommands_serves : soundpostUp server = true ∧ server.spt.restart = none ∧ server.spt.ready = true
    ∧ server.spt.hd2 = false ∧ server.clk.live.getLsbD 25 = true ∧ ({ server with spt := { server.spt with standbyOk := true } } : State).spt.standbyOk = true
    ∧ ((boxed 0x15 #v[0, 0, 0, 0] id).box 0).isSome = true := by decide +kernel
/-- 25 °C and 125 °C against the reset thresholds; a low pin before, and not. -/
theorem witness_SoundpostCommands_sensors :
    let s := after (exec (.sensorSample (Vector.replicate 12 125)) server);
    server.spt.warn[0] = false ∧ server.spt.trip[0] = false ∧ s.spt.warn[11] = true ∧ s.spt.trip[11] = true ∧ s.capo.tripHalt = true
    ∧ server.spt.alertLow = false ∧ (after (exec (.sensorSample (Vector.replicate 12 25)) s)).spt.trip[0] = false := by decide +kernel
/-- A counter at 3 whose last summary saw none, saw 3, or saw 5. -/
theorem witness_SoundpostCommands_summary :
    let s := server.setReg (.hbm 23 .eccCnt) 3;
    (summaryOf s (.hbm 23)).1 = 3
    ∧ ([3, 5].all fun n : Nat => (({ s with spt := { s.spt with summarised := [(.hbm 23, BitVec.ofNat 64 n)] } } : State).spt.summarised.find? (·.1 = .hbm 23)).map (·.2.toNat) = some n)
      = true := by decide +kernel

/-- The first bytes of an image of a kind with an empty body, whose digest is FIPS 202's of the empty message. -/
def imageOf (kind : Nat) : List Byte :=
  [0x47, 0x4C, 0x57, 0x49, 0x4D, 0x47, 0x30, 0x31, BitVec.ofNat 8 kind, 0, 0, 0, 1, 2, 3, 0] ++ List.replicate 16 0
    ++ leBytes 48 0x4f0d558e0d16bfb47db4a26313871c32a3a98eebb715e9961fc94aaaa501ac585244c2e857d10017d4f5e845ba7630c

/-- Four images in a row. -/
def bundle (s : State) : State :=
  { s with mem := (((s.mem.write 0x40000000 (imageOf 1)).write 0x40001000 (imageOf 2)).write 0x40002000 (imageOf 3)).write 0x40003000 (imageOf 4) }

def signed : SigFacts := { edOk := true, dsaOk := true }

/-- The bytes of an image of the bundle. -/
def headerBytes (kind : Nat) : List Byte := (upFrom 0 4096).map fun i => (imageOf kind).getD i 0

theorem upFrom_add (a n : Nat) : ∀ b, upFrom (a + b) n = (upFrom b n).map (a + ·) := by
  induction n with
  | zero => intro b; rfl
  | succ n ih => intro b; simp only [upFrom, List.map_cons]; rw [← ih (b + 1), Nat.add_assoc]

theorem mem_upFrom (n i : Nat) : ∀ b, i ∈ upFrom b n → b ≤ i ∧ i < b + n := by
  induction n with
  | zero => intro b h; simp [upFrom] at h
  | succ n ih =>
    intro b h
    rcases List.mem_cons.mp h with h | h
    · omega
    · have := ih (b + 1) h; omega

theorem length_imageOf (k : Nat) : (imageOf k).length = 80 := by simp [imageOf, length_leBytes]

theorem bundle_bytes (k : Fin 4) : (bundle server).bytes (0x40000000 + k.val * 4096) 4096 = headerBytes (k.val + 1) := by
  have h0 : server.mem.bytes = [] := by decide +kernel
  rw [State.bytes, headerBytes, ← Nat.add_zero (0x40000000 + k.val * 4096), upFrom_add, List.map_map]
  refine List.map_congr_left fun i hi => ?_
  have hi := mem_upFrom _ _ _ hi
  simp only [bundle, Mem.write, Function.comp, sget_putBytes, length_imageOf, h0, sget_nil, noByte]
  have hk := k.isLt
  rcases (show k.val = 0 ∨ k.val = 1 ∨ k.val = 2 ∨ k.val = 3 by omega) with hk | hk | hk | hk <;> rw [hk] <;> grind [length_imageOf]

theorem sha3_empty : sha3_384 [] = ((headerBytes 1).drop 0x20).take 48 := by decide +kernel
/-- Table 13.7 on such an image: nothing fails, with or without the expected kind, where nothing is revoked. -/
theorem empty_image (s : State) (k : Fin 4) (e : Option Nat) (h : e = none ∨ e = some (k.val + 1)) (low : svnMin s (k.val + 1) = 0)
    (root : rootRevoked s 0 = false) : verifyStatus s (headerBytes (k.val + 1)) [] 4096 e signed false false = 0 := by
  have dig : ∀ i : Fin 4, ((headerBytes (i.val + 1)).drop 0x20).take 48 = ((headerBytes 1).drop 0x20).take 48 := by decide +kernel
  have form : ∀ i : Fin 4, imageForm (headerBytes (i.val + 1)) = true ∧ bodyLen (headerBytes (i.val + 1)) = 0
      ∧ numAt (headerBytes (i.val + 1)) 8 1 = i.val + 1 ∧ numAt (headerBytes (i.val + 1)) 9 1 = 0 ∧ numAt (headerBytes (i.val + 1)) 13 1 = 2
      ∧ numAt (headerBytes (i.val + 1)) 16 2 = 0 := by decide +kernel
  have f := form k
  simp only [verifyStatus, f.1, f.2.1, f.2.2.1, f.2.2.2.1, f.2.2.2.2.1, f.2.2.2.2.2, root, low, sha3_empty, dig k]
  have hk := k.isLt
  rcases h with h | h <;> subst h <;> simp [signed] <;> omega

theorem bundle_svn (s : State) (n : Nat) : svnMin (bundle s) n = svnMin s n := by
  simp only [svnMin, State.rwpField, State.rwp, bundle]
theorem bundle_roots (s : State) (n : Nat) : rootRevoked (bundle s) n = rootRevoked s n := by
  simp only [rootRevoked, State.rwp, bundle]
theorem none_revoked : rootRevoked server 0 = false ∧ ∀ i : Fin 4, svnMin server (i.val + 1) = 0 := by decide +kernel

theorem bundle_verifies (k : Fin 4) (e : Option Nat) (h : e = none ∨ e = some (k.val + 1)) :
    verifyAt (bundle server) (0x40000000 + k.val * 4096) 4096 e signed = 0 := by
  have bad : ∀ i : Fin 4, badAt (bundle server) (0x40000000 + i.val * 4096) 4096 = none
      ∧ badAt (bundle server) (0x40000000 + i.val * 4096 + 4096) (4096 - 4096) = none := by decide +kernel
  have empty : (bundle server).bytes (0x40000000 + k.val * 4096 + 4096) (4096 - 4096) = [] := by rw [Nat.sub_self, State.bytes, upFrom]; rfl
  rw [verifyAt, bundle_bytes, empty, (bad k).1, (bad k).2]
  exact empty_image _ k e h ((bundle_svn _ _).trans (none_revoked.2 k)) ((bundle_roots _ _).trans none_revoked.1)

/-- A verification reads memory and the Tailpiece store. -/
theorem verifyAt_congr (s t : State) (hm : s.mem = t.mem) (ht : s.tpc = t.tpc) (a n : Nat) (e : Option Nat) (g : SigFacts) :
    verifyAt s a n e g = verifyAt t a n e g := by
  have b : ∀ a n, s.bytes a n = t.bytes a n := fun a n => by simp only [State.bytes, hm]
  have u : ∀ a n, badAt s a n = badAt t a n := fun a n => by simp only [badAt, hm]
  have v : ∀ n, svnMin s n = svnMin t n := fun n => by simp only [svnMin, State.rwpField, State.rwp, ht]
  have r : ∀ n, rootRevoked s n = rootRevoked t n := fun n => by simp only [rootRevoked, State.rwp, ht]
  simp only [verifyAt, verifyStatus, b, u, v, r]

theorem witness_SoundpostCommands_verify :
    (boxRuns (boxed 1 #v[0x40000000, 4096, 0, 0] bundle) 0 1).map (fun m => (m.arg 0, m.arg 1)) = some (0x40000000, 4096)
    ∧ region (boxed 1 #v[0x40000000, 4096, 0, 0] bundle) 0x40000000 = .hbm
    ∧ populated (boxed 1 #v[0x40000000, 4096, 0, 0] bundle) 0x40000000 4096 false = true
    ∧ verifyAt (boxed 1 #v[0x40000000, 4096, 0, 0] bundle) 0x40000000 4096 none signed = 0
    ∧ verifyAt server 0x40000000 4096 none signed = 2 := by
  refine ⟨by decide +kernel, by decide +kernel, by decide +kernel, ?_, by decide +kernel⟩
  rw [verifyAt_congr _ (bundle server) (by simp only [boxed, bundle, State.setBox]) (by simp only [boxed, bundle, State.setBox])]
  exact bundle_verifies 0 none (.inl rfl)
theorem witness_SoundpostCommands_slot :
    ([(0x40000000, 2), (0x40000008, 1), (0x40000000, 0), (0x40000000, 1)].all fun e : Nat × Nat =>
      (serviceRuns (boxed 0x10 #v[BitVec.ofNat 64 e.1, BitVec.ofNat 64 e.2, 0, 0] bundle) 0 0x10).isSome) = true
    ∧ server.spt.slot = false
    ∧ (match bundleImages server (Vector.replicate 4 signed) (List.finRange 4) 0x40000000 [] with | .error e => e = (2, 1) | .ok _ => false) = true := by
  decide +kernel

theorem bundle_step (k : Fin 4) (r : List (Fin 4)) (l : List (Nat × Nat)) :
    bundleImages (bundle server) (Vector.replicate 4 signed) (k :: r) (0x40000000 + k.val * 4096) l =
      bundleImages (bundle server) (Vector.replicate 4 signed) r (0x40000000 + (k.val + 1) * 4096) (l ++ [(0x40000000 + k.val * 4096, 4096)]) := by
  have hbm : ∀ i : Fin 4, region (bundle server) (0x40000000 + i.val * 4096) = .hbm
      ∧ populated (bundle server) (0x40000000 + i.val * 4096) 4096 false = true := by decide +kernel
  have len : ∀ i : Fin 4, bodyLen (headerBytes (i.val + 1)) = 0 := by decide +kernel
  have v := bundle_verifies k (some (k.val + 1)) (.inr rfl)
  have m : min 4096 (4096 + largestBody (k.val + 1) + 4096) = 4096 := by omega
  rw [bundleImages, bundle_bytes, len k]
  simp only [(hbm k).1, (hbm k).2, Nat.add_zero, m]
  simp [v, Nat.add_mul, Nat.add_assoc]

theorem witness_SoundpostCommands_slot_ok :
    bundleImages (bundle server) (Vector.replicate 4 signed) (List.finRange 4) 0x40000000 [] =
      .ok [(0x40000000, 4096), (0x40001000, 4096), (0x40002000, 4096), (0x40003000, 4096)] := by
  rw [show List.finRange 4 = [0, 1, 2, 3] from rfl]
  exact (bundle_step 0 _ _).trans ((bundle_step 1 _ _).trans ((bundle_step 2 _ _).trans ((bundle_step 3 _ _).trans rfl)))

/-- A command whose work is done; the service command holds Peg cell 63. -/
theorem witness_SoundpostCommands_end :
    let s := server.setBox 1 (some { cmd := 0x15, args := #v[0, 0, 0, 0], started := true, result := some (0x15, [8]) });
    let u := { s with host := { s.host with peg := s.host.peg.set 63 3 } };
    ((u.box 1).map (·.result)) = some (some (0x15, [8])) ∧ u.spt.restart = none ∧ pegOwner u.host.peg[63] = 3 := by decide +kernel

def image (minor : Nat) : ImageFact := { status := 0, digest := [], root := 0, verMajor := 1, verMinor := BitVec.ofNat 8 minor, verPatch := 0, svn := 9 }

/-- PA 127 with and without its start-up checks; PA 0 of the resident program; no PA 128. -/
theorem witness_SoundpostCommands_pa :
    let s := fun c a => boxed c #v[BitVec.ofNat 64 a, 1, 0, 0] fun s => { s with spt := { s.spt with running := some #v[image 0, image 0, image 7, image 8] } };
    ([0x11, 0x12, 0x13, 0x14, 0x15, 0x18].all fun c => (serviceRuns (s c 127) 0 c).isSome) = true
    ∧ (match ((s 0x13 127).box 0).map (cycleTarget (s 0x13 127)) with | some (.ok q) => q = 127 | _ => false) = true
    ∧ (match ((s 0x13 128).box 0).map (cycleTarget (s 0x13 128)) with | some (.error e) => e = 0x17 | _ => false) = true
    ∧ recheck (s 0x12 127) 3 (image 7) signed = 0 ∧ recheck (s 0x12 127) 4 (image 8) signed = 0 := by decide +kernel
theorem witness_SoundpostCommands_phy : ([0, 2, 12, 35, 36].all fun t : Nat =>
    (serviceRuns (boxed 0x14 #v[BitVec.ofNat 64 t, 1, 0, 0] id) 0 0x14).map (·.arg 0) = some t) = true
    ∧ ((cascade 1 4 up).brg.ports[0]).st = .up := by decide +kernel

/-- The eastward link of router 1, excluded or not; eight links excluded, or one beside it. -/
theorem witness_SoundpostCommands_links :
    let s := fun on l => boxed 0x15 #v[1 + 128 * 2, on, 0, 0] fun s => { s with net := { s.net with excl := l } };
    ([(1, []), (1, [(2, 2)]), (0, [(1, 2)])].all fun e : Word × List (Nat × Nat) => (serviceRuns (s e.1 e.2) 0 0x15).map (·.arg 0) = some (1 + 128 * (1 + 1))) = true
    ∧ linkExists 1 2 = true ∧ findExcl (s 1 []) 1 2 = none ∧ linkBusy (s 1 []) 1 2 false = false ∧ linkBusy (s 0 [(1, 2)]) 1 2 true = false ∧ findExcl (s 1 [(2, 2)]) 1 2 = none
    ∧ ([((2, 2) : Nat × Nat)].any (linksMeet (1, 2))) = true ∧ findExcl (s 0 [(1, 2)]) 1 2 = some (1, 2) ∧ findExcl (s 0 [(1, 2)]) 2 4 = some (1, 2) := by
  decide +kernel
theorem witness_SoundpostCommands_reset :
    let s := boxed 0x18 #v[0, 0, 0, 0] fun s => { s with tpc := { s.tpc with active := [{ off := (Reg.hif .cfg).off, value := 1 }] } };
    (serviceRuns s 0 0x18).isSome = true ∧ (s.tpc.active.map (·.off)) = [(Reg.hif .cfg).off] ∧ Reg.at? (Reg.hif .cfg).off = some (.hif .cfg) := by
  decide +kernel

/-! ## The Drone -/

def job (prio inLen outOff : Nat) : DroneJob :=
  { slot := 3, prio := BitVec.ofNat 2 prio, inOff := 0, inLen := BitVec.ofNat 16 inLen, outOff := BitVec.ofNat 16 outOff, auxOff := 0x8000, haddr := 0,
    units := 0, outLen := 32, fromRom := false, iterations := 1, badWord := false }

/-- The operations with an input length that fits, and an output that does not. -/
theorem witness_DroneJobs_lengths :
    ([(0x01, 0), (0x02, 0), (0x10, 32), (0x11, 7), (0x12, 7), (0x20, 0), (0x21, 0), (0x22, 1088), (0x30, 32), (0x31, 7), (0x32, 7), (0x40, 7), (0x41, 7), (0x50, 0),
      (0x60, 0)].all fun e : Nat × Nat => lengthOk e.1 (job 0 e.2 0x4000)) = true
    ∧ lengthOk 0x40 (job 0 7 65489) = false ∧ lengthOk 0x40 (job 0 7 65488) = true
    ∧ server.task 3 = none ∧ server.drone.running = none ∧ droneOk server = true ∧ jobBarred server 0x01 (job 0 0 0) = false
    ∧ server.drone.rngOk = true ∧ jobBad server 0x40 (job 0 7 0) = false
    ∧ jobBad server 0x40 { job 0 7 0 with badWord := true } = true := by decide +kernel

def taskOf (prio ran cycles order : Nat) : DroneTask :=
  { op := 0x40, job := job prio 7 0, order := order, ran := ran, run := some { cycles := cycles, status := 0, output := [], setKey := none } }

/-- A job runs with more than a slice to go, or with a slice; another waits. -/
theorem witness_DroneJobs_running :
    let s := { server with drone := { server.drone with jobs := #v[some (taskOf 2 0 4097 0), some (taskOf 0 0 9 1), none, none], running := some 0 } };
    s.drone.running = some 0 ∧ droneOk s = true ∧ (s.task 0).isSome = true ∧ (taskOf 2 0 4097 0).ran + 4096 < (taskOf 2 0 4097 0).cycles
    ∧ (taskOf 2 1 4097 0).cycles ≤ (taskOf 2 1 4097 0).ran + 4096 ∧ betterTask s 1 0 = true ∧ betterTask s 0 1 = false := by decide +kernel
/-- Table 13.11: a signature of 3,824 bytes in four rounds. -/
theorem test_sign_cycles : jobCycles 0x31 { job 0 3824 0 with iterations := 4 } 4 = 48696 := by decide +kernel
theorem witness_DroneJobs_rng : (2 : Nat) ^ 20 ≤ ({ server with drone := { server.drone with rngOut := 2 ^ 20 } } : State).drone.rngOut
    ∧ server.drone.rngOut < 2 ^ 20 := by decide +kernel

/-! ## Power, reset, semaphores, counters and the sideband -/

/-- Idle, in a state, an entry or a wake in progress. -/
def calm (st : Fin 4) (entering waking : Bool) : State :=
  { live with
    capo := { live.capo with state := st, entering := entering, waking := waking, rails := #v[true, true, true, true] }
    st := { live.st with hbms := Vector.replicate 24 { ready := true } } }

def banksAt (b : BankState) (s : State) : State :=
  { s with st := { s.st with slices := Vector.replicate 4 { banks := Vector.replicate 16 b } } }

theorem witness_PowerAndReset_deeper :
    mayDeepen (calm 0 false false) = true ∧ mayDeepen (calm 1 false false) = true ∧ mayDeepen (calm 2 false false) = false
    ∧ ((calm 1 false false).slice 3).banks[15] = .on
    ∧ ([0, 1, 2].all fun st => (calm st true false).capo.entering && (calm st true false).capo.state = st) = true
    ∧ banksOff (calm 1 true false) = false ∧ banksOff (banksAt .off (calm 1 true false)) = true := by decide +kernel
theorem witness_PowerAndReset_wakes :
    asleep (calm 1 false false) = true ∧ asleep live = false ∧ (calm 1 false true).capo.waking = true ∧ (calm 1 false true).capo.entering = false
    ∧ tolerance ((calm 2 false false).setReg (.capo (.tol 0)) 0) = 200 ∧ wakeMax 2 = 150
    ∧ tolerance { calm 2 false false with tpc := { live.tpc with stored := [((Reg.capo .cfg).off, 149)] } } = 149
    ∧ ({ calm 2 false true with clk := { live.clk with stopped := 0xFF } } : State).clk.stopped.getLsbD 7 = true := by decide +kernel
/-- A control and an observe session, at the port and at the other. -/
theorem witness_PowerAndReset_tolerance : (server.sess 0).map (·.control) = some true ∧ slotPort 0 = 0 ∧ slotPort 0 ≠ 1
    ∧ ((hosts fun x => { x with control := false }).sess 0).map (·.control) = some false := by decide +kernel
/-- 3,520 W and one more against the limit; an average below, between and above. -/
theorem witness_PowerAndReset_limit :
    ¬ powerLimit live * 110 < 3520 * 100 ∧ powerLimit live * 110 < 3521 * 100 ∧ live.capo.plimF = 16 ∧ live.clk.powered = true
    ∧ ([(3103, true, false), (3104, false, false), (3200, false, false), (3201, false, true)].all fun e : Nat × Bool × Bool =>
        let s := { live with capo := { live.capo with samples := [BitVec.ofNat 16 e.1] } }
        decide (avgPower s * 100 < powerLimit s * 97) = e.2.1 && decide (powerLimit s < avgPower s) = e.2.2) = true := by decide +kernel
theorem witness_PowerAndReset_halts :
    (({ live with st := { live.st with hbms := live.st.hbms.set 23 { therm := 3 } } } : State).st.hbms[23]).therm = 3 ∧ live.capo.tripHalt = false
    ∧ held live = false ∧ ({ live with capo := { live.capo with tripHalt := true } } : State).capo.tripHalt = true
    ∧ live.clk.inReset = false ∧ live.capo.uv = false ∧ (39999 : BitVec 16).toNat < 40000 ∧ 40000 ≤ (40000 : BitVec 16).toNat := by decide +kernel

/-- What boot finds: no fault, but the PAs listed. -/
def goodBoot : BootFacts :=
  { images := Vector.replicate 8 (image 1), sigs := Vector.replicate 8 signed, droneOk := true, pufOk := true, standbyOk := true, badWords := []
    paFails := [5] }

/-- Both copies of the first security word are bad. -/
def lostBoot : BootFacts := { goodBoot with badWords := [5436, 5495] }

/-- Held in reset with the input and the rails up. -/
def inReset : State := { live with clk := { powered := true, inReset := true }, capo := { live.capo with rails := allRails } }

theorem witness_PowerAndReset_release :
    inReset.clk.powered = true ∧ inReset.clk.inReset = true ∧ held inReset = false ∧ State.reset.clk.powered = false
    ∧ powerGood inReset = true ∧ powerGood { inReset with capo := { inReset.capo with uv := true } } = false
    ∧ (∀ k : Fin 4, (bootImage inReset goodBoot (bit (inReset.rwp (.spt .boot)) 0) k).status = 0) ∧ securityLost lostBoot = true
    ∧ securityLost { goodBoot with badWords := [5436] } = false
    ∧ goodBoot.paFails.contains 6 = false ∧ paDisabled inReset 6 = false
    ∧ held { inReset with capo := { inReset.capo with stageFault := true } } = true
    ∧ live.tpc.active = [] ∧ Reg.at? (Reg.hif .cfg).off = some (.hif .cfg) := by decide +kernel
/-- No input; the rails up; the rails that an input below 40 V in reset turned off. -/
theorem witness_PowerAndReset_powerUp :
    railsDown State.reset = true ∧ railsDown inReset = false ∧ (39999 : BitVec 16).toNat < 40000
    ∧ railsDown (after (exec (.inputUndervoltage 39999) inReset)) = true ∧ inReset.capo.uv = false := by decide +kernel
/-- R455: PA 6 comes up and PA 5, which fails its check, does not. -/
theorem test_release :
    let u := after (exec (.resetRelease goodBoot) inReset);
    (u.pa 6).online = true ∧ (u.pa 5).online = false ∧ u.spt.ready = true := by decide +kernel

/-- Cell 5 of Table 11.9. -/
def cell (w : Word) : State := { server with host := { server.host with peg := server.host.peg.set 5 w } }

theorem witness_SemaphoresCountersSideband_cells :
    ([(0x290000, 0), (0x2A0001, 1), (0x2A0002, 2), (0x2A0003, 3)].all fun e : Word × Nat => pegOwner (cell e.1).host.peg[5] = e.2) = true
    ∧ pegCode (.port 0) = 1 ∧ pegCode (.port 1) = 2 ∧ portOwner 0 = 1 := by decide +kernel
/-- Table 11.9. -/
theorem test_peg_cell :
    ((after (exec (.pegAcquire (.port 0) 5 false) (cell 0x290000))).host.peg[5]) = 0x2A0001
    ∧ ((after (exec (.pegAcquire (.port 1) 5 false) (cell 0x2A0001))).host.peg[5]) = 0x2A0001
    ∧ ((after (exec (.pegBreak 1 5 false) (cell 0x2A0001))).host.peg[5]) = 0x2A0004
    ∧ ((after (exec (.pegAcquire (.port 1) 5 false) (cell 0x2A0004))).host.peg[5]) = 0x2B0002 := by decide +kernel
/-- Port A is served first; port B's access waits for it, and both then take the cell in turn. -/
theorem witness_SemaphoresCountersSideband_tie :
    tieTurn server 0 = true ∧ tieTurn server 1 = false ∧ tieFirst server = 0 ∧ server.host.tieHalf = false ∧ server.host.tieHeld = none
    ∧ (after (exec (.pegAcquire (.port 1) 5 true) (cell 0x290000))).host.tieHeld = some (1, .acquire 5) := by decide +kernel
/-- R329: the cell goes to port A, though port B's access is named first. -/
theorem test_peg_tie :
    let u := after (exec (.pegAcquire (.port 0) 5 true) (after (exec (.pegAcquire (.port 1) 5 true) (cell 0x290000))));
    pegOwner u.host.peg[5] = 1 ∧ u.host.tieNext = true := by decide +kernel
theorem witness_SemaphoresCountersSideband_window :
    server.hubCycles < ({ server with ovt := { server.ovt with start := 2 ^ 60 } } : State).ovt.start ∧ server.ovt.start ≤ server.hubCycles := by
  decide +kernel
theorem witness_SemaphoresCountersSideband_snapshots :
    nmem ({ server with ovt := { server.ovt with snapOwed := [127] } } : State).ovt.snapOwed 127 = true ∧ nmem server.ovt.snapOwed 127 = false
    ∧ server.clk.powered = true ∧ sbListed 0 = true ∧ sbListed 0xFF = false := by decide +kernel

def recovering (b : Bool) : State := { live with spt := { live.spt with recovery := true }, sb := { live.sb with rcvSlot := b } }

theorem witness_SemaphoresCountersSideband_recovery :
    (recovering true).spt.recovery = true ∧ live.spt.recovery = false
    ∧ firstFailure (recovering true) true (withSigs { goodBoot with images := Vector.replicate 8 { image 1 with status := 2 } } true
        (Vector.replicate 4 signed)) = 2
    ∧ (recovering true).sb.rcvAddr + 32 ≤ 0x1000000 ∧ securityLost goodBoot = false := by decide +kernel

/-- Slot 1 of the store holds four images. -/
def restored : State :=
  let s := recovering true
  { s with spt := { s.spt with
      store := putBytes (putBytes (putBytes (putBytes [] (0x1000000 + slotOffset 1) (imageOf 1)) (0x1000000 + slotOffset 2) (imageOf 2))
        (0x1000000 + slotOffset 3) (imageOf 3)) (0x1000000 + slotOffset 4) (imageOf 4) } }

theorem stored_bytes (k : Fin 4) : imageBytes restored (0x1000000 + slotOffset (k.val + 1)) 4096 = headerBytes (k.val + 1) := by
  rw [imageBytes, headerBytes, ← Nat.add_zero (0x1000000 + slotOffset (k.val + 1)), upFrom_add, List.map_map]
  refine List.map_congr_left fun i hi => ?_
  have hi := mem_upFrom _ _ _ hi
  simp only [restored, Function.comp, sget_putBytes, length_imageOf, sget_nil, noByte]
  have hk := k.isLt
  rcases (show k.val = 0 ∨ k.val = 1 ∨ k.val = 2 ∨ k.val = 3 by omega) with hk | hk | hk | hk <;> rw [hk] <;> simp only [slotOffset] <;>
    grind [length_imageOf]

theorem firstFailure_none (s : State) (slot : Bool) (b : BootFacts) (h : ∀ k : Fin 4, (bootImage s b slot k).status = 0) :
    firstFailure s slot b = 0 := by
  have f : ∀ l : List (Fin 4), l.foldl (fun v k => if v ≠ 0 then v else (bootImage s b slot k).status.toNat) 0 = 0 := by
    intro l
    induction l with
    | nil => rfl
    | cons k r ih => rw [List.foldl_cons, if_neg (by simp), h]; exact ih
  exact f _

theorem imageBytes_none (s : State) (o : Nat) : imageBytes s o 0 = [] := rfl

theorem witness_SemaphoresCountersSideband_restored :
    restored.sb.rcvSlot = true ∧ firstFailure restored true (withSigs goodBoot true (Vector.replicate 4 signed)) = 0 := by
  have low : rootRevoked restored 0 = false ∧ ∀ i : Fin 4, svnMin restored (i.val + 1) = 0 := by decide +kernel
  have len : ∀ i : Fin 4, bodyLen (headerBytes (i.val + 1)) = 0 := by decide +kernel
  have has : restored.spt.slotCut.toArray.getD 1 false = false ∧ ∀ i : Fin 4, storeHas restored (0x1000000 + slotOffset (i.val + 1)) 4096 = true := by
    decide +kernel
  have sig : ∀ i : Fin 4, (withSigs goodBoot true (Vector.replicate 4 signed)).sigs.toArray.getD (4 + i.val)
      (withSigs goodBoot true (Vector.replicate 4 signed)).sigs[0] = signed := by decide +kernel
  refine ⟨by decide +kernel, firstFailure_none _ _ _ fun k => ?_⟩
  have v : verifyStored restored true (k.val + 1) signed = 0 := by
    rw [verifyStored, if_pos rfl, stored_bytes, len, Nat.zero_min, imageBytes_none]
    exact empty_image _ k _ (.inr rfl) (low.2 k) low.1
  simp only [bootImage, if_true, has.1, has.2 k, sig k, v, imageFact]
  rfl

end Sys2Proof.Tests
end

section
/-! SUPPORT. An attempt by what its body answers, from `ready` alone; and the refusal of an instruction with EXC_ILLEGAL
(R134, R136, R138). -/

namespace Sys2Proof.Machine

section
variable {g o : Nat} {p : Pa} {t : Thr} {w : IWord} {rs : List Res} {s v : State} {body : State → Issue}

/-- The registers that a ready word names are produced. -/
theorem ready_meets (h : ready g o p t w rs s = true) : meets s p t [.regs rs] = true := (ready_iff.mp h).2.2.2

/-- A ready word waits for none of the registers that it names. -/
theorem needRegs_of_ready {k : Issue} (h : ready g o p t w rs s = true) : needRegs p t rs s k = k :=
  needRegs_ready (ready_meets h)

theorem ready_next (h : ready g o p t w rs s = true) (hb : body s = .next v) :
    ranAs p t v (attemptOf g o p t w body s) := by
  obtain ⟨hw, hi, hr, _⟩ := ready_iff.mp h
  exact attemptOf_next hw hr hi hb

theorem ready_jumped (h : ready g o p t w rs s = true) (hb : body s = .jumped v) :
    issuedAs p t v (attemptOf g o p t w body s) := by
  obtain ⟨hw, hi, hr, _⟩ := ready_iff.mp h
  exact attemptOf_jumped hw hr hi hb

theorem ranAs_st (h : ranAs p t s v) : (v.thr p t).st = (s.thr p t).st := by rw [ranAs_thr h]; rfl
theorem ranAs_exc (h : ranAs p t s v) : (v.thr p t).exc = (s.thr p t).exc := by rw [ranAs_thr h]; rfl

end

/-! ## A precise exception is taken -/

theorem leaveBarrier_threads (t : Thr) (x : PaState) : (leaveBarrier t x).threads = x.threads := by
  unfold leaveBarrier
  split <;> rfl

theorem leaveBarrier_thr (t u : Thr) (x : PaState) : (leaveBarrier t x).thr u = x.thr u := by
  unfold PaState.thr
  rw [leaveBarrier_threads]

theorem settleThread_thr (e : Exc) (lol : Bool) (t : Thr) (x : PaState) : (settleThread e lol t x).thr t =
    if handled (x.thr t) e lol then enterHandler x.cycle (x.thr t) else enterFault (x.thr t) := by
  unfold settleThread
  dsimp only
  split
  · rw [PaState.thr_modThr_same, leaveBarrier_thr]
  · calc (cancelBow t ((leaveBarrier t x).modThr t enterFault)).thr t
        = ((leaveBarrier t x).modThr t enterFault).thr t := rfl
      _ = enterFault (x.thr t) := by rw [PaState.thr_modThr_same, leaveBarrier_thr]

/-- The thread with a precise exception latched at its pc. -/
def Thread.latched (y : Thread) (c : Cause) : Thread := { y with exc := latch y.exc c false (y.st = .handler) y.pc y.pc }

theorem counted_countExc (s : State) (p : Pa) (t : Thr) (e : Exc) : counted p s (countExc s p t e) := counted_event p _ s

theorem countExc_pa (s : State) (p q : Pa) (t : Thr) (e : Exc) : (countExc s p t e).pa q = s.pa q := by
  unfold State.pa
  rw [counted_pas (counted_countExc s p t e)]

theorem countExc_thr (s : State) (p q : Pa) (t u : Thr) (e : Exc) : (countExc s p t e).thr q u = s.thr q u := by
  rw [State.thr, countExc_pa]
  rfl

section
variable (s : State) (p : Pa) (t : Thr) (c : Cause)

theorem takeException_thr : (takeException s p t c).thr p t =
    if handled (s.thr p t) c.exc false then enterHandler (s.pa p).cycle ((s.thr p t).latched c)
    else enterFault ((s.thr p t).latched c) := by
  unfold takeException
  simp only [State.thr, State.pa_modPa_same, settleThread_thr, State.pa_modThr_same, PaState.thr_modThr_same, countExc_pa]
  rfl

theorem takeException_exc : ((takeException s p t c).thr p t).exc =
    latch (s.thr p t).exc c false ((s.thr p t).st = .handler) (s.thr p t).pc (s.thr p t).pc := by
  rw [takeException_thr]
  split <;> rfl

theorem takeException_s : ((takeException s p t c).thr p t).s = (s.thr p t).s := by
  rw [takeException_thr]
  split <;> rfl

theorem takeException_mem : (takeException s p t c).mem = s.mem := by
  rw [takeException, State.modPa_mem, State.modThr_mem, counted_mem (counted_countExc s p t c.exc)]

end

theorem handled_illegal (y : Thread) : handled y .illegal false = true ↔ y.st = .run ∧ y.handlerOn = true := by
  simp [handled]

/-- EXC_ILLEGAL of a thread, taken at its pc; then barriers and the program settle. -/
theorem tookIllegal_raisePrecise (s : State) (p : Pa) (t : Thr) {c : Cause} (hc : c.exc = .illegal) :
    tookIllegal p t s (noIssue (raisePrecise s p t c) p t id) := by
  have exc := takeException_exc s p t c
  have thr := takeException_thr s p t c
  have code : c.exc.code = 0x01 := by rw [hc]; rfl
  rw [hc] at thr
  refine ⟨takeException s p t c, rfl, by rw [exc]; exact code, by rw [exc]; rfl, by rw [exc]; rfl, by rw [exc]; rfl,
    by rw [exc]; rfl, fun hst hon => ?_, fun hno => ?_, takeException_s s p t c, takeException_mem s p t c⟩
  · rw [thr, if_pos ((handled_illegal _).mpr ⟨hst, hon⟩)]
    exact ⟨rfl, rfl⟩
  · have unhandled : ¬ handled (s.thr p t) .illegal false = true := by
      rw [handled_illegal]
      rintro ⟨hst, hon⟩
      simp [hst, hon] at hno
    rw [thr, if_neg unhandled]
    rfl

/-- A word that its body refuses with EXC_ILLEGAL and that names no descriptor takes it. -/
theorem ready_refuse {g o : Nat} {p : Pa} {t : Thr} {w : IWord} {rs : List Res} {s : State} {body : State → Issue} {c : Cause}
    (h : ready g o p t w rs s = true) (hb : body s = .refuse c none) (hc : c.exc = .illegal) :
    tookIllegal p t s (attemptOf g o p t w body s) := by
  obtain ⟨hw, hi, hr, _⟩ := ready_iff.mp h
  rw [attemptOf_spells hw hr, attempt_issues body hi, hb]
  exact tookIllegal_raisePrecise s p t hc

end Sys2Proof.Machine
end

section
/-! SUPPORT. A deferred exception (R134, R135, R67): what an abort leaves alone in the thread that it meets, and what the
thread then latches. -/

namespace Sys2Proof.Machine

/-! ## A thread but for its operands -/

/-- `z` is thread `y` but for its scalar, address and descriptor registers. -/
def Thread.sameControl (y z : Thread) : Prop := z = { y with s := z.s, a := z.a, c := z.c }

theorem Thread.sameControl_refl (y : Thread) : y.sameControl y := rfl

theorem Thread.sameControl_trans {x y z : Thread} (h : x.sameControl y) (k : y.sameControl z) : x.sameControl z := by
  unfold sameControl at *
  rw [k, h]

theorem Thread.sameControl_ws (y : Thread) (i : Nat) (v : Word) : y.sameControl (y.ws i v) := by
  unfold sameControl Thread.ws
  split <;> rfl

section
variable {y z : Thread} (h : y.sameControl z)
include h

theorem Thread.sameControl.st_eq : z.st = y.st := by rw [h]
theorem Thread.sameControl.pc_eq : z.pc = y.pc := by rw [h]
theorem Thread.sameControl.exc_eq : z.exc = y.exc := by rw [h]
theorem Thread.sameControl.undelivered_eq : z.undelivered = y.undelivered := by rw [h]
theorem Thread.sameControl.wait_eq : z.wait = y.wait := by rw [h]
theorem Thread.sameControl.needs_eq : z.needs = y.needs := by rw [h]

end

/-- Thread `t` of PA `p` is in `u` as in `s` but for its scalar, address and descriptor registers. -/
def keepsControl (p : Pa) (t : Thr) (s u : State) : Prop := (s.thr p t).sameControl (u.thr p t)

section
variable {p : Pa} {t : Thr}

theorem keepsControl_refl (s : State) : keepsControl p t s s := Thread.sameControl_refl _

theorem keepsControl_trans {a b c : State} (h : keepsControl p t a b) (k : keepsControl p t b c) : keepsControl p t a c :=
  Thread.sameControl_trans h k

theorem keepsControl_of_pas {s u : State} (h : u.pas = s.pas) : keepsControl p t s u := by
  unfold keepsControl State.thr State.pa
  rw [h]
  exact Thread.sameControl_refl _

theorem keepsControl_modPa (s : State) (q : Pa) {f : PaState → PaState} (hf : ∀ x, (f x).threads = x.threads) :
    keepsControl p t s (s.modPa q f) := by
  have h : (s.modPa q f).thr p t = s.thr p t := by
    by_cases hq : p = q
    · subst hq; simp only [State.thr, State.pa_modPa_same, PaState.thr, hf]
    · exact thr_modPa_ne s f t hq
  unfold keepsControl
  rw [h]
  exact Thread.sameControl_refl _

theorem keepsControl_modThr (s : State) {g : Thread → Thread} (hg : (s.thr p t).sameControl (g (s.thr p t))) :
    keepsControl p t s (s.modThr p t g) := by
  unfold keepsControl
  rw [State.thr_modThr_same]
  exact hg

theorem keepsControl_foldl {α : Type} {g : State → α → State} (hg : ∀ s a, keepsControl p t s (g s a)) (l : List α)
    (s : State) : keepsControl p t s (l.foldl g s) := by
  induction l generalizing s with
  | nil => exact keepsControl_refl s
  | cons a r ih => exact keepsControl_trans (hg s a) (ih _)

theorem keepsControl_ws (s : State) (i : Nat) (v : Word) : keepsControl p t s (s.ws p t i v) :=
  keepsControl_modThr s (Thread.sameControl_ws _ i v)

/-! ## An abort keeps its thread (R67, R176) -/

theorem keepsControl_poisonReg (s : State) (i : Fin 16) : keepsControl p t s (poisonReg s p t i) :=
  keepsControl_modThr s rfl

theorem keepsControl_scramble (s : State) (a n : Nat) : keepsControl p t s (s.scramble a n) := by
  unfold State.scramble
  dsimp only
  split
  · exact keepsControl_trans (keepsControl_of_pas rfl) (keepsControl_modPa _ _ fun _ => rfl)
  · exact keepsControl_of_pas rfl
  · exact keepsControl_of_pas rfl
  · exact keepsControl_refl s

theorem keepsControl_scrambles (l : List (Nat × Nat)) (s : State) :
    keepsControl p t s (l.foldl (fun s r => s.scramble r.1 r.2) s) := by
  refine keepsControl_foldl ?_ l s
  rintro s ⟨a, n⟩
  exact keepsControl_scramble s a n

theorem keepsControl_cloud (s : State) (a n : Nat) : keepsControl p t s (s.cloud a n) :=
  keepsControl_trans (keepsControl_scramble s a n) (keepsControl_of_pas rfl)

theorem keepsControl_applyWr (s : State) (w : Wr) : keepsControl p t s (applyWr p t s w) := by
  cases w with
  | s i v => exact keepsControl_ws s _ v
  | flags i v => exact keepsControl_ws s _ v
  | a i v => exact keepsControl_modThr s rfl
  | c i v => exact keepsControl_modThr s rfl
  | mem a bs => exact keepsControl_trans (keepsControl_of_pas (u := s.write a bs) rfl) (keepsControl_modPa _ _ fun _ => rfl)
  | tile i v => exact keepsControl_modPa s p fun _ => rfl
  | acc i v => exact keepsControl_modPa s p fun _ => rfl
  | accOvf i v => exact keepsControl_modPa s p fun _ => rfl
  | accMi i row v => exact keepsControl_modPa s p fun _ => rfl

theorem keepsControl_draw (s : State) : keepsControl p t s s.draw.2 := keepsControl_of_pas rfl

theorem keepsControl_abortWrite (s : State) (w : Wr) : keepsControl p t s (abortWrite s p t w) := by
  cases w with
  | s i v => exact keepsControl_trans (keepsControl_draw s) (keepsControl_ws _ _ _)
  | flags i v => exact keepsControl_refl s
  | a i v => exact keepsControl_trans (keepsControl_draw s) (keepsControl_modThr _ rfl)
  | c i v => exact keepsControl_refl s
  | mem a bs => exact keepsControl_scramble s a _
  | tile i v => exact keepsControl_trans (keepsControl_draw s) (keepsControl_modPa _ p fun _ => rfl)
  | acc i v =>
    exact keepsControl_trans (keepsControl_draw s)
      (keepsControl_trans (keepsControl_draw _) (keepsControl_modPa _ p fun _ => rfl))
  | accOvf i v => exact keepsControl_trans (keepsControl_draw s) (keepsControl_modPa _ p fun _ => rfl)
  | accMi i row v => exact keepsControl_trans (keepsControl_draw s) (keepsControl_modPa _ p fun _ => rfl)

theorem keepsControl_abortAcc (s : State) (o : Op) : keepsControl p o.thr s (abortAcc s p o) := by
  unfold abortAcc
  split
  · exact keepsControl_refl s
  · next m _ =>
    dsimp only
    have h : keepsControl p o.thr s
        (if travels s p m.addr then
          unreserve p (quitStops (.threads p) m.addr (dropFlow (.answer p o.id) (dropFlow (.access p o.id) s)))
        else quitStops (.threads p) m.addr (dropFlow (.answer p o.id) (dropFlow (.access p o.id) s))) := by
      split <;> exact keepsControl_of_pas rfl
    refine keepsControl_trans h ?_
    cases m.kind with
    | load r sx => exact keepsControl_abortWrite _ _
    | store v => exact keepsControl_cloud _ _ _
    | amo op v r => exact keepsControl_trans (keepsControl_abortWrite _ _) (keepsControl_cloud _ _ _)
    | loadDesc r => exact keepsControl_poisonReg _ r
    | storeDesc v => exact keepsControl_cloud _ _ _

theorem dropFeed_threads (cmd : Option Nat) (x : PaState) : (dropFeed cmd x).threads = x.threads := by
  cases cmd <;> rfl

theorem keepsControl_abortOp (s : State) (o : Op) (keep : Nat) : keepsControl p o.thr s (abortOp s p o keep) := by
  have left : keepsControl p o.thr s (s.modPa p fun x => dropFeed o.keyCmd { x with ops := x.ops.filter (·.id ≠ o.id) }) :=
    keepsControl_modPa s p fun x => dropFeed_threads o.keyCmd _
  have written := keepsControl_trans left (keepsControl_trans (keepsControl_foldl keepsControl_applyWr (o.writes.take keep) _)
    (keepsControl_foldl keepsControl_abortWrite (o.writes.drop keep) _))
  unfold abortOp
  dsimp only
  generalize hv : abortAcc _ p o = v
  have kept : keepsControl p o.thr s v := by
    rw [← hv]
    refine keepsControl_trans ?_ (keepsControl_abortAcc _ o)
    split
    · exact keepsControl_trans written (keepsControl_scrambles _ _)
    · exact written
  split
  · exact keepsControl_trans kept (keepsControl_poisonReg v _)
  · exact kept

theorem dPoisoned_poison (d : Desc) : dPoisoned (poison d) = true := by
  have h : (BitVec.ofNat 256 (2 ^ 144)).getLsbD 144 = true := by decide
  simp only [dPoisoned, bit, poison, BitVec.getLsbD_or, h, Bool.or_true]

theorem rc_poisonReg (s : State) (i : Fin 16) : ((poisonReg s p t i).thr p t).rc i.val = poison ((s.thr p t).rc i.val) := by
  simp [poisonReg, Thread.rc, i.isLt]

theorem abortOp_poisons (s : State) (o : Op) (keep : Nat) (i : Fin 16) (h : o.poison = some i) :
    dPoisoned (((abortOp s p o keep).thr p o.thr).rc i.val) = true := by
  simp only [abortOp, h, rc_poisonReg]
  exact dPoisoned_poison _

/-! ## What an uncorrectable word leaves in counters and log keeps the PAs -/

theorem logRec_pas (s : State) (cls sev code a0 a1 : Nat) : (s.logRec cls sev code a0 a1).pas = s.pas := by
  unfold State.logRec
  dsimp only
  split <;> rfl

theorem noteSpmBad_pas (s : State) (q : Pa) (off : Nat) : (noteSpmBad s q off).pas = s.pas := by
  unfold noteSpmBad
  dsimp only
  rw [logRec_pas]
  split <;> rfl

theorem noteHbmBad_pas (s : State) (a : Nat) (crc : Bool) : (noteHbmBad s a crc).pas = s.pas := by
  unfold noteHbmBad
  dsimp only
  rw [logRec_pas]
  split <;> rfl

theorem noteFarBad_pas (s : State) (port : Fin 2) (a : Nat) : (noteFarBad s port a true).pas = s.pas := by
  simp only [noteFarBad, if_true, logRec_pas]
  split <;> rfl

theorem noteRefetch_pas (s : State) (h : Hub) (a : Nat) : (noteRefetch s h a).pas = s.pas := by
  rw [noteRefetch, logRec_pas, State.countSat_pas]

theorem noteLost_pas (s : State) (h : Hub) (a : Nat) : (noteLost s h a).pas = s.pas := by
  rw [noteLost, logRec_pas, State.countSat_pas]

theorem noteCacheBad_pas (s : State) (a : Nat) : (noteCacheBad s a).pas = s.pas := by
  unfold noteCacheBad
  dsimp only
  split
  · split
    · exact noteRefetch_pas ..
    · exact noteLost_pas ..
  · exact noteRefetch_pas ..

theorem noteBad_pas (s : State) (a : Nat) : (noteBad s a).pas = s.pas := by
  unfold noteBad
  split
  · exact noteSpmBad_pas ..
  · split
    · exact noteHbmBad_pas ..
    · exact noteCacheBad_pas ..
  · exact noteFarBad_pas ..
  · rfl

theorem markBad_pas (s : State) (a : Nat) : (markBad s a).pas = s.pas := by
  unfold markBad
  split
  · exact noteBad_pas ..
  · exact noteBad_pas ..
  · exact noteBad_pas ..
  · rfl

theorem noteAbort_pas (s : State) (why : Abort) (a : Nat) : (noteAbort s p why a).pas = s.pas := by
  cases why with
  | ecc => exact markBad_pas s a
  | cells => exact logRec_pas ..
  | cancel => rfl
  | window => rfl
  | lossOfLock => rfl

/-! ## The latch (R134, R135) -/

/-- The thread with a deferred exception latched. -/
def latchDeferred (s : State) (p : Pa) (t : Thr) (c : Cause) (fpc : Nat) (lol : Bool) : State :=
  (countExc s p t c.exc).modThr p t fun y =>
    { y with exc := latch y.exc c true false fpc y.pc, undelivered := true, lossOfLock := lol }

/-- The thread with a deferred exception discarded. -/
def latchOverrun (s : State) (p : Pa) (t : Thr) : State :=
  s.modThr p t fun y => { y with exc := { y.exc with overrun := true } }

theorem thr_latchDeferred (s : State) (c : Cause) (fpc : Nat) (lol : Bool) :
    (latchDeferred s p t c fpc lol).thr p t = { s.thr p t with
      exc := latch (s.thr p t).exc c true false fpc (s.thr p t).pc, undelivered := true, lossOfLock := lol } := by
  rw [latchDeferred, State.thr_modThr_same, countExc_thr]

theorem thr_latchOverrun (s : State) :
    (latchOverrun s p t).thr p t = { s.thr p t with exc := { (s.thr p t).exc with overrun := true } } :=
  State.thr_modThr_same ..

theorem raiseDeferred_discards (s : State) (c : Cause) (fpc : Nat) (lol : Bool)
    (h : (s.thr p t).st ≠ .run ∨ (s.thr p t).undelivered = true) : raiseDeferred s p t c fpc lol = latchOverrun s p t :=
  if_pos h

theorem raiseDeferred_latches (s : State) (c : Cause) (fpc : Nat) (lol : Bool) (hst : (s.thr p t).st = .run)
    (hun : (s.thr p t).undelivered = false) : raiseDeferred s p t c fpc lol =
      if stalled s p t ∧ !s.regBit (.pa p .ctrl) 0 then deliver (latchDeferred s p t c fpc lol) p t
      else latchDeferred s p t c fpc lol :=
  if_neg (by simp [hst, hun])

theorem stalled_of_waits_nothing {s : State} (hw : (s.thr p t).wait = .none) (hn : (s.thr p t).needs = []) :
    stalled s p t = false := by
  simp [stalled, hw, hn]

end

/-- The cause that an abort reports. -/
def abortCause (why : Abort) (addr : BitVec 48) : Cause :=
  { exc := abortExc why, addr := if why = .cells then 0 else addr.toNat }

/-- The state in which the abort of an instruction has undone it, before its thread hears of it. -/
def abortedBy (s : State) (p : Pa) (o : Op) (why : Abort) (addr : BitVec 48) : State :=
  abortOp (noteAbort s p why addr.toNat) p o
    (if abortExc why = .ecc && !decide (why = .lossOfLock) then o.kept (if why = .cells then 0 else addr.toNat) else 0)

theorem keepsControl_abortedBy (s : State) (p : Pa) (o : Op) (why : Abort) (addr : BitVec 48) :
    keepsControl p o.thr s (abortedBy s p o why addr) :=
  keepsControl_trans (keepsControl_of_pas (noteAbort_pas s why _)) (keepsControl_abortOp _ o _)

theorem exec_deferredException {p : Pa} {n : Nat} {s : State} {o : Op} (why : Abort) (addr : BitVec 48)
    (ho : (s.pa p).ops.find? (·.id = n) = some o) (hk : o.keyed = none) :
    exec (.deferredException p n why addr) s = .next (raiseDeferred (abortedBy s p o why addr) p o.thr
      (abortCause why addr) o.fpc (why = .lossOfLock)) := by
  show Host.Outcome.next (abortInstr s p n why addr) = _
  simp only [abortInstr, ho, abortAll, hk]
  rfl

theorem latch_abortCause_addr (old : ExcRegs) (why : Abort) (addr : BitVec 48) (d b : Bool) (fpc epc : Nat) :
    (latch old (abortCause why addr) d b fpc epc).addr = if why = .cells then 0 else addr := by
  unfold latch abortCause
  dsimp only
  split
  · rfl
  · exact BitVec.ofNat_toNat ..

/-- Settles O25: the abort keeps what decides between the latch and the overrun (`keepsControl_abortedBy`), and poisons the
destination; the two cases of `raiseDeferred` then give the fields. -/
theorem deferredExceptions : Obligations.DeferredExceptions := by
  intro p n why addr s o ho hk
  rw [exec_deferredException why addr ho hk]
  have keep := keepsControl_abortedBy s p o why addr
  have pois : ∀ i, o.poison = some i → dPoisoned (((abortedBy s p o why addr).thr p o.thr).rc i.val) = true :=
    fun i hi => abortOp_poisons _ o _ i hi
  generalize abortedBy s p o why addr = v at keep pois
  by_cases h : (s.thr p o.thr).st ≠ .run ∨ (s.thr p o.thr).undelivered = true
  · have hd : raiseDeferred v p o.thr (abortCause why addr) o.fpc (why = .lossOfLock) = latchOverrun v p o.thr :=
      raiseDeferred_discards _ _ _ _ (by rwa [keep.st_eq, keep.undelivered_eq])
    refine ⟨latchOverrun v p o.thr, .inl (by rw [hd]), fun _ _ => by rw [hd], fun i hi => ?_, fun hst hun => ?_, fun _ => ?_⟩
    · rw [thr_latchOverrun]; exact pois i hi
    · simp [hst, hun] at h
    · rw [thr_latchOverrun, ← keep.exc_eq, ← keep.st_eq]; exact ⟨rfl, rfl⟩
  · obtain ⟨hst, hun⟩ : (s.thr p o.thr).st = .run ∧ (s.thr p o.thr).undelivered = false := by simpa using h
    have hl := raiseDeferred_latches v (abortCause why addr) o.fpc (why = .lossOfLock)
      (keep.st_eq.trans hst) (keep.undelivered_eq.trans hun)
    rw [hl]
    refine ⟨latchDeferred v p o.thr (abortCause why addr) o.fpc (why = .lossOfLock), ?_, fun hw hn => ?_, fun i hi => ?_,
      fun _ _ => ?_, fun h' => absurd h' h⟩
    · split
      · exact .inr rfl
      · exact .inl rfl
    · have ns := stalled_of_waits_nothing (keep.wait_eq.trans hw) (keep.needs_eq.trans hn)
      rw [if_neg (by simp [ns])]
    · rw [thr_latchDeferred]; exact pois i hi
    · rw [thr_latchDeferred, ← keep.pc_eq]
      exact ⟨rfl, keep.st_eq.trans hst, rfl, rfl, rfl, rfl, latch_abortCause_addr ..⟩

end Sys2Proof.Machine
end

section
/-! The scalar operations of group 1 (R116, R117, Tables 4.10 and 4.11). -/

namespace Sys2Proof.Machine

section
variable {p : Pa} {t : Thr} {w : IWord} {s : State}

@[simp] theorem Thread.ws_st (y : Thread) (i : Nat) (v : Word) : (y.ws i v).st = y.st := by unfold Thread.ws; split <;> rfl
@[simp] theorem Thread.ws_exc (y : Thread) (i : Nat) (v : Word) : (y.ws i v).exc = y.exc := by unfold Thread.ws; split <;> rfl
@[simp] theorem Thread.ws_pc (y : Thread) (i : Nat) (v : Word) : (y.ws i v).pc = y.pc := by unfold Thread.ws; split <;> rfl
@[simp] theorem Thread.ws_loops (y : Thread) (i : Nat) (v : Word) : (y.ws i v).loops = y.loops := by
  unfold Thread.ws; split <;> rfl

theorem thr_ws_same (s : State) (p : Pa) (t : Thr) (i : Nat) (v : Word) : (s.ws p t i v).thr p t = (s.thr p t).ws i v :=
  State.thr_modThr_same ..

theorem aluBody_ready {o : Nat} (f : Word → Word → Word) (h : ready 1 o p t w (aluRegs w) s = true)
    (hf : formOk [0, 1] w = true) :
    aluBody f p t w s = .next (s.ws p t (wRd w) (f ((s.thr p t).rs (wRs1 w)) (aluY (s.thr p t) w))) := by
  rw [aluBody, hf, needRegs_of_ready h]
  rfl

/-- The divider accepts a divide. -/
theorem meets_divider (hd : (s.pa p).divTo ≤ (s.pa p).cycle) : meets s p t [.divider] = true := by
  simp [meets, Need.now, waitIf, hd]

theorem divBody_ready {o : Nat} (f : Word → Word → Word) (h : ready 1 o p t w (aluRegs w) s = true)
    (hf : formOk [0, 1] w = true) (hd : (s.pa p).divTo ≤ (s.pa p).cycle) :
    divBody f p t w s = .next ((s.modPa p fun x => { x with divTo := x.cycle + 18 }).ws p t (wRd w)
      (f ((s.thr p t).rs (wRs1 w)) (aluY (s.thr p t) w))) := by
  rw [divBody, hf, needRegs_of_ready h, unlessWaits_meets (meets_divider hd)]
  rfl

end

/-- A row of Table 4.10: its instruction, its op and its result. -/
abbrev ScalarRow := (Pa → Thr → IWord → Instr) × Nat × (Word → Word → Word)

/-- The row's meaning is the group 1 operation with the row's result. -/
def ScalarRow.isAlu (e : ScalarRow) : Prop := ∃ f,
  (∀ p t w s, exec (e.1 p t w) s = .next (attemptOf 1 e.2.1 p t w (aluBody f p t w) s)) ∧ f = e.2.2

/-- The row's meaning is the divide with the row's result. -/
def ScalarRow.isDiv (e : ScalarRow) : Prop := ∃ f,
  (∀ p t w s, exec (e.1 p t w) s = .next (attemptOf 1 e.2.1 p t w (divBody f p t w) s)) ∧ f = e.2.2

section
variable {e : ScalarRow} {p : Pa} {t : Thr} {w : IWord} {s : State}

/-- A group 1 operation has its row's result, in sequence and with no exception. -/
theorem ScalarRow.isAlu.results (he : e.isAlu) (h : ready 1 e.2.1 p t w (aluRegs w) s = true)
    (hf : formOk [0, 1] w = true) :
    ∃ u, exec (e.1 p t w) s = .next u ∧ (u.thr p t).exc = (s.thr p t).exc ∧ (u.thr p t).st = (s.thr p t).st ∧
      ranAs p t (s.ws p t (wRd w) (e.2.2 ((s.thr p t).rs (wRs1 w)) (aluY (s.thr p t) w))) u := by
  obtain ⟨f, hx, hr⟩ := he
  have ran := ready_next h (aluBody_ready f h hf)
  refine ⟨_, hx p t w s, ?_, ?_, hr ▸ ran⟩
  · rw [ranAs_exc ran, thr_ws_same, Thread.ws_exc]
  · rw [ranAs_st ran, thr_ws_same, Thread.ws_st]

/-- A divide has its row's result, in sequence and with no exception, where the divider is free. -/
theorem ScalarRow.isDiv.results (he : e.isDiv) (h : ready 1 e.2.1 p t w (aluRegs w) s = true)
    (hf : formOk [0, 1] w = true) (hd : (s.pa p).divTo ≤ (s.pa p).cycle) :
    ∃ u, exec (e.1 p t w) s = .next u ∧ (u.thr p t).exc = (s.thr p t).exc ∧ (u.thr p t).st = (s.thr p t).st ∧
      ranAs p t ((s.modPa p fun x => { x with divTo := x.cycle + 18 }).ws p t (wRd w)
        (e.2.2 ((s.thr p t).rs (wRs1 w)) (aluY (s.thr p t) w))) u := by
  obtain ⟨f, hx, hr⟩ := he
  have ran := ready_next h (divBody_ready f h hf hd)
  have busy : (s.modPa p fun x => { x with divTo := x.cycle + 18 }).thr p t = s.thr p t := by
    unfold State.thr; rw [State.pa_modPa_same]; rfl
  refine ⟨_, hx p t w s, ?_, ?_, hr ▸ ran⟩
  · rw [ranAs_exc ran, thr_ws_same, Thread.ws_exc, busy]
  · rw [ranAs_st ran, thr_ws_same, Thread.ws_st, busy]

end

/-! ## The model's results are those of Table 4.10 -/

theorem aluSlt_eq : aluSlt = fun x y => if x.toInt < y.toInt then 1 else 0 := by
  funext x y
  by_cases h : x.toInt < y.toInt <;> simp [aluSlt, ofBool, sx, h]

theorem aluSltu_eq : aluSltu = fun x y => if x.toNat < y.toNat then 1 else 0 := by
  funext x y; simp [aluSltu, ofBool]

theorem mul_eq_ofNat : (fun x y : Word => x * y) = fun x y => BitVec.ofNat 64 (x.toNat * y.toNat) := by
  funext x y; exact BitVec.eq_of_toNat_eq (by simp)

/-- Settles O7: every row is the one group 1 operation, or the one divide, with the function of its row. -/
theorem scalarResults : Obligations.ScalarResults := by
  refine ⟨fun e he => have row : ScalarRow.isAlu e := ?alu; fun p t w s => row.results,
    fun e he => have row : ScalarRow.isDiv e := ?div; fun p t w s => row.results⟩
  case alu =>
    revert e
    simp only [List.forall_mem_cons, List.not_mem_nil, false_imp_iff, implies_true, and_true]
    refine ⟨?add, ?sub, ?and, ?or, ?xor, ?shl, ?shr, ?sra, ?slt, ?sltu, ?min, ?max, ?minu, ?maxu, ?mul, ?mulhu, ?mulh⟩
    case slt => exact ⟨aluSlt, fun _ _ _ _ => rfl, aluSlt_eq⟩
    case sltu => exact ⟨aluSltu, fun _ _ _ _ => rfl, aluSltu_eq⟩
    case mul => exact ⟨(· * ·), fun _ _ _ _ => rfl, mul_eq_ofNat⟩
    all_goals exact ⟨_, fun _ _ _ _ => rfl, rfl⟩
  case div =>
    revert e
    simp only [List.forall_mem_cons, List.not_mem_nil, false_imp_iff, implies_true, and_true]
    refine ⟨?divu, ?remu, ?div, ?rem⟩
    all_goals exact ⟨_, fun _ _ _ _ => rfl, rfl⟩

end Sys2Proof.Machine
end

section
/-! Hardware loops and special reads (R125 to R127, Table 4.16). -/

namespace Sys2Proof.Machine

/-! ## The next pc (R127, R136) -/

section
variable {y : Thread} {l : Loop} {r : List Loop}

theorem nextPc_run (h : y.st = .run) : nextPc y = stepLoops y.pc y.loops := if_neg (by simp [h])

theorem nextPc_handler (h : y.st = .handler) : nextPc y = (y.pc + 1, y.loops) := if_pos h

theorem nextPc_ws (y : Thread) (i : Nat) (v : Word) : nextPc (y.ws i v) = nextPc y := by simp [nextPc]

theorem stepLoops_round (l : Loop) (r : List Loop) (h : 1 < l.remaining) : stepLoops l.last (l :: r) =
    (l.start, { l with remaining := l.remaining - 1, index := l.index + 1 } :: r) := by
  simp [stepLoops, h]

theorem stepLoops_popped (l : Loop) (r : List Loop) (h : l.remaining ≤ 1) : stepLoops l.last (l :: r) = stepLoops l.last r := by
  simp [stepLoops, Nat.not_lt.mpr h]

theorem stepLoops_outside (pc : Nat) (r : List Loop) (h : ∀ m, r.head? = some m → m.last ≠ pc) :
    stepLoops pc r = (pc + 1, r) := by
  cases r with
  | nil => rfl
  | cons m r => simp [stepLoops, h m rfl]

end

/-- Settles O13: in run state the next pc is `stepLoops`, case by case; NOP advances its thread. -/
theorem loopStep : Obligations.LoopStep := by
  refine ⟨fun y l r hl => ⟨fun hst hpc hrem => ?_, fun hst hpc hrem => ?_, fun hst hpc => ?_, fun hst => ?_, ?_⟩, ?_⟩
  · rw [nextPc_run hst, hl, ← hpc, stepLoops_round l r hrem]
  · have popped : nextPc y = stepLoops y.pc r := by rw [nextPc_run hst, hl, ← hpc, stepLoops_popped l r hrem]
    exact ⟨popped.trans (nextPc_run (y := { y with loops := r }) hst).symm, fun hm => popped.trans (stepLoops_outside _ r hm)⟩
  · rw [nextPc_run hst, hl]
    exact stepLoops_outside _ _ (by simpa using hpc)
  · rw [nextPc_handler hst, hl]
  · exact nextPc_ws y
  · intro p t w s h hf
    have ran : ranAs p t s (attemptOf 0 0x00 p t w (nopBody w) s) := ready_next h (by simp [nopBody, hf])
    exact ⟨_, rfl, by rw [ranAs_thr ran]; rfl⟩

/-! ## LOOP (R126) -/

section
variable {a b : Bool} {file : RegFile} {reg : Nat} {k : Issue}

theorem unlessRefused_of_false (ha : a = false) (hb : b = false) :
    unlessRefused [causeIf a .illegal file reg, causeIf b .illegal] none k = k := by
  subst ha hb
  rfl

/-- Of two conditions for EXC_ILLEGAL, either refuses the instruction. -/
theorem unlessRefused_of_true (h : a = true ∨ b = true) : ∃ c,
    unlessRefused [causeIf a .illegal file reg, causeIf b .illegal] none k = .refuse c none ∧ c.exc = .illegal := by
  cases a with
  | true => cases b <;> exact ⟨_, rfl, rfl⟩
  | false =>
    obtain rfl : b = true := by simpa using h
    exact ⟨_, rfl, rfl⟩

end

/-- Only the count of a register can be above 0xFFFF_FFFF. -/
theorem loopCount_of_imm {y : Thread} {w : IWord} (h : wLoopSrc w = true) : loopCount y w ≤ 0xFFFFFFFF := by
  have := (field w 96 32).isLt
  simp only [loopCount, h, if_true, wLoopImm]
  omega

section
variable {p : Pa} {t : Thr} {w : IWord} {s : State}
  (h : ready 0 0x08 p t w (if wLoopSrc w then [] else [.s (fs (wRd w))]) s = true) (hf : formOk [3] w = true)
include h hf

/-- A LOOP that R126 allows opens a loop, or skips one of count zero. -/
theorem loopBody_allowed (hn : loopCount (s.thr p t) w ≤ 0xFFFFFFFF) (hst : (s.thr p t).st = .run)
    (hpc : (s.thr p t).pc < wTarget w) (hlen : (s.thr p t).loops.length < 4)
    (hin : ∀ l, (s.thr p t).loops.head? = some l → wTarget w ≤ l.last) :
    loopBody p t w s = if loopCount (s.thr p t) w = 0 then .jumped (s.modThr p t fun y => y.skipLoop (wTarget w))
      else .next (s.modThr p t fun y => { y with
        loops := { start := y.pc + 1, last := wTarget w, remaining := loopCount (s.thr p t) w, index := 0 } :: y.loops }) := by
  unfold loopBody
  rw [hf, needRegs_of_ready h]
  refine unlessRefused_of_false (by simp [Nat.not_lt.mpr hn]) ?_
  cases hl : (s.thr p t).loops with
  | nil => simp [hst, Nat.not_le.mpr hpc]
  | cons l r =>
    have hlast : wTarget w ≤ l.last := hin l (by rw [hl]; rfl)
    have hr : r.length < 3 := Nat.lt_of_succ_lt_succ (by simpa [hl] using hlen)
    simp [hst, Nat.not_le.mpr hpc, hlast, hr]

/-- A LOOP that R126 refuses, for its count or for where it stands. -/
theorem loopBody_refused (hbad : 0xFFFFFFFF < loopCount (s.thr p t) w ∨ wTarget w ≤ (s.thr p t).pc
      ∨ 4 ≤ (s.thr p t).loops.length ∨ ∃ l, (s.thr p t).loops.head? = some l ∧ l.last < wTarget w) :
    ∃ c, loopBody p t w s = .refuse c none ∧ c.exc = .illegal := by
  unfold loopBody
  rw [hf, needRegs_of_ready h]
  refine unlessRefused_of_true ?_
  rcases hbad with hn | hpc | hlen | ⟨l, hl, hlast⟩
  · have hsrc : wLoopSrc w = false :=
      Bool.eq_false_iff.mpr fun hsrc => absurd (loopCount_of_imm hsrc) (Nat.not_le.mpr hn)
    exact .inl (by simp [hsrc, hn])
  · exact .inr (by simp [hpc])
  · exact .inr (by simp [hlen])
  · obtain ⟨r, hr⟩ := List.head?_eq_some_iff.mp hl
    exact .inr (by simp [hr, hlast])

end

/-- Settles O12: LOOP by its allowed and its refused case. -/
theorem loopEntry : Obligations.LoopEntry := by
  intro p t w s h hf y n
  refine ⟨fun hn hst hpc hlen hin => ?_, fun hbad => ?_⟩
  · have body := loopBody_allowed h hf hn hst hpc hlen hin
    refine ⟨_, rfl, fun pos => ?_, fun zero => ?_⟩
    · exact ready_next h (body.trans (if_neg (Nat.ne_of_gt pos)))
    · have ran := ready_jumped h (body.trans (if_pos zero))
      refine ⟨ran, ?_⟩
      rw [issuedAs_thr ran, State.thr_modThr_same]
      exact (nextPc_run (y := { y with pc := wTarget w }) hst).symm
  · obtain ⟨c, body, hc⟩ := loopBody_refused h hf hbad
    exact ⟨_, rfl, ready_refuse h body hc⟩

/-! ## SRD (R125) -/

section
variable (s : State) (p : Pa) (t : Thr)

theorem srdValue_addr : srdValue s p t 6 = some (BitVec.ofNat 64 (s.thr p t).exc.addr.toNat) := by
  simp [srdValue, fld]

theorem srdValue_capability (n : Fin 4) : srdValue s p t (8 + n.val) = some (wisCapWord n) :=
  match n with
  | 0 => rfl
  | 1 => rfl
  | 2 => rfl
  | 3 => rfl

theorem srdValue_loopIndex (n : Fin 4) : srdValue s p t (12 + n.val) =
    some (((s.thr p t).loops[n.val]?.map fun l => BitVec.ofNat 64 l.index).getD 0) := by
  have index : ∀ o : Option Loop, (match o with | some l => BitVec.ofNat 64 l.index | none => 0)
      = (o.map fun l => BitVec.ofNat 64 l.index).getD 0 := fun o => by cases o <;> rfl
  match n with
  | 0 => exact congrArg some (index (s.thr p t).loops[0]?)
  | 1 => exact congrArg some (index (s.thr p t).loops[1]?)
  | 2 => exact congrArg some (index (s.thr p t).loops[2]?)
  | 3 => exact congrArg some (index (s.thr p t).loops[3]?)

/-- A selector that Table 4.16 does not list has no value. -/
theorem srdValue_unlisted {k : Nat} (h : k = 7 ∨ 18 ≤ k) : srdValue s p t k = none := by
  unfold srdValue
  dsimp only
  split
  iterate 9 omega
  rw [if_neg (by omega), if_neg (by omega)]

end

section
variable {p : Pa} {t : Thr} {w : IWord} {s : State}
  (h : ready 0 0x20 p t w [.s (fs (wRd w))] s = true) (hf : formOk [1] w = true)
include h hf

theorem srdBody_value {v : Word} (hv : srdValue s p t (wImm64 w).toNat = some v) :
    srdBody p t w s = .next (s.ws p t (wRd w) v) := by
  simp only [srdBody, hf, hv, needRegs_of_ready h]
  rfl

omit h in
theorem srdBody_unlisted (hv : srdValue s p t (wImm64 w).toNat = none) : srdBody p t w s = illegal := by
  simp only [srdBody, hf, hv]
  rfl

end

/-- Settles O17: SRD by what its selector reads. -/
theorem specialReads : Obligations.SpecialReads := by
  intro p t w s h hf k y
  refine ⟨fun v hv => ⟨_, rfl, ready_next h (srdBody_value h hf ?_)⟩,
    fun hk => ⟨_, rfl, ready_refuse h (srdBody_unlisted hf (srdValue_unlisted s p t hk)) rfl⟩⟩
  change srdValue s p t k = some v
  rcases hv with ⟨hk, rfl⟩ | ⟨hk, rfl⟩ | ⟨hk, rfl⟩ | ⟨hk, rfl⟩ | ⟨hk, rfl⟩ | ⟨hk, rfl⟩ | ⟨hk, rfl⟩ | ⟨n, hk, rfl⟩ | ⟨n, hk, rfl⟩
    | ⟨hk, rfl⟩ | ⟨hk, rfl⟩
  all_goals rw [hk]
  case inr.inr.inr.inr.inr.inr.inl => exact srdValue_addr s p t
  case inr.inr.inr.inr.inr.inr.inr.inl => exact srdValue_capability s p t n
  case inr.inr.inr.inr.inr.inr.inr.inr.inl => exact srdValue_loopIndex s p t n
  all_goals rfl

end Sys2Proof.Machine
end
